-- ==== Sys2Proof/Word.lean ====
section
/-! DEFINITION. The word types of the Fjomund F7: scalar registers and addresses are 64 bits, vector registers
512 bits, instruction words 16 bits (spec/02 R29, R34; spec/08 R164). -/

namespace Sys2Proof

/-- A scalar register, a virtual address, a CSR (R29, R9, R206). -/
abbrev Word := BitVec 64
/-- One byte of memory. -/
abbrev Byte := BitVec 8
/-- One 16-bit word of a chain (R164). -/
abbrev Half := BitVec 16
/-- The contents of a vector register (R34). -/
abbrev VWord := BitVec 512
/-- A 7-bit register number (R170). -/
abbrev RegNo := BitVec 7
/-- A 3-bit scope code (R117). -/
abbrev ScopeCode := BitVec 3
/-- A 2-bit order annotation: 00 plain, 01 acquire, 10 release, 11 acquire-release (R118). -/
abbrev OrderCode := BitVec 2
/-- A ring number of the issuing core's group (R240). -/
abbrev RingNo := BitVec 4
/-- A 4-bit element type code (R57). -/
abbrev TypeCode := BitVec 4

end Sys2Proof
end

