-- ==== Sys2Proof/Machine/Cipher.lean ====
section
/-! DEFINITION. The standard functions that spec/ names and does not print: AES-256 (FIPS 197) in XTS mode (IEEE 1619) for the
encryption of vault bytes (spec/04 R83), SHA-512 (FIPS 180-4) for the measurement registers (spec/25 R405), and Ed25519 (RFC
8032) for the report of the device (R406). They are PRESUMED to be the published standards (log 10). Bytes are numbers below 256. -/

namespace Sys2Proof.Machine

/-! ## AES-256 -/

namespace Aes

/-- Multiplication by x in the field of AES. -/
def xtime (a : Nat) : Nat := if 128 ≤ a then (2 * a) ^^^ 0x11B else 2 * a
/-- Multiplication by a constant of at most four bits. -/
def mul (k a : Nat) : Nat :=
  let b := xtime a
  let c := xtime b
  let d := xtime c
  (if k.testBit 0 then a else 0) ^^^ (if k.testBit 1 then b else 0) ^^^ (if k.testBit 2 then c else 0)
    ^^^ (if k.testBit 3 then d else 0)

/-- The substitution table: entry i is byte i of the number. -/
def sboxTable : Nat :=
  0x16bb54b00f2d99416842e6bf0d89a18cdf2855cee9871e9b948ed9691198f8e19e1dc186b95735610ef6034866b53e708a8bbd4b1f74dde8c6b4a61c2e2578ba08ae7a65eaf4566ca94ed58d6d37c8e779e4959162acd3c25c2406490a3a32e0db0b5ede14b8ee4688902a22dc4f816073195d643d7ea7c41744975fec130ccdd2f3ff1021dab6bcf5389d928f40a351a89f3c507f02f94585334d43fbaaefd0cf584c4a39becb6a5bb1fc20ed00d153842fe329b3d63b52a05a6e1b1a2c830975b227ebe28012079a059618c323c7041531d871f1e5a534ccf73f362693fdb7c072a49cafa2d4adf04759fa7dc982ca76abd7fe2b670130c56f6bf27b777c63
/-- Its inverse. -/
def invTable : Nat :=
  0x7d0c2155631469e126d677ba7e042b17619953833cbbebc8b0f52aae4d3be0a0ef9cc9939f7ae52d0d4ab519a97f51605fec8027591012b131c7078833a8dd1ff45acd78fec0db9a2079d2c64b3e56fc1bbe18aa0e62b76f89c5291d711af1476edf751ce837f9e28535ade72274ac9673e6b4f0cecff297eadc674f4111913a6b8a130103bdafc1020f3fca8f1e2cd00645b3b80558e4f70ad3bc8c00abd890849d8da75746155edab9edfd5048706c92b6655dcc5ca4d41698688664f6f87225d18b6d49a25b76b224d92866a12e084ec3fa420b954cee3d23c2a632947b54cbe9dec444438e3487ff2f9b8239e37cfbd7f3819ea340bf38a53630d56a0952
def sbox (a : Nat) : Nat := sboxTable / 256 ^ a % 256
def invSbox (a : Nat) : Nat := invTable / 256 ^ a % 256

def xorBytes (a b : List Nat) : List Nat := a.zipWith (· ^^^ ·) b

/-- The next word of the key schedule after the words so far, newest first: word i. -/
def nextWord (i : Nat) (ws : List (List Nat)) : List Nat :=
  let t := ws.headD []
  let t :=
    if i % 8 == 0 then
      match t with
      | [a, b, c, d] => [sbox b ^^^ 2 ^ (i / 8 - 1), sbox c, sbox d, sbox a]
      | _ => t
    else if i % 8 == 4 then t.map sbox else t
  xorBytes (ws.getD 7 []) t
/-- The schedule, newest word first, after `n` more words. -/
def expand : Nat → Nat → List (List Nat) → List (List Nat)
  | 0, _, ws => ws
  | n + 1, i, ws => expand n (i + 1) (nextWord i ws :: ws)
/-- The fifteen round keys of a 32-byte key. -/
def roundKeys (key : List Nat) : List (List Nat) :=
  let ws := (expand 52 8 ((List.range 8).map fun i => (key.drop (4 * i)).take 4).reverse).reverse
  (List.range 15).map fun r => ((ws.drop (4 * r)).take 4).flatten

/-- Row r of the state is rotated by r columns; byte 4c + r is row r of column c. -/
def shiftRows (s : List Nat) : List Nat := (List.range 16).map fun i => s.getD ((i + 4 * (i % 4)) % 16) 0
def invShiftRows (s : List Nat) : List Nat := (List.range 16).map fun i => s.getD ((i + 12 * (i % 4)) % 16) 0
/-- Each column times the circulant matrix whose first row is `k`. -/
def mixWith (k : List Nat) (s : List Nat) : List Nat :=
  (List.range 16).map fun i =>
    (List.range 4).foldl (fun x j => x ^^^ mul (k.getD ((j + 4 - i % 4) % 4) 0) (s.getD (i / 4 * 4 + j) 0)) 0
def mixColumns : List Nat → List Nat := mixWith [2, 3, 1, 1]
def invMixColumns : List Nat → List Nat := mixWith [14, 11, 13, 9]

/-- The rounds after the first key addition; the last one does not mix. -/
def encRounds : List (List Nat) → List Nat → List Nat
  | [], s => s
  | [k], s => xorBytes (shiftRows (s.map sbox)) k
  | k :: ks, s => encRounds ks (xorBytes (mixColumns (shiftRows (s.map sbox))) k)
def encrypt (rk : List (List Nat)) (s : List Nat) : List Nat :=
  match rk with
  | [] => s
  | k :: ks => encRounds ks (xorBytes s k)

def decRounds : List (List Nat) → List Nat → List Nat
  | [], s => s
  | [k], s => xorBytes ((invShiftRows s).map invSbox) k
  | k :: ks, s => decRounds ks (invMixColumns (xorBytes ((invShiftRows s).map invSbox) k))
/-- The inverse cipher; the round keys are given last one first. -/
def decrypt (kr : List (List Nat)) (s : List Nat) : List Nat :=
  match kr with
  | [] => s
  | k :: ks => decRounds ks (xorBytes s k)

def natBytes : Nat → Nat → List Nat
  | 0, _ => []
  | n + 1, v => v % 256 :: natBytes n (v / 256)

/-- A tweak times x, as a little-endian number. -/
def alpha (t : Nat) : Nat := if 2 ^ 127 ≤ t then (2 * t) ^^^ (2 ^ 128 + 0x87) else 2 * t

/-- The blocks of a data unit under tweaks t, tαx, tαx², … -/
def xtsBlocks (f : List Nat → List Nat) : Nat → Nat → List Nat → List Nat
  | 0, _, _ => []
  | n + 1, t, bs =>
    let tb := natBytes 16 t
    xorBytes (f (xorBytes (bs.take 16) tb)) tb ++ xtsBlocks f n (alpha t) (bs.drop 16)

/-- XTS over one 64-byte data unit: the data key is in bytes 0 to 31 of the key material, the tweak key in bytes 32 to 63
(R373). -/
def xts (enc : Bool) (key : BitVec 512) (tweak : Nat) (bs : List Nat) : List Nat :=
  let kb := natBytes 64 key.toNat
  let rk := roundKeys (kb.take 32)
  let t := (encrypt (roundKeys (kb.drop 32)) (natBytes 16 tweak)).foldr (fun b v => b + 256 * v) 0
  xtsBlocks (if enc then encrypt rk else decrypt rk.reverse) 4 t bs

end Aes

/-- What key material `q` sees of a data unit that key material `u` wrote, where its writer sees `bs`; without material the
bytes are plaintext (R83). -/
def recode (u q : Option (BitVec 512)) (tweak : Nat) (bs : List Nat) : List Nat :=
  let stored := match u with | none => bs | some k => Aes.xts true k tweak bs
  match q with | none => stored | some k => Aes.xts false k tweak stored

/-! ## SHA-512 -/

namespace Sha

/-- The initial hash value: fractional parts of the square roots of the first eight primes. -/
def init : List Word :=
  [0x6a09e667f3bcc908, 0xbb67ae8584caa73b, 0x3c6ef372fe94f82b, 0xa54ff53a5f1d36f1,
     0x510e527fade682d1, 0x9b05688c2b3e6c1f, 0x1f83d9abfb41bd6b, 0x5be0cd19137e2179]
/-- The round constants: fractional parts of the cube roots of the first eighty primes. -/
def rounds : List Word :=
  [0x428a2f98d728ae22, 0x7137449123ef65cd, 0xb5c0fbcfec4d3b2f, 0xe9b5dba58189dbbc,
     0x3956c25bf348b538, 0x59f111f1b605d019, 0x923f82a4af194f9b, 0xab1c5ed5da6d8118]
    ++ [0xd807aa98a3030242, 0x12835b0145706fbe, 0x243185be4ee4b28c, 0x550c7dc3d5ffb4e2,
     0x72be5d74f27b896f, 0x80deb1fe3b1696b1, 0x9bdc06a725c71235, 0xc19bf174cf692694]
    ++ [0xe49b69c19ef14ad2, 0xefbe4786384f25e3, 0xfc19dc68b8cd5b5, 0x240ca1cc77ac9c65,
     0x2de92c6f592b0275, 0x4a7484aa6ea6e483, 0x5cb0a9dcbd41fbd4, 0x76f988da831153b5]
    ++ [0x983e5152ee66dfab, 0xa831c66d2db43210, 0xb00327c898fb213f, 0xbf597fc7beef0ee4,
     0xc6e00bf33da88fc2, 0xd5a79147930aa725, 0x6ca6351e003826f, 0x142929670a0e6e70]
    ++ [0x27b70a8546d22ffc, 0x2e1b21385c26c926, 0x4d2c6dfc5ac42aed, 0x53380d139d95b3df,
     0x650a73548baf63de, 0x766a0abb3c77b2a8, 0x81c2c92e47edaee6, 0x92722c851482353b]
    ++ [0xa2bfe8a14cf10364, 0xa81a664bbc423001, 0xc24b8b70d0f89791, 0xc76c51a30654be30,
     0xd192e819d6ef5218, 0xd69906245565a910, 0xf40e35855771202a, 0x106aa07032bbd1b8]
    ++ [0x19a4c116b8d2d0c8, 0x1e376c085141ab53, 0x2748774cdf8eeb99, 0x34b0bcb5e19b48a8,
     0x391c0cb3c5c95a63, 0x4ed8aa4ae3418acb, 0x5b9cca4f7763e373, 0x682e6ff3d6b2b8a3]
    ++ [0x748f82ee5defb2fc, 0x78a5636f43172f60, 0x84c87814a1f0ab72, 0x8cc702081a6439ec,
     0x90befffa23631e28, 0xa4506cebde82bde9, 0xbef9a3f7b2c67915, 0xc67178f2e372532b]
    ++ [0xca273eceea26619c, 0xd186b8c721c0c207, 0xeada7dd6cde0eb1e, 0xf57d4f7fee6ed178,
     0x6f067aa72176fba, 0xa637dc5a2c898a6, 0x113f9804bef90dae, 0x1b710b35131c471b]
    ++ [0x28db77f523047d84, 0x32caab7b40c72493, 0x3c9ebe0a15c9bebc, 0x431d67c49c100d4c,
     0x4cc5d4becb3e42b6, 0x597f299cfc657e2a, 0x5fcb6fab3ad6faec, 0x6c44198c4a475817]

def rotr (x : Word) (n : Nat) : Word := x.rotateRight n
def small0 (x : Word) : Word := rotr x 1 ^^^ rotr x 8 ^^^ (x >>> 7)
def small1 (x : Word) : Word := rotr x 19 ^^^ rotr x 61 ^^^ (x >>> 6)
def big0 (x : Word) : Word := rotr x 28 ^^^ rotr x 34 ^^^ rotr x 39
def big1 (x : Word) : Word := rotr x 14 ^^^ rotr x 18 ^^^ rotr x 41

/-- A big-endian 64-bit word of eight bytes. -/
def word (bs : List Byte) : Word := BitVec.ofNat 64 (bs.foldl (fun v b => v * 256 + b.toNat) 0)
def wordBytes (w : Word) : List Byte := (List.range 8).map fun i => w.extractLsb' (8 * (7 - i)) 8

/-- The message schedule, newest word first, after `n` more words. -/
def schedule : Nat → List Word → List Word
  | 0, ws => ws
  | n + 1, ws => schedule n ((small1 (ws.getD 1 0) + ws.getD 6 0 + small0 (ws.getD 14 0) + ws.getD 15 0) :: ws)

/-- One round on the eight working variables. -/
def round (v : List Word) (kw : Word × Word) : List Word :=
  match v with
  | [a, b, c, d, e, f, g, h] =>
    let t1 := h + big1 e + ((e &&& f) ^^^ (~~~e &&& g)) + kw.1 + kw.2
    let t2 := big0 a + ((a &&& b) ^^^ (a &&& c) ^^^ (b &&& c))
    [t1 + t2, a, b, c, d + t1, e, f, g]
  | _ => v

def block (h : List Word) (bs : List Byte) : List Word :=
  let m := ((List.range 16).map fun i => word ((bs.drop (8 * i)).take 8)).reverse
  let ws := (schedule 64 m).reverse
  ((rounds.zip ws).foldl round h).zipWith (· + ·) h

def blocks : Nat → List Word → List Byte → List Word
  | 0, h, _ => h
  | n + 1, h, bs => blocks n (block h (bs.take 128)) (bs.drop 128)

/-- The padded message. -/
def pad (bs : List Byte) : List Byte :=
  let n := bs.length
  bs ++ [0x80] ++ List.replicate ((239 - n % 128) % 128) 0
    ++ (List.range 16).map fun i => BitVec.ofNat 8 (8 * n / 256 ^ (15 - i))

def digest (bs : List Byte) : List Byte :=
  let p := pad bs
  (blocks (p.length / 128) init p).flatMap wordBytes

end Sha

/-- The SHA-512 digest of a message; byte 0 is the least significant of the result. -/
def sha512 (bs : List Byte) : BitVec 512 :=
  BitVec.ofNat 512 ((Sha.digest bs).foldr (fun b v => b.toNat + 256 * v) 0)

/-! ## Ed25519 -/

namespace Ed

/-- The prime of the field, and the order of the base point. -/
def p : Nat := 2 ^ 255 - 19
def order : Nat := 2 ^ 252 + 27742317777372353535851937790883648493

/-- A power modulo `m` with the `n` lowest bits of the exponent. -/
def power (m a e : Nat) : Nat → Nat
  | 0 => 1
  | n + 1 => let r := power m a (e / 2) n; if e % 2 == 1 then r * r % m * a % m else r * r % m
def inverse (a : Nat) : Nat := power p a (p - 2) 255
/-- The constant of the curve, −121665/121666. -/
def curve : Nat := (p - 121665) * inverse 121666 % p

/-- A point in extended coordinates: the affine ones are x/z and y/z, and t is x·y/z. -/
structure Pt where
  x : Nat
  y : Nat
  z : Nat
  t : Nat
deriving DecidableEq, Repr

def Pt.zero : Pt := ⟨0, 1, 1, 0⟩
def Pt.base : Pt :=
  let x := 15112221349535400772501151409588531511454012693041857206046113283949847762202
  let y := 46316835694926478169428394003475163141307993866256225615783033603165251855960
  ⟨x, y, 1, x * y % p⟩
/-- The sum of two points; the law is complete, so it doubles as well. -/
def Pt.add (u v : Pt) : Pt :=
  let a := (u.y + p - u.x) * (v.y + p - v.x) % p
  let b := (u.y + u.x) * (v.y + v.x) % p
  let c := 2 * u.t * curve % p * v.t % p
  let d := 2 * u.z * v.z % p
  let e := (b + p - a) % p
  let f := (d + p - c) % p
  let g := (d + c) % p
  let h := (b + a) % p
  ⟨e * f % p, g * h % p, f * g % p, e * h % p⟩
/-- The multiple of a point by the `n` lowest bits of `k`. -/
def Pt.times (u : Pt) (k : Nat) : Nat → Pt
  | 0 => .zero
  | n + 1 => let r := u.times (k / 2) n; let d := r.add r; if k % 2 == 1 then d.add u else d
/-- A point as 32 bytes: y, with the parity of x in the top bit. -/
def Pt.encode (u : Pt) : Nat :=
  let w := inverse u.z
  u.y * w % p + u.x * w % p % 2 * 2 ^ 255

end Ed

/-- Little-endian bytes of a number. -/
def leBytes (n v : Nat) : List Byte := (Aes.natBytes n v).map (BitVec.ofNat 8)

/-- The secret scalar of a 32-byte private key. -/
def edScalar (seed : BitVec 256) : Nat := (sha512 (leBytes 32 seed.toNat)).toNat % 2 ^ 254 / 8 * 8 + 2 ^ 254
/-- The Ed25519 public key of a private key. -/
def edPublic (seed : BitVec 256) : BitVec 256 := BitVec.ofNat 256 (Ed.Pt.base.times (edScalar seed) 255).encode
/-- The Ed25519 signature over a message: the encoded point in its low 32 bytes. -/
def edSign (seed : BitVec 256) (msg : List Byte) : BitVec 512 :=
  let secret := (leBytes 64 (sha512 (leBytes 32 seed.toNat)).toNat).drop 32
  let r := (sha512 (secret ++ msg)).toNat % Ed.order
  let point := (Ed.Pt.base.times r 255).encode
  let k := (sha512 (leBytes 32 point ++ leBytes 32 (edPublic seed).toNat ++ msg)).toNat
  BitVec.ofNat 512 (point + (r + k * edScalar seed) % Ed.order * 2 ^ 256)

end Sys2Proof.Machine
end

