-- ==== Sys2Proof/Syntax.lean ====
section
/-! DEFINITION. The instructions and steps of the Fjomund F7: one constructor of `Instr` for each row of
spec/opcode_table.json. Chains that a hart fetches (spec/08 R164 to R186) decode to the constructors that stand for
instructions; the constructors that stand for steps of the device's units (`Instr.isEvent`, the last of the list) are
never fetched: the schedule chooses them, with their parameters in an `EvArgs`. -/

namespace Sys2Proof

/-- The third operand of a chain (R173): a register named by PB, an immediate of PI, or neither. -/
inductive Src3 where
  | none
  | reg (b : RegNo)
  | imm (v : Word)
deriving DecidableEq, Repr, Inhabited

/-- A register operand, or the immediate that stands in its place. -/
inductive RegOrImm where
  | reg (a : RegNo)
  | imm (v : Word)
deriving DecidableEq, Repr, Inhabited

/-- Which of CSRW, CSRS and CSRC writes a CSR (R207). -/
inductive CsrKind where
  | write
  | set
  | clear
deriving DecidableEq, Repr, Inhabited

/-- Registers D and A (R164). -/
structure RR where
  d : RegNo
  a : RegNo
deriving DecidableEq, Repr, Inhabited

/-- MOVI: D and the sign-extended immediate (R175). -/
structure MovI where
  d : RegNo
  imm : Word
deriving DecidableEq, Repr, Inhabited

/-- D, A and the third operand (R173). -/
structure Alu where
  d : RegNo
  a : RegNo
  y : Src3
deriving DecidableEq, Repr, Inhabited

/-- SELF: D, A, and an immediate or the two-address form (R200). -/
structure SelfOp where
  d : RegNo
  a : RegNo
  imm : Option Word
deriving DecidableEq, Repr, Inhabited

/-- A scalar load or store: data register, address operands, order and scope (R225, R227). -/
structure MemOp where
  d : RegNo
  a : RegNo
  off : Src3
  ord : OrderCode
  sc : ScopeCode
deriving DecidableEq, Repr, Inhabited

/-- LDBT and STBT: data register, width from A or from PI, order and scope (R230). -/
structure BitOp where
  d : RegNo
  w : RegOrImm
  ord : OrderCode
  sc : ScopeCode
deriving DecidableEq, Repr, Inhabited

/-- SETBP: D, A and the immediate, 0 without PI (R231). -/
structure SetBp where
  d : RegNo
  a : RegNo
  imm : Word
deriving DecidableEq, Repr, Inhabited

/-- CALL and LOOP: D and the displacement in 16-bit words from the base word (R175). -/
structure Jump where
  d : RegNo
  disp : Word
deriving DecidableEq, Repr, Inhabited

/-- A CSR instruction: D and the 12-bit CSR number (R175, R206). -/
structure CsrOp where
  d : RegNo
  csr : BitVec 12
deriving DecidableEq, Repr, Inhabited

/-- WAITPH: D, A and the awaited phase (R222). -/
structure WaitPh where
  d : RegNo
  a : RegNo
  p : Bool
deriving DecidableEq, Repr, Inhabited

/-- TRAP: A and the low 16 bits of the immediate (R218). -/
structure TrapOp where
  a : RegNo
  code : BitVec 16
deriving DecidableEq, Repr, Inhabited

/-- A page-1 atomic: D, A, the register of PB or the two-address form, the PI offset, order and scope (R232). -/
structure AmoOp where
  d : RegNo
  a : RegNo
  v : Option RegNo
  off : Word
  ord : OrderCode
  sc : ScopeCode
deriving DecidableEq, Repr, Inhabited

/-- CAS and CASQ: D, A, B, order and scope (R234). -/
structure CasOp where
  d : RegNo
  a : RegNo
  b : RegNo
  ord : OrderCode
  sc : ScopeCode
deriving DecidableEq, Repr, Inhabited

/-- PREF: hint, A and offset (R237). -/
structure PrefOp where
  stage : Bool
  a : RegNo
  off : Word
deriving DecidableEq, Repr, Inhabited

/-- ARED: op, buffer register, barrier n, level L, type t, w - 1 (R355). -/
structure AredOp where
  op : BitVec 2
  a : RegNo
  n : BitVec 4
  l : BitVec 3
  t : TypeCode
  w1 : BitVec 3
deriving DecidableEq, Repr, Inhabited

/-- SPAWN: D, A and B (R352). -/
structure SpawnOp where
  d : RegNo
  a : RegNo
  b : RegNo
deriving DecidableEq, Repr, Inhabited

/-- LAUNCH: D, A and the optional queue register (R353). -/
structure LaunchOp where
  d : RegNo
  a : RegNo
  b : Option RegNo
deriving DecidableEq, Repr, Inhabited

/-- A page-3 operation with a third operand: type, variant bit, predicate select, D, A, third operand (R244 to R246). -/
structure VOp where
  t : TypeCode
  var : Bool
  m : BitVec 3
  d : RegNo
  a : RegNo
  y : Src3
deriving DecidableEq, Repr, Inhabited

/-- A vector operation on D and A alone: type, variant bit, predicate select (R245). -/
structure VUn where
  t : TypeCode
  var : Bool
  m : BitVec 3
  d : RegNo
  a : RegNo
deriving DecidableEq, Repr, Inhabited

/-- A comparison into mask register D (R250). -/
structure VCmp where
  t : TypeCode
  m : BitVec 3
  d : BitVec 3
  a : RegNo
  y : Src3
deriving DecidableEq, Repr, Inhabited

/-- VCVT: destination type, round toward zero, predicate, D, A, source type, part (R251). -/
structure VCvt where
  t : TypeCode
  rz : Bool
  m : BitVec 3
  d : RegNo
  a : RegNo
  src : TypeCode
  part : BitVec 3
deriving DecidableEq, Repr, Inhabited

/-- VBCAST: type, predicate, D and the scalar register or immediate (R252). -/
structure VBc where
  t : TypeCode
  m : BitVec 3
  d : RegNo
  v : RegOrImm
deriving DecidableEq, Repr, Inhabited

/-- A mask operation: type, mD, mA and the mask of PB or the two-address form (R257). -/
structure MkOp where
  t : TypeCode
  d : BitVec 3
  a : BitVec 3
  b : Option (BitVec 3)
deriving DecidableEq, Repr, Inhabited

/-- A mask operation into scalar D (R257). -/
structure MkToReg where
  t : TypeCode
  d : RegNo
  a : BitVec 3
deriving DecidableEq, Repr, Inhabited

/-- MKSET: mask D from scalar A (R257). -/
structure MkFromReg where
  t : TypeCode
  d : BitVec 3
  a : RegNo
deriving DecidableEq, Repr, Inhabited

/-- VLD, VST, VLDS, VSTS: predicate, D, A, offset or stride operand, order and scope (R258). -/
structure VMem where
  m : BitVec 3
  d : RegNo
  a : RegNo
  off : Src3
  ord : OrderCode
  sc : ScopeCode
deriving DecidableEq, Repr, Inhabited

/-- VGATH and VSCAT: predicate, D, A, index vector, 4-byte elements, shift, order and scope (R258). -/
structure VGat where
  m : BitVec 3
  d : RegNo
  a : RegNo
  b : RegNo
  w4 : Bool
  sh : BitVec 3
  ord : OrderCode
  sc : ScopeCode
deriving DecidableEq, Repr, Inhabited

/-- VLDBT: type, predicate, D and field width (R260). -/
structure VLdbt where
  t : TypeCode
  m : BitVec 3
  d : RegNo
  w : BitVec 7
deriving DecidableEq, Repr, Inhabited

/-- VTOPK: type, non-zero variant, predicate, D, A and k (R261). -/
structure VTopk where
  t : TypeCode
  nz : Bool
  m : BitVec 3
  d : RegNo
  a : RegNo
  k : BitVec 5
deriving DecidableEq, Repr, Inhabited

/-- VCBEXP: type, predicate, D, A, codebook register and first index (R265). -/
structure VCbexp where
  t : TypeCode
  m : BitVec 3
  d : RegNo
  a : RegNo
  b : RegNo
  j : BitVec 7
deriving DecidableEq, Repr, Inhabited

/-- SBIND: stream, direction, A and offset (R268). -/
structure SBindOp where
  n : BitVec 3
  wr : Bool
  a : RegNo
  off : Word
deriving DecidableEq, Repr, Inhabited

/-- A keyed map operation or MITER: .k16, value form, D, A, key or position register, offset (R278). -/
structure MapKey where
  k16 : Bool
  vf : BitVec 2
  d : RegNo
  a : RegNo
  b : RegNo
  off : Word
deriving DecidableEq, Repr, Inhabited

/-- The descriptor address of MINIT, MGROW and MSTAT (R278). -/
structure MapAddr where
  a : RegNo
  off : Word
deriving DecidableEq, Repr, Inhabited

/-- MSTEP: descriptor address and the optional count register (R287). -/
structure MapStep where
  a : RegNo
  b : Option RegNo
  off : Word
deriving DecidableEq, Repr, Inhabited

/-- MXMUL: bank, repeat, object register, rings (R303). -/
structure MxMul where
  bank : Bool
  rep : Bool
  a : RegNo
  qa : RingNo
  qb : RingNo
deriving DecidableEq, Repr, Inhabited

/-- MXMULR: bank, repeat, object register, ring, slot, chunk (R303). -/
structure MxMulR where
  bank : Bool
  rep : Bool
  a : RegNo
  qa : RingNo
  slot : BitVec 2
  chunk : BitVec 2
deriving DecidableEq, Repr, Inhabited

/-- MXST and MXLDC: bank, bf16 form, object register, offset register (R303). -/
structure MxBank where
  bank : Bool
  bf16 : Bool
  a : RegNo
  b : RegNo
deriving DecidableEq, Repr, Inhabited

/-- ROWACT: slot, D, A and offset (R303). -/
structure RowAct where
  k : BitVec 2
  d : RegNo
  a : RegNo
  off : Word
deriving DecidableEq, Repr, Inhabited

/-- A host request through a BAR: the BAR (0, 2 or 4), the offset in it, the requester identifier (R393). -/
structure HostReq where
  bar : Nat
  off : Nat
  requester : Nat
deriving DecidableEq, Repr, Inhabited

/-- The parameters of a step of a unit: two indices, a register value, a number, a flag, a nonce, bytes, a host
request, and harts. Each step reads the ones its meaning names. -/
structure EvArgs where
  i : Nat := 0
  j : Nat := 0
  v : Word := 0
  w : Nat := 0
  ok : Bool := false
  big : BitVec 512 := 0
  bytes : List Byte := []
  req : HostReq := ⟨0, 0, 0⟩
  harts : List Nat := []
deriving DecidableEq, Repr, Inhabited

/-- One constructor for each row of spec/opcode_table.json, in the table's families. -/
inductive Instr where
  /-- ILL (R184): The defined illegal instruction raises ILLEGAL_INSTRUCTION and has no other effect. -/
  | ill
  /-- MOV (R198): Copies register A to D. -/
  | mov (o : RR)
  /-- MOVI (R198): Loads the sign-extended immediate into D. -/
  | movi (o : MovI)
  /-- ADD (R193): D := x + y, modulo 2^64. -/
  | add (o : Alu)
  /-- SUB (R193): D := x − y, modulo 2^64. -/
  | sub (o : Alu)
  /-- AND (R193): D := x & y. -/
  | and3 (o : Alu)
  /-- OR (R193): D := x | y. -/
  | or3 (o : Alu)
  /-- XOR (R193): D := x ^ y. -/
  | xor3 (o : Alu)
  /-- ANDN (R193): D := x & ~y. -/
  | andn (o : Alu)
  /-- SHL (R193): Shifts x left by y & 63. -/
  | shl (o : Alu)
  /-- SHR (R193): Shifts x right by y & 63, with zeros shifted in. -/
  | shr (o : Alu)
  /-- SAR (R193): Shifts x right by y & 63, with copies of bit 63 shifted in. -/
  | sar (o : Alu)
  /-- ROL (R193): Rotates x left by y & 63. -/
  | rol (o : Alu)
  /-- MUL (R193): Writes the low 64 bits of x × y. -/
  | mul (o : Alu)
  /-- MULH (R193): Writes the high 64 bits of the signed product x × y. -/
  | mulh (o : Alu)
  /-- MULHN (R193): Writes the high 64 bits of the unsigned product x × y. -/
  | mulhn (o : Alu)
  /-- DIV (R194): Signed division truncated toward zero; it never traps. -/
  | sdiv (o : Alu)
  /-- DIVN (R194): Unsigned division; it never traps. -/
  | divn (o : Alu)
  /-- REM (R194): Signed remainder, with the sign of x. -/
  | rem (o : Alu)
  /-- REMN (R194): Unsigned remainder. -/
  | remn (o : Alu)
  /-- MIN (R193): Signed minimum of x and y. -/
  | min (o : Alu)
  /-- MAX (R193): Signed maximum of x and y. -/
  | max (o : Alu)
  /-- MINN (R193): Unsigned minimum of x and y. -/
  | minn (o : Alu)
  /-- MAXN (R193): Unsigned maximum of x and y. -/
  | maxn (o : Alu)
  /-- SLT (R193): Writes 1 if x < y as signed values, and 0 otherwise. -/
  | slt (o : Alu)
  /-- SLTN (R193): Writes 1 if x < y as unsigned values, and 0 otherwise. -/
  | sltn (o : Alu)
  /-- SEQ (R193): Writes 1 if x = y, and 0 otherwise. -/
  | seq (o : Alu)
  /-- SEL (R193): Selects x if c0 ≠ 0, and y otherwise. -/
  | sel (o : Alu)
  /-- CLZ (R195): Counts the leading zero bits of A. -/
  | clz (o : RR)
  /-- CTZ (R195): Counts the trailing zero bits of A. -/
  | ctz (o : RR)
  /-- POPC (R195): Counts the 1 bits of A. -/
  | popc (o : RR)
  /-- BSWAP (R195): Reverses the byte order of A. -/
  | bswap (o : RR)
  /-- SEXT (R196): Sign-extends x from bit y & 63. -/
  | sext (o : Alu)
  /-- ZEXT (R196): Zero-extends x from bit y & 63. -/
  | zext (o : Alu)
  /-- BFX (R196): Extracts a bit field of x, with position and length taken from y. -/
  | bfx (o : Alu)
  /-- BFI (R196): Inserts the low bits of x into D, with position and length taken from y. -/
  | bfi (o : Alu)
  /-- CRD (R199): Resolves a coordinate address to absolute form and adds y to its offset, wrapping in 17 bits; any other value is plainly added. -/
  | crd (o : Alu)
  /-- SELF (R200): Forms the absolute address of offset x + y in the issuer's own scratchpad. -/
  | self (o : SelfOp)
  /-- CLMUL (R197): Writes the low 64 bits of the carry-less product of x and y. -/
  | clmul (o : Alu)
  /-- CLMULH (R197): Writes bits 126:64 of the carry-less product of x and y. -/
  | clmulh (o : Alu)
  /-- LD1S (R227): Loads 1 byte, sign-extended. -/
  | ld1s (o : MemOp)
  /-- LD1N (R227): Loads 1 byte, zero-extended. -/
  | ld1n (o : MemOp)
  /-- LD2S (R227): Loads 2 aligned bytes, sign-extended. -/
  | ld2s (o : MemOp)
  /-- LD2N (R227): Loads 2 aligned bytes, zero-extended. -/
  | ld2n (o : MemOp)
  /-- LD4S (R227): Loads 4 aligned bytes, sign-extended. -/
  | ld4s (o : MemOp)
  /-- LD4N (R227): Loads 4 aligned bytes, zero-extended. -/
  | ld4n (o : MemOp)
  /-- LD8 (R227): Loads 8 aligned bytes. -/
  | ld8 (o : MemOp)
  /-- LD16 (R227): Loads 16 aligned bytes into a register pair. -/
  | ld16 (o : MemOp)
  /-- ST1 (R227): Stores 1 byte. -/
  | st1 (o : MemOp)
  /-- ST2 (R227): Stores 2 aligned bytes. -/
  | st2 (o : MemOp)
  /-- ST4 (R227): Stores 4 aligned bytes. -/
  | st4 (o : MemOp)
  /-- ST8 (R227): Stores 8 aligned bytes. -/
  | st8 (o : MemOp)
  /-- ST16 (R227): Stores a register pair as 16 aligned bytes. -/
  | st16 (o : MemOp)
  /-- LDBT (R230): Reads a w-bit field at BITP of the hart's own scratchpad, then advances BITP. -/
  | ldbt (o : BitOp)
  /-- STBT (R230): Writes a w-bit field at BITP of the hart's own scratchpad, then advances BITP. -/
  | stbt (o : BitOp)
  /-- SETBP (R231): Sets BITP to A + imm and returns the former BITP. -/
  | setbp (o : SetBp)
  /-- CALL (R202): Writes a link to D and transfers by a displacement. -/
  | call (o : Jump)
  /-- JMP (R202): Transfers by a displacement and writes no register. -/
  | jmp (disp : Word)
  /-- JR (R203): Transfers to the value of A, with an optional link. -/
  | jr (o : RR)
  /-- LOOP (R204): Decrements D and branches while the result is non-zero. -/
  | loopb (o : Jump)
  /-- CSRR (R207): Reads a CSR into D. -/
  | csrr (o : CsrOp)
  /-- CSRW (R207): Writes D to a CSR. -/
  | csrw (o : CsrOp)
  /-- CSRS (R207): Sets the bits of D in the writable fields of a CSR. -/
  | csrs (o : CsrOp)
  /-- CSRC (R207): Clears the bits of D in the writable fields of a CSR. -/
  | csrc (o : CsrOp)
  /-- WAITT (R221): Holds the hart out of issue until TICK ≥ A. -/
  | waitt (a : RegNo)
  /-- WAITPH (R222): Polls word 0 of a completion object until its phase bit equals p. -/
  | waitph (o : WaitPh)
  /-- TRAP (R218): Raises SYSCALL with the value of A and a 16-bit code. -/
  | trap (o : TrapOp)
  /-- BZ (R201): Branches if c0 = 0. -/
  | bz (disp : Word)
  /-- BNZ (R201): Branches if c0 ≠ 0. -/
  | bnz (disp : Word)
  /-- BN (R201): Branches if c0 < 0. -/
  | bn (disp : Word)
  /-- BNN (R201): Branches if c0 ≥ 0. -/
  | bnn (disp : Word)
  /-- BP (R201): Branches if c0 > 0. -/
  | bp (disp : Word)
  /-- BNP (R201): Branches if c0 ≤ 0. -/
  | bnp (disp : Word)
  /-- BBS (R201): Branches if bit 0 of c0 is 1. -/
  | bbs (disp : Word)
  /-- BBC (R201): Branches if bit 0 of c0 is 0. -/
  | bbc (disp : Word)
  /-- BMANY (R201): Branches if m0 ≠ 0. -/
  | bmany (disp : Word)
  /-- BMNONE (R201): Branches if m0 = 0. -/
  | bmnone (disp : Word)
  /-- BAL (R201): Branches always. -/
  | bal (disp : Word)
  /-- NOP (R223): Has no effect beyond ending its span. -/
  | nop
  /-- HRET (R336): Ends the running message handler and returns to HPC. -/
  | hret
  /-- YIELD (R223): Moves the hart behind every other ready hart of its priority. -/
  | yield
  /-- ERET (R217): Returns from a kernel trap, or a monitor trap, to the saved mode. -/
  | eret
  /-- UERET (R217): Returns from a delegated user trap. -/
  | ueret
  /-- EBREAK (R219): Raises BREAKPOINT. -/
  | ebreak
  /-- WFE (R224): Clears the event flag, or waits until it is set. -/
  | wfe
  /-- SYNCF (R239): Synchronises instruction fetch with the hart's writes. -/
  | syncf
  /-- FENCE_FULL (R128): Orders every earlier memory event before every later one, at the given scope. -/
  | fenceFull (sc : ScopeCode)
  /-- FENCE_ACQ (R128): Orders earlier reads before later events, at the given scope. -/
  | fenceAcq (sc : ScopeCode)
  /-- FENCE_REL (R128): Orders earlier events before later writes, at the given scope. -/
  | fenceRel (sc : ScopeCode)
  /-- FENCE_ENG (R238): Acts as the release fence and also waits until the hart's earlier copy transfers and array commands complete. -/
  | fenceEng (sc : ScopeCode)
  /-- AMOADD (R233): Atomic add that returns the old value. -/
  | amoadd (o : AmoOp)
  /-- AMOAND (R233): Atomic AND that returns the old value. -/
  | amoand (o : AmoOp)
  /-- AMOOR (R233): Atomic OR that returns the old value. -/
  | amoor (o : AmoOp)
  /-- AMOXOR (R233): Atomic XOR that returns the old value. -/
  | amoxor (o : AmoOp)
  /-- AMOMIN (R233): Atomic signed minimum. -/
  | amomin (o : AmoOp)
  /-- AMOMAX (R233): Atomic signed maximum. -/
  | amomax (o : AmoOp)
  /-- AMOMINN (R233): Atomic unsigned minimum. -/
  | amominn (o : AmoOp)
  /-- AMOMAXN (R233): Atomic unsigned maximum. -/
  | amomaxn (o : AmoOp)
  /-- AMOSWAP (R233): Atomic swap. -/
  | amoswap (o : AmoOp)
  /-- CAS (R234): Compares and swaps 8 bytes and reports success in c0. -/
  | cas (o : CasOp)
  /-- CASQ (R234): Compares and swaps 16 bytes on register pairs. -/
  | casq (o : CasOp)
  /-- AADDZ (R235): Atomically adds to a counter and sends the trigger message when the result is zero. -/
  | aaddz (o : AmoOp)
  /-- PREF (R237): Fills the translation caches and optionally stages a vault codeword. -/
  | pref (o : PrefOp)
  /-- RINGCFG (R241): Writes a ring's configuration word and resets its counters. -/
  | ringcfg (q : RingNo) (a : RegNo)
  /-- RINGADV (R241): Publishes n slots at the tail and stamps them. -/
  | ringadv (q : RingNo) (n : BitVec 7)
  /-- RINGPOP (R241): Consumes n slots at the head. -/
  | ringpop (q : RingNo) (n : BitVec 7)
  /-- RINGQ (R241): Reports a ring's counters and mode in c0. -/
  | ringq (q : RingNo)
  /-- SEND (R337): Sends a message with a header and up to seven payload registers. -/
  | send (o : RR)
  /-- SENDW (R337): Sends a message and waits for its fate to be reported in c0. -/
  | sendw (o : RR)
  /-- BAR (R355): Arrives at barrier n of level L and waits for the episode to complete. -/
  | bar (n : BitVec 4) (l : BitVec 3)
  /-- ARED (R356): Arrives at a barrier with an all-reduction of the hart's buffer. -/
  | ared (o : AredOp)
  /-- QADD (R358): Adds a value to the launch's quiescence counter at the core. -/
  | qadd (v : RegOrImm)
  /-- QWAIT (R359): Holds the hart until quiescence is detected over level L. -/
  | qwait (l : Option (BitVec 3))
  /-- HALT (R349): Ends the hart, frees its lease, banks and octets, and returns it to the free list. -/
  | halt
  /-- SPAWN (R352): Starts one more hart of the running launch on a target core. -/
  | spawn (o : SpawnOp)
  /-- LAUNCH (R353): Posts a launch record to a device-fed launch queue. -/
  | launch (o : LaunchOp)
  /-- CPWAIT (R324): Waits for a copy transfer to end, or traps when its promise is missed. -/
  | cpwait (a : RegNo)
  /-- CPQ (R324): Returns a copy transfer's status without waiting. -/
  | cpq (o : RR)
  /-- CPABORT (R324): Aborts a live transfer of the hart's own. -/
  | cpabort (a : RegNo)
  /-- VADD (R247): Lane-wise add. -/
  | vadd (o : VOp)
  /-- VSUB (R247): Lane-wise subtract. -/
  | vsub (o : VOp)
  /-- VMUL (R247): Lane-wise multiply. -/
  | vmul (o : VOp)
  /-- VFMA (R247): Lane-wise fused multiply-add. -/
  | vfma (o : VOp)
  /-- VFMS (R247): Lane-wise fused multiply-subtract. -/
  | vfms (o : VOp)
  /-- VDIV (R247): Lane-wise divide. -/
  | vdiv (o : VOp)
  /-- VSQRT (R247): Lane-wise square root. -/
  | vsqrt (o : VUn)
  /-- VMIN (R247): Lane-wise minimum. -/
  | vmin (o : VOp)
  /-- VMAX (R247): Lane-wise maximum. -/
  | vmax (o : VOp)
  /-- VABS (R247): Lane-wise absolute value. -/
  | vabs (o : VUn)
  /-- VNEG (R247): Lane-wise negation. -/
  | vneg (o : VUn)
  /-- VAND (R247): Lane-wise AND. -/
  | vand (o : VOp)
  /-- VOR (R247): Lane-wise OR. -/
  | vor (o : VOp)
  /-- VXOR (R247): Lane-wise XOR. -/
  | vxor (o : VOp)
  /-- VSHL (R247): Lane-wise left shift. -/
  | vshl (o : VOp)
  /-- VSHR (R247): Lane-wise logical right shift. -/
  | vshr (o : VOp)
  /-- VSAR (R247): Lane-wise arithmetic right shift. -/
  | vsar (o : VOp)
  /-- VCMPEQ (R250): Compares lanes for equality into a mask. -/
  | vcmpeq (o : VCmp)
  /-- VCMPLT (R250): Compares lanes for less-than into a mask. -/
  | vcmplt (o : VCmp)
  /-- VCMPLE (R250): Compares lanes for less-or-equal into a mask. -/
  | vcmple (o : VCmp)
  /-- VSEL (R250): Selects lanes of x or y under m0. -/
  | vsel (o : VOp)
  /-- VCVT (R251): Converts lanes between element types. -/
  | vcvt (o : VCvt)
  /-- VPOPC (R247): Lane-wise population count. -/
  | vpopc (o : VUn)
  /-- VCLMUL (R247): Lane-wise carry-less multiply on n64 lanes. -/
  | vclmul (o : VOp)
  /-- VPSUM (R255): Inclusive prefix sum of the lanes, with a carry-in. -/
  | vpsum (o : VOp)
  /-- VREDADD (R256): Reduces the lanes to a scalar by addition in a fixed tree order. -/
  | vredadd (o : VUn)
  /-- VREDMIN (R256): Reduces the lanes to their minimum. -/
  | vredmin (o : VUn)
  /-- VREDMAX (R256): Reduces the lanes to their maximum. -/
  | vredmax (o : VUn)
  /-- VBCAST (R252): Broadcasts a scalar to the active lanes. -/
  | vbcast (o : VBc)
  /-- VEXTR (R252): Extracts one lane into a scalar. -/
  | vextr (o : VOp)
  /-- VINS (R252): Inserts a scalar into one lane. -/
  | vins (o : VOp)
  /-- VPERM (R253): Permutes or rotates the lanes. -/
  | vperm (o : VOp)
  /-- VCOMPR (R254): Compresses the active lanes to the bottom of D. -/
  | vcompr (o : VUn)
  /-- VEXPD (R254): Expands consecutive lanes into the active lanes. -/
  | vexpd (o : VUn)
  /-- MKAND (R257): ANDs two masks. -/
  | mkand (o : MkOp)
  /-- MKOR (R257): ORs two masks. -/
  | mkor (o : MkOp)
  /-- MKXOR (R257): XORs two masks. -/
  | mkxor (o : MkOp)
  /-- MKNOT (R257): Inverts a mask. -/
  | mknot (o : MkOp)
  /-- MKPOPC (R257): Counts the set bits of a mask. -/
  | mkpopc (o : MkToReg)
  /-- MKFIRST (R257): Gives the index of the lowest set bit of a mask. -/
  | mkfirst (o : MkToReg)
  /-- MKSET (R257): Sets a mask from a scalar. -/
  | mkset (o : MkFromReg)
  /-- MKGET (R257): Copies a mask into a scalar. -/
  | mkget (o : MkToReg)
  /-- VLD (R258): Loads 64 aligned bytes into a vector register. -/
  | vld (o : VMem)
  /-- VST (R258): Stores a vector register to 64 aligned bytes. -/
  | vst (o : VMem)
  /-- VLDS (R258): Strided vector load. -/
  | vlds (o : VMem)
  /-- VSTS (R258): Strided vector store. -/
  | vsts (o : VMem)
  /-- VGATH (R258): Gathers elements through an index vector. -/
  | vgath (o : VGat)
  /-- VSCAT (R258): Scatters elements through an index vector. -/
  | vscat (o : VGat)
  /-- VLDBT (R260): Loads E bit fields at BITP into the lanes, then advances BITP. -/
  | vldbt (o : VLdbt)
  /-- VTOPK (R261): Selects the k largest lanes with their indices. -/
  | vtopk (o : VTopk)
  /-- VPRUNE (R264): Stochastically prunes each group of four lanes to n lanes. -/
  | vprune (o : VUn)
  /-- VCBEXP (R265): Expands codebook indices into bf16 lanes. -/
  | vcbexp (o : VCbexp)
  /-- VRNG (R263): Fills the active lanes with generator outputs. -/
  | vrng (m : BitVec 3) (d : RegNo)
  /-- VCLAIM (R266): Claims one or two octets from the core's pool, waiting in its FIFO. -/
  | vclaim (two : Bool)
  /-- VGIVE (R266): Gives a held octet to a hart, or returns it to the pool. -/
  | vgive (slotB : Bool) (rcv : Option (BitVec 2))
  /-- VTAKE (R266): Takes the oldest pending gift into an empty slot. -/
  | vtake
  /-- SBIND (R268): Binds a stream register to a pattern descriptor. -/
  | sbind (o : SBindOp)
  /-- SUNBIND (R268): Releases a stream register after its pushed elements are written. -/
  | sunbind (n : BitVec 3)
  /-- MPROBE (R280): Looks up a key in a Kalide map. -/
  | mprobe (o : MapKey)
  /-- MINS (R280): Inserts a key that is absent from the map. -/
  | mins (o : MapKey)
  /-- MUPS (R280): Updates a key, or inserts it when it is absent. -/
  | mups (o : MapKey)
  /-- MREM (R280): Removes a key and returns its value. -/
  | mrem (o : MapKey)
  /-- MINIT (R286): Initialises the hardware words of a shard descriptor. -/
  | minit (o : MapAddr)
  /-- MGROW (R286): Starts a growth of a shard. -/
  | mgrow (o : MapAddr)
  /-- MSTEP (R287): Performs up to n migration steps of a growing shard. -/
  | mstep (o : MapStep)
  /-- MSTAT (R287): Reads descriptor words 3 and 4 of a shard. -/
  | mstat (d : RegNo) (o : MapAddr)
  /-- MITER (R288): Steps through the keys of a map from a position. -/
  | miter (o : MapKey)
  /-- MXLEASE (R304): Requests the lease of an array for a run of commands. -/
  | mxlease (arr : Option (BitVec 2)) (n : BitVec 7)
  /-- MXFREE (R304): Ends the hart's lease and releases the named banks it owns. -/
  | mxfree (banks : BitVec 2)
  /-- MXZERO (R308): Clears an accumulator bank in array queue order. -/
  | mxzero (bank : Bool)
  /-- MXMUL (R307): Queues tile-product commands with operands from two rings. -/
  | mxmul (o : MxMul)
  /-- MXMULR (R307): Queues tile-product commands with B taken from a row latch. -/
  | mxmulr (o : MxMulR)
  /-- MXST (R308): Stores an accumulator bank to a group-striped image. -/
  | mxst (o : MxBank)
  /-- MXLDC (R308): Loads an accumulator bank from a group-striped image. -/
  | mxldc (o : MxBank)
  /-- MXLSET (R306): Writes the loop register MXL and returns its old value. -/
  | mxlset (d : RegNo) (v : RegOrImm)
  /-- ROWACT (R309): Requests the activation of a row into a slot and returns its ready tick. -/
  | rowact (o : RowAct)
  /-- ROWTAKE (R310): Moves the open row into the slot's latch over the culvert. -/
  | rowtake (k : BitVec 2)
  /-- ROWCLOSE (R310): Frees a slot once its readers have taken their operands. -/
  | rowclose (k : BitVec 2)
  /-- ROWQ (R311): Reports the state, row and ready tick of a slot. -/
  | rowq (d : RegNo) (k : BitVec 2)
  /-- TINV_ADDR (R106): Removes the translations of one 64 KiB page in the issuer's PSPACE. -/
  | tinvAddr (sc : ScopeCode) (a : RegNo)
  /-- TINV_SPACE (R106): Removes every non-global translation of the issuer's PSPACE. -/
  | tinvSpace (sc : ScopeCode) (a : RegNo)
  /-- TINV_ADDRALL (R106): Removes the translations of one page in every PSPACE of the partition. -/
  | tinvAddrall (sc : ScopeCode) (a : RegNo)
  /-- TINV_ALL (R106): Removes every translation of the partition. -/
  | tinvAll (sc : ScopeCode) (a : RegNo)
  /-- KEYLD (R373): Loads a key slot with 64 bytes of key material. -/
  | keyld (o : RR)
  /-- KEYLD_CLR (R373): Clears a key slot, which makes it unusable. -/
  | keyldClr (d : RegNo)
  /-- CTXSAVE (R369): Takes a hart, drains it and saves its context to a save area. -/
  | ctxsave (o : RR)
  /-- CTXLOAD (R371): Restores a saved hart from its save area. -/
  | ctxload (o : RR)
  /-- EVICT (R369): Saves an idle hart, or refuses with −3. -/
  | evict (o : RR)
  /-- EVICT_DROP (R372): Discards a saved context and frees its resources. -/
  | evictDrop (d : RegNo)
  /-- RESUME (R368): Makes a parked or stopped hart active again. -/
  | resume (d : RegNo)
  /-- RESUME_XFER (R368): Continues a fault-suspended copy transfer at its cursor. -/
  | resumeXfer (o : RR)
  /-- MIGR (R109): Marks a page for migration, or returns BUSY at once if it is pinned. -/
  | migr (whole : Bool) (o : RR)
  /-- MIGR_FORCE (R109): Marks a page for migration and waits, up to mwait ticks, for its pins to drain. -/
  | migrForce (whole : Bool) (o : RR)
  /-- SPLIT (R112): Splinters the leaf holding a VA once. -/
  | split (o : RR)
  /-- CPGO_READ (R320): A read of CPGO checks the setup and starts a copy transfer in a free slot. -/
  | cpgoRead (d : RegNo)
  /-- MBTAB_WRITE (R327): A write of MBTAB makes the sluice re-read all eight mailbox entries. -/
  | mbtabWrite (k : CsrKind) (d : RegNo)
  /-- FAULTQ_HEAD_WRITE (R366): A write of FAULTQ head frees room, and held records are posted in order. -/
  | faultqHeadWrite (k : CsrKind) (d : RegNo)
  /-- WAITT_EXPIRY (R221): The partition TICK reaches the operand of a waiting WAITT, and the hart becomes ready again. -/
  | waittExpiry
  /-- QUIESCENCE_COLLECTION (R359): The tree makes a collection of the quiescence counters for a waiting QWAIT. -/
  | quiescenceCollection
  /-- OCTET_GRANT (R35): The claim at the head of the core's claim queue is granted its octets once enough are free. -/
  | octetGrant
  /-- STREAM_FETCH (R269): A bound read stream fetches an element ahead into its buffer. -/
  | streamFetch
  /-- STREAM_WRITE (R269): A write stream writes a pushed element to memory. -/
  | streamWrite
  /-- MAP_HOME_EXECUTION (R277): A shard's home executes the next accepted map operation in acceptance order and delivers its result to the issuer. -/
  | mapHomeExecution
  /-- ARRAY_COMMAND (R307): The array executes the command at the head of its queue once its operands are available. -/
  | arrayCommand
  /-- ACTIVATION_SENSE (R74): The vault senses the row at tick A once the bank is free, no refresh is pending and the activation limit allows. -/
  | activationSense
  /-- ROW_READY (R73): An Activating slot becomes Ready at tick A + 14. -/
  | rowReady
  /-- ROW_EXPIRY (R73): At tick A + 3,600 the row closes itself and the bank is released. -/
  | rowExpiry
  /-- LATCH_VALID (R80): The latch becomes valid for commands 7 cycles after ROWTAKE. -/
  | latchValid
  /-- BANK_RELEASE (R79): A closing bank is released at its release tick and begins to precharge. -/
  | bankRelease
  /-- PRECHARGE_END (R74): The precharge ends 14 ticks after release, and waiting accesses and activations proceed. -/
  | prechargeEnd
  /-- REFRESH_DUE (R76): A bank's refresh interval expires, and the refresh runs or is deferred. -/
  | refreshDue
  /-- REFRESH_BLACKOUT_END (R76): A bank's 160-tick refresh blackout ends. -/
  | refreshBlackoutEnd
  /-- VAULT_ACCESS (R70): The vault controller serves an ordinary access once its bank is available. -/
  | vaultAccess
  /-- SCRATCHPAD_GRANT (R43): A scratchpad bank grants a waiting request under class arbitration. -/
  | scratchpadGrant
  /-- REMOTE_ACCESS (R229): A remote access arrives at the owner core's scratchpad port and executes. -/
  | remoteAccess
  /-- STORE_PERFORM (R228): A store issued by a hart is performed at its home. -/
  | storePerform
  /-- COPY_CHUNK (R322): A copy transfer translates and performs its next 4 KiB chunk, suspending or ending as the chunk requires. -/
  | copyChunk
  /-- PROMISE_EXPIRY (R324): TICK passes the promise of a transfer that CPWAIT awaits, and PROMISE_MISSED is raised. -/
  | promiseExpiry
  /-- MESSAGE_ADMIT (R329): The sluice admits an arriving message to the ring or spillway, diverts it, or makes it wait. -/
  | messageAdmit
  /-- SPILLWAY_MOVE (R329): The spillway's oldest message moves into a freed ring slot. -/
  | spillwayMove
  /-- EVENT_MESSAGE (R338): An event message arrives and sets the destination hart's event flag. -/
  | eventMessage
  /-- DISPATCH (R335): An open hart is taken to run the handler of a pending message. -/
  | dispatch
  /-- ACTIVE_GATHER (R340): The owner core's port copies rows to a destination and replies. -/
  | activeGather
  /-- ACTIVE_SCATTER (R341): The owner core's port stores value pairs and replies. -/
  | activeScatter
  /-- HOST_QUEUE_WRITE (R399): A message to the host is written into a host queue slot with its tag. -/
  | hostQueueWrite
  /-- HQPTR_HEAD_WRITE (R399): The host advances a host queue's head, freeing slots for held messages. -/
  | hqptrHeadWrite
  /-- LAUNCH_RECORD (R347): The launch unit reads and checks a launch record and its image. -/
  | launchRecord
  /-- LAUNCH_PLACE (R347): Once enough harts are free, every hart of the launch is placed and started. -/
  | launchPlace
  /-- LAUNCH_RETIRE (R347): When every hart and engine operation of a launch has ended, the completion message is sent. -/
  | launchRetire
  /-- LQKICK (R398): A kick writes a launch queue's new tail. -/
  | lqkick
  /-- LAUNCH_SLOT_DECIDE (R398): The launch unit reads a slot's tag and takes the slot or reports it torn. -/
  | launchSlotDecide
  /-- LAUNCH_SLOT_REREAD (R398): After 256 ticks the launch unit re-reads a slot whose tag did not match. -/
  | launchSlotReread
  /-- LQCFG_ENABLE (R396): A write setting en from 0 to 1 resets a launch queue, or is ignored for a bad base. -/
  | lqcfgEnable
  /-- HQCFG_ENABLE (R396): A write setting en from 0 to 1 resets a host queue's pointers. -/
  | hqcfgEnable
  /-- RETENTION_EXPIRY (R350): The PLRET time of a reserved core expires and its banks power down. -/
  | retentionExpiry
  /-- PTSPLIT_PUSH (R104): A write with push = 1 pushes a page onto the splinter pool. -/
  | ptsplitPush
  /-- PTSPLIT_REPLACE (R104): A write with push = 0 replaces the splinter pool head. -/
  | ptsplitReplace
  /-- PARTITION_CREATE (R401): A write of live from 0 to 1 creates a partition and sets its TICK to 0. -/
  | partitionCreate
  /-- PARTITION_DESTROY (R402): A write of live from 1 to 0 destroys an idle partition and clears its state. -/
  | partitionDestroy
  /-- SWAP_OUT (R376): PSWAP command 1 takes and drains every hart of the partition. -/
  | swapOut
  /-- SWAP_OUT_SAVE (R376): Once the partition's cores are halted, its state is written to the shadow rows and cleared. -/
  | swapOutSave
  /-- SWAP_IN (R376): PSWAP command 2 reads the shadow rows back and resumes every hart. -/
  | swapIn
  /-- MR_EXTEND (R405): A write of k to offset 0x40 extends measurement register k with the written digest. -/
  | mrExtend
  /-- REGISTER_WRITE (R25): A write to a device control register that has no behaviour of its own. -/
  | registerWrite
  /-- LINK_REPLAY (R389): A CRC failure makes the receiver request a replay of unacknowledged flits. -/
  | linkReplay
  /-- LINK_RETRAIN (R389): Loss of lock starts a retrain attempt of the link. -/
  | linkRetrain
  /-- LINK_DOWN (R390): A failed retrain takes the link down and reports every dropped packet. -/
  | linkDown
  /-- ESCAPE_MODE (R387): A class whose oldest packet has not advanced for 512 ticks is put into escape mode. -/
  | escapeMode
  /-- HOST_WRITE (R393): A host write through BAR2 or BAR4 stores bytes in vault DRAM. -/
  | hostWrite
  /-- HOST_READ (R393): A host read through BAR2 or BAR4 returns vault bytes as stored. -/
  | hostRead
  /-- HOST_UNSUPPORTED (R393): A host AtomicOp or a malformed BAR0 request completes as Unsupported Request. -/
  | hostUnsupported
  /-- HOST_REQUEST_TIMEOUT (R394): A device request to host memory gets no completion within 50,000 ticks and fails. -/
  | hostRequestTimeout
  /-- POWER_MANAGER_EVAL (R409): Every 1,000 ticks the power manager compares estimated power with PWRCAP and acts. -/
  | powerManagerEval
  /-- TEMPERATURE_THRESHOLD (R410): A die's junction temperature crosses a threshold, limiting boost, frequency or resetting the package. -/
  | temperatureThreshold
  /-- PACKAGE_RESET (R405): A package reset wipes SRAM and runs measured boot up to the monitor launch. -/
  | packageReset
  /-- DRAM_TRAINING_DONE (R411): When DRAM training completes, Cratia wipes the vaults, sets the full service and notifies the monitor. -/
  | dramTrainingDone
  /-- GETREPORT (R407): A sideband request returns a signed attestation report for a nonce. -/
  | getreport
  /-- SETLC (R408): A sideband request performs a life-cycle transition, with its wipe and reboot. -/
  | setlc
  /-- STATUS (R407): A sideband request returns the life-cycle state, boot step and temperature flags. -/
  | status
  /-- MWAIT_EXPIRY (R109): The PTCFG.mwait bound of a MIGR.force wait passes with pins remaining, so the mark is cleared and BUSY is returned. -/
  | mwaitExpiry
  /-- SUCCESSFUL_RETRAIN (R389): A retrain attempt of a viaduct or Tlauno link succeeds, and the sender replays from the flit after the last acknowledged one. -/
  | successfulRetrain
  /-- LANE_TRAINING (R391): A Tlauno port completes lane training with a peer and becomes trained. -/
  | laneTraining
  /-- HOST_COMPLETION (R394): The host returns a completion, including Unsupported Request or Completer Abort, to a device request to host memory. -/
  | hostCompletion
  /-- CLUSTER_SET_WRITE (R401): A monitor write of PCLLO or PCLHI gives or takes clusters of a partition, subject to the checks of R401, and turns off the rings of each cluster given. -/
  | clusterSetWrite
deriving DecidableEq, Repr, Inhabited

/-- The steps of the device's units, the host and Cratia: never fetched by a hart. -/
def Instr.isEvent : Instr → Bool
  | .waittExpiry => true
  | .quiescenceCollection => true
  | .octetGrant => true
  | .streamFetch => true
  | .streamWrite => true
  | .mapHomeExecution => true
  | .arrayCommand => true
  | .activationSense => true
  | .rowReady => true
  | .rowExpiry => true
  | .latchValid => true
  | .bankRelease => true
  | .prechargeEnd => true
  | .refreshDue => true
  | .refreshBlackoutEnd => true
  | .vaultAccess => true
  | .scratchpadGrant => true
  | .remoteAccess => true
  | .storePerform => true
  | .copyChunk => true
  | .promiseExpiry => true
  | .messageAdmit => true
  | .spillwayMove => true
  | .eventMessage => true
  | .dispatch => true
  | .activeGather => true
  | .activeScatter => true
  | .hostQueueWrite => true
  | .hqptrHeadWrite => true
  | .launchRecord => true
  | .launchPlace => true
  | .launchRetire => true
  | .lqkick => true
  | .launchSlotDecide => true
  | .launchSlotReread => true
  | .lqcfgEnable => true
  | .hqcfgEnable => true
  | .retentionExpiry => true
  | .ptsplitPush => true
  | .ptsplitReplace => true
  | .partitionCreate => true
  | .partitionDestroy => true
  | .swapOut => true
  | .swapOutSave => true
  | .swapIn => true
  | .mrExtend => true
  | .registerWrite => true
  | .linkReplay => true
  | .linkRetrain => true
  | .linkDown => true
  | .escapeMode => true
  | .hostWrite => true
  | .hostRead => true
  | .hostUnsupported => true
  | .hostRequestTimeout => true
  | .powerManagerEval => true
  | .temperatureThreshold => true
  | .packageReset => true
  | .dramTrainingDone => true
  | .getreport => true
  | .setlc => true
  | .status => true
  | .mwaitExpiry => true
  | .successfulRetrain => true
  | .laneTraining => true
  | .hostCompletion => true
  | .clusterSetWrite => true
  | _ => false

end Sys2Proof
end

