-- ==== Sys2Proof/Config.lean ====
section
/-! DEFINITION. What the manual fixes once for the package, and the free values: opaque constants without a body that
stand for everything spec/ leaves open (log 4). No proof can know a value of one. -/

namespace Sys2Proof

/-- Which agent moves next: a slot of a core's issue (R354), or a step of a unit, the host or Cratia. -/
inductive Turn where
  | core (c : Nat) (vec : Bool)
  | event (e : Instr) (x : EvArgs)
deriving DecidableEq, Repr, Inhabited

namespace Config

/-! Free values. -/

/-- The agent that moves at step `n`: the interleaving of the agents, which the manual leaves open (R126, R384). -/
opaque turn : Nat → Turn
/-- The ticks that pass during step `n` (R423: no latency is architectural). -/
opaque elapsed : Nat → Nat
/-- Whether message `i` on its way moves on during step `n`, and whether the receiver of link `i` acknowledges all that it has
(R384, R389: no time is fixed). -/
opaque flows : Nat → Nat → Bool
opaque acks : Nat → Nat → Bool
/-- The soft errors of step `n`: codewords of vaults, and words of scratchpads with their core, each uncorrectable or not (R81,
R379: memory has them, and nothing says when). -/
opaque vaultUpsets : Nat → List (Bool × Nat)
opaque spadUpsets : Nat → List (Bool × Nat × Nat)
/-- Whether a row that is sensed at draw `n` still has the bytes from before store `k` of those that only a narrower release has
ordered (R87). -/
opaque rowOlder : Nat → Nat → Bool
/-- Whether the cached translation that draw `n` finds is still cached (R98 fixes no replacement). -/
opaque cacheHit : Nat → Bool
/-- The estimate of the copy engine for a transfer at draw `n` (R321). -/
opaque promise : Nat → Nat
/-- What byte of an overlapping copy draw `n`, byte `k` sees: the old source byte or the one written (R318). -/
opaque overlapOld : Nat → Nat → Bool
/-- A byte of a shadow row that the swap of draw `n` wrote, as a read under key material `k` delivers it (R88 gives no
layout). -/
opaque shadowByte : Nat → Option (BitVec 512) → Nat → BitVec 8
/-- How many rows of a shadow region the swap of draw `n` writes or reads (R88 gives no layout). -/
opaque swapRows : Nat → Nat
/-- Whether the fetch of draw `n` still delivers a word that was fetched before (R146). -/
opaque staleFetch : Nat → Bool
/-- The harts that boot at draw `n` picks for a boot launch of `k` harts (R346: not fixed). -/
opaque placement : Nat → Nat → List Nat
/-- The private key of the device identity that the transition of step `n` generates inside the package (R406). -/
opaque identitySeed : Nat → BitVec 256
/-- Whether check `n` of measured boot passes: flash contents, fuses and signatures lie outside (R405). -/
opaque bootCheck : Nat → Bool
/-- The SHA-512 digest of boot component `n` (firmware, monitor image, launch record) at boot draw `k` (R405). -/
opaque bootDigest : Nat → Nat → BitVec 512
/-- The boot launch record, word `w`, that boot draw `n` reads from flash (R405). -/
opaque bootRecord : Nat → Nat → BitVec 64
/-- Where in the boot SRAM boot draw `n` puts the launch record, in units of 256 bytes (R405 gives no place). -/
opaque bootRecordPlace : Nat → Nat
/-- Byte `k` of the monitor image that boot draw `n` reads from flash (R405). -/
opaque bootImage : Nat → Nat → BitVec 8
/-- The size in bytes of the monitor image that boot draw `n` reads from flash (R405). -/
opaque bootImageSize : Nat → Nat
/-- Which request byte of an active scatter or copy a failing transfer had performed (R322: partly performed). -/
opaque partly : Nat → Nat → Bool
/-- Whether the packet lost at draw `n` had reached its owner (R229). -/
opaque reached : Nat → Bool
/-- The inactive lanes of a vector pushed into a stream at step `n`: a stream has no old lanes to keep (R244). -/
opaque freeVec : Nat → BitVec 512
/-- Whether the other packages of a fabric launch have all arrived at the barrier, or are quiet, at step `n` (R346). -/
opaque peersReady : Nat → Bool
/-- Word `w` of package `p`'s value in a reduction over the fabric that completes at step `n` (R356). -/
opaque peerWord : Nat → Nat → Nat → BitVec 64
/-- An address the machine-check record names as the requester's, where the manual names none. -/
opaque freeWord : Nat → BitVec 64

/-! Fixed by the manual. -/

/-- Harts, cores, groups, clusters and partitions of the package (R2, R401). -/
abbrev nHarts : Nat := 32768
abbrev nCores : Nat := 8192
abbrev nGroups : Nat := 512
abbrev nClusters : Nat := 128
abbrev nParts : Nat := 128

/-- Location keys: physical addresses below 2^52; scratchpad bytes and row side bands above (R11, R24, R68). -/
abbrev spadKey : Nat := 2 ^ 52
abbrev sideKey : Nat := 2 ^ 53

end Config

end Sys2Proof
end

