-- ==== Sys2Proof/Machine/State.lean ====
section
/-! DEFINITION. The state of the package as plain data: every piece of state spec/ gives the machine, the stop reasons,
and the state right after reset. Tables keyed by an index are lists of pairs; an index that is not listed holds the
table's default (`Tab.get` in Machine/Ops.lean). -/

namespace Sys2Proof.Machine

/-- A sparse table. -/
abbrev Tab (α : Type) := List (Nat × α)

/-- Why the machine stops. -/
inductive Fault where
  /-- Raised by a step of a unit that names an index the package does not have (a hart above 32,767, say). No chain
  decodes to such a step and no unit produces one. Safe: it stops where the hardware has no such unit. -/
  | noSuchUnit
deriving DecidableEq, Repr, Inhabited

/-- Why an instruction has no meaning here. -/
inductive Refusal where
  /-- Raised by an arm of `exec` for an instruction that is not modelled yet. Safe: nothing is claimed of it. -/
  | notModelled (mnemonic : String)
deriving DecidableEq, Repr, Inhabited

/-- The three privilege modes (R205). -/
inductive Mode where
  | user | kernel | monitor
deriving DecidableEq, Repr, Inhabited

/-- The hart states (R364). -/
inductive HartSt where
  | free | active | parked | stopped | saved
deriving DecidableEq, Repr, Inhabited

/-- Where an access goes: the location key of its first byte, the key slot of an encrypted leaf, the ordering
attribute, whether a vector instruction makes it (R43), and whether its scratchpad banks have been granted with those of the
other lanes (R259). -/
structure Place where
  key : Nat := 0
  enc : Option (BitVec 12) := none
  so : Bool := false
  vec : Bool := false
  granted : Bool := false
deriving DecidableEq, Repr, Inhabited

/-- A 64-byte element of a stream: its data and, of a write stream, the place that its address was checked to name (R269) and
the step of the instruction that pushed it. -/
structure StreamEl where
  data : VWord := 0
  key : Nat := 0
  enc : Option (BitVec 12) := none
  so : Bool := false
  va : Word := 0
  born : Nat := 0
deriving DecidableEq, Repr, Inhabited

/-- A deferred write of a span, in program order (R179). `wait k` stands for the results of operation k, which has
been issued and has not answered yet (a queued MXZERO, a map operation waiting at its home). -/
inductive Pend where
  | scalar (r : Nat) (v : Word)
  | vec (r : Nat) (v : VWord)
  | mask (r : Nat) (v : Word)
  | flags (f : BitVec 5)
  | push (n : Nat) (e : StreamEl)
  | wait (k : Nat)
deriving DecidableEq, Repr, Inhabited

/-- The open span of a hart (R178, R179): chains issued, forwarded fixed-latency results, deferred writes, and whether
its last chain has been issued. -/
structure Span where
  count : Nat := 0
  fwd : Tab Word := []
  pend : List Pend := []
  ended : Bool := false
deriving DecidableEq, Repr, Inhabited

/-- A command in an array's queue (R307, R308); `release` frees a bank behind the commands before it (R293). -/
inductive CmdKind where
  | zero
  | mul
  | mulr
  | load
  | store
  | release
deriving DecidableEq, Repr, Inhabited

/-- A queued command: the issuing hart, what it sampled at issue (R297), the places of its object and codebooks as
checked, the pages pinned for them (R301), and of MXZERO the `wait` it answers. -/
structure Cmd where
  kind : CmdKind
  h : Nat
  bank : Nat := 0
  fmta : BitVec 8 := 8
  fmtb : BitVec 8 := 8
  cbka : Nat := 0
  enca : Option (BitVec 12) := none
  cbkb : Nat := 0
  encb : Option (BitVec 12) := none
  qa : Nat := 0
  qb : Nat := 0
  na : Nat := 0
  nb : Nat := 0
  depth : Nat := 0
  expA : BitVec 16 := 0
  expB : BitVec 16 := 0
  slot : Nat := 0
  chunk : Nat := 0
  obj : Nat := 0
  enco : Option (BitVec 12) := none
  pages : List Nat := []
  off : Nat := 0
  bf16 : Bool := false
  wait : Nat := 0
  launch : Nat := 0
deriving DecidableEq, Repr, Inhabited

/-- An access that waits at the banks of the scratchpad of a core: the 8-byte words that it touches, whether it reads only,
its class, since which tick, and how many accesses each bank had granted by then, so that what it has lost is known (R43 to
R45). -/
structure PadWait where
  core : Nat := 0
  words : List Nat := []
  read : Bool := false
  cls : Nat := 0
  since : Nat := 0
  seen : Tab Nat := []
deriving DecidableEq, Repr, Inhabited

/-- Why a hart is held out of issue at its current chain (R182). `bank` is a wait at the vault bank of byte `pa` since a
tick (R70), `pad` one at the banks of a scratchpad, `again` one for something that keeps no queue, `span` the wait of a
serialising instruction for the results of its span (R179); `page` and `kept` are such waits that nothing may take: of MIGR
or SPLIT (R109), of a map operation at its home (R289); `halting` is one of HALT, which has left its barriers (R349).
`hostReply` is the wait for the
host's answer to the request of the instruction or of its stream `st` (R394). `copy` is the wait of CPWAIT, with the status of its transfer once that has ended (R324). `splinter` is the wait of a splinter that has built its table for the entry `old`, and with `uses` has put it in place
(R105); `tinv` the wait for the uses of removed translations, as ranges of addresses (R107). -/
inductive HoldKind where
  | waitt (tick : Word)
  | waitph
  | wfe
  | claim (n : Nat)
  | lease (g n : Nat)
  | barrier (n : Nat)
  | qwait (level : Nat)
  | sendw (id : Nat)
  | inject
  | bank (since pa : Nat)
  | pad (w : PadWait)
  | again
  | span
  | page (since pa : Nat)
  | kept
  | halting
  | streamFull (n : Nat)
  | arrayQueue
  | arrayMid (rest : List Cmd) (na nb : Nat)
  | copy (id : Nat) (ended : Option Word)
  | engines
  | migrate (entry lo n d : Nat) (deadline : Option Nat)
  | splinter (entry level head : Nat) (old : Word) (uses : Bool)
  | tinv (ranges : List (Nat × Nat))
  | hostReply (st : Option Nat)
  | trigger
  | saveWait
  | save (target : Nat) (area : List (Nat × Option (BitVec 12) × Nat))
deriving DecidableEq, Repr, Inhabited

/-- A stream register (R40, R267): `pos` counts elements popped or pushed, `buf` holds elements fetched ahead or pushed
and not yet written; of an element that comes from host memory `look` is its place as checked and `got` what the host has
answered of it so far (R394), and `wait` the bank that its fill waits at (R43, R70). -/
structure Stream where
  bound : Bool := false
  wr : Bool := false
  base : Word := 0
  ndim : Nat := 0
  counts : List Nat := []
  strides : List Word := []
  pos : Nat := 0
  buf : List StreamEl := []
  look : Option Place := none
  got : List (Bool × List Byte) := []
  wait : Option HoldKind := none
deriving DecidableEq, Repr, Inhabited

/-- The chain being executed (R165): its hart, instruction, length in words, base word and explicit marker; its address is
the hart's pc. -/
structure Cx where
  hart : Nat := 0
  instr : Instr := .ill
  len : Nat := 0
  base : Half := 0
  marker : Bool := false
deriving DecidableEq, Repr, Inhabited

/-- A held instruction: the reason, the length and marker of its chain, and the chain itself once it has been fetched. -/
structure Hold where
  kind : HoldKind
  len : Nat
  marker : Bool
  chain : Option Cx := none
deriving DecidableEq, Repr, Inhabited

/-- The user CSRs that are plain registers (R208). -/
structure UserCsrs where
  bitp : BitVec 20 := 0
  fflags : BitVec 5 := 0
  fmta : BitVec 8 := 8
  fmtb : BitVec 8 := 8
  cbka : Word := 0
  cbkb : Word := 0
  seqa : BitVec 16 := 0
  seqb : BitVec 16 := 0
  rnglo : Word := 0
  rnghi : Word := 0
  mben : BitVec 8 := 0
  classmask : BitVec 16 := 0
  mbtab : BitVec 9 := 0
deriving DecidableEq, Repr, Inhabited

/-- The copy registers (R317). -/
structure CopyRegs where
  src : Word := 0
  dst : Word := 0
  len : Word := 0
  stride : Word := 0
  param : Word := 0
  prom : Word := 0
deriving DecidableEq, Repr, Inhabited

/-- User and kernel trap state, and the registers that name an address space (R97, R210 to R214). -/
structure TrapRegs where
  utvec : Word := 0
  utcause : Word := 0
  utaddr : Word := 0
  uepc : Word := 0
  utrap : Bool := false
  intrap : Bool := false
  pmode : Mode := .user
  pie : Bool := false
  ie : Bool := true
  tvec : Word := 0
  tcause : Word := 0
  taddr : Word := 0
  tepc : Word := 0
  tdeleg : Word := 0
  ptroot : Word := 0
  pspace : BitVec 16 := 0
deriving DecidableEq, Repr, Inhabited

/-- The monitor CSRs (R404). -/
structure MonRegs where
  busy : Bool := false
  rmode : Mode := .monitor
  vec : Word := 0
  pc : Word := 0
  cause : Word := 0
  addr : Word := 0
  save : Word := 0
deriving DecidableEq, Repr, Inhabited

/-- A mailbox of a hart as its sluice keeps it (R327 to R331): the cached entry, the entry to take up when the queue is
next empty, ring and spillway counts and free-running heads, the flood episode, the recorded physical address of each
spillway message with the key slot of its leaf, for each queued message whether it may count for quiescence (R358), and the
waits of the move from the spillway to the ring: for its vault bank since a tick (R70), and for its scratchpad banks (R43); and of a
saved hart the spillway count and the flood episode that its area holds (R370). -/
structure Mailbox where
  w0 : Word := 0
  w1 : Word := 0
  w2 : Word := 0
  w3 : Word := 0
  next : Option (List Word) := none
  ptroot : Word := 0
  pspace : BitVec 16 := 0
  ringCount : Nat := 0
  ringHead : Nat := 0
  spillCount : Nat := 0
  spillHead : Nat := 0
  flood : Bool := false
  pins : List (Nat × Option (BitVec 12)) := []
  counts : List Bool := []
  bank : Option (Nat × Nat) := none
  pad : Option PadWait := none
  saved : Nat × Bool := (0, false)
deriving DecidableEq, Repr, Inhabited

/-- The running handler (R335); `bad` is the address of an uncorrectable word of its message, until its first chain (R379). -/
structure Handler where
  running : Bool := false
  hpc : Word := 0
  mb : Nat := 0
  tracked : Bool := false
  last : Nat := 7
  bad : Option Word := none
deriving DecidableEq, Repr, Inhabited

/-- A store issued and not yet performed at its home (R228): the location key of its first byte, its bytes, the bits each
byte writes (STBT writes part of a byte, R115), the key slot of an encrypted leaf, the ordering attribute, the scope of its
release annotation (0 without one, R117), the virtual address, chain address and mode it came from, the step of its
instruction (its lanes are unordered, R116), whether it has reached its home and at which tick (R70), the grants that the
banks of its scratchpad had made by then (R45), whether it is a vector access and whether its lanes are one access at the
banks (R42, R43), the stream that it writes for (R139), the scope of a release or fence that has gone ahead of it (0 for
none; log 34), and whether its request had passed a link that has failed since (R229). -/
structure StoreEnt where
  base : Nat := 0
  bytes : List Byte := []
  mask : List Byte := []
  enc : Option (BitVec 12) := none
  so : Bool := false
  sc : Nat := 0
  va : Word := 0
  pc : Word := 0
  mode : Mode := .user
  born : Nat := 0
  sent : Bool := false
  came : Nat := 0
  seen : Tab Nat := []
  vec : Bool := false
  whole : Bool := false
  stream : Option Nat := none
  due : Nat := 0
  past : Bool := false
deriving DecidableEq, Repr, Inhabited

/-- What the current instruction of a hart has done of its accesses, in order, each of them made once (R228): an address that
has been checked, with the place that its translation names (R259), and a read, with the host's answer where it is one of host
memory (R394); one that failed gives no bytes. -/
inductive Done where
  | place (p : Place) (va : Word)
  | read (ok : Bool) (bs : List Byte)
deriving DecidableEq, Repr, Inhabited

/-- One hart (R2, R364 and the rules named in INVENTORY.md); `frozen` says that a CTXSAVE has taken it and is under way;
`done` is what the current instruction has done, and `todo`, while it goes on, what is left of that to go by again; `icache`
holds what the hart has fetched or may have fetched since the last SYNCF: text words at twice their location, values of the
parameter block at twice theirs and 1 (R146). -/
structure Hart where
  st : HartSt := .free
  wasParked : Bool := false
  wasStopped : Bool := false
  frozen : Bool := false
  pc : Word := 0
  mode : Mode := .user
  regs : Tab Word := []
  span : Span := {}
  v : Tab VWord := []
  slotA : Option Nat := none
  slotB : Option Nat := none
  freshA : Bool := false
  freshB : Bool := false
  m : Tab Word := []
  streams : Tab Stream := []
  u : UserCsrs := {}
  cp : CopyRegs := {}
  t : TrapRegs := {}
  mon : MonRegs := {}
  mxl : BitVec 10 := 0
  array : Nat := 0
  h : Handler := {}
  mbs : Tab Mailbox := []
  event : Bool := false
  hold : Option Hold := none
  prio : Nat := 0
  waited : Nat := 0
  launch : Nat := 0
  spawned : Bool := false
  idx : List Nat := []
  part : Option Nat := none
  sbuf : List StoreEnt := []
  savedLease : Option (Nat × Nat) := none
  savedOctets : List (List VWord) := []
  savedGifts : List (List VWord) := []
  savedSlots : List Bool := []
  arrived : List Nat := []
  done : List Done := []
  todo : List Done := []
  icache : Tab Word := []
deriving DecidableEq, Repr, Inhabited

/-- An octet of a core's pool (R35). -/
inductive OctetSt where
  | free
  | held (h : Nat)
  | given (src dst : Nat)
deriving DecidableEq, Repr, Inhabited

structure Octet where
  st : OctetSt := .free
  data : List VWord := []
deriving DecidableEq, Repr, Inhabited

/-- A claim in a core's queue: the hart, the octets asked for, and whether it is a resume (R37). -/
structure Claim where
  h : Nat
  n : Nat
  resumed : Bool := false
deriving DecidableEq, Repr, Inhabited

/-- A contiguous part of a chunk as translated: location key, key slot of an encrypted leaf, bytes, the vault byte whose
bank it needs, the page it pins, and whether it lies in a peer package (R108, R318, R322). -/
structure CopySpan where
  key : Nat := 0
  enc : Option (BitVec 12) := none
  n : Nat := 0
  bank : Option Nat := none
  page : Option Nat := none
  va : Word := 0
  remote : Bool := false
deriving DecidableEq, Repr, Inhabited

/-- A transfer slot of a copy engine (R320 to R323). `missed` says that PROMISE_MISSED has been raised for it (R324),
`hindered` that something has come between it and its promise (R321), `chunk` is the chunk whose pages are translated and
pinned (source and destination), `old` what the destination bytes written so far held before, for a transfer whose ranges
may overlap (R318), `pads` its chunk's waits at
scratchpad banks, `banks` those at vault banks, each with the tick at which it came (R70), `asked` the tick at which the chunk's
request to the host or to a peer went out (R394), and `resumed` that of the last RESUME.xfer (R374). -/
structure Xfer where
  live : Bool := false
  gen : Nat := 0
  issuer : Nat := 0
  src : Word := 0
  dst : Word := 0
  rows : Nat := 0
  rowlen : Nat := 0
  sstride : Word := 0
  dstride : Word := 0
  done : Word := 0
  handler : Word := 0
  w2 : Word := 0
  cookie : Word := 0
  cursor : Nat := 0
  faultSusp : Bool := false
  saveSusp : Bool := false
  aborting : Bool := false
  missed : Bool := false
  hindered : Bool := false
  status : Word := 0
  promise : Word := 0
  mode : Mode := .user
  part : Option Nat := none
  ptroot : Word := 0
  pspace : BitVec 16 := 0
  pc : Word := 0
  launch : Nat := 0
  chunk : Option (List CopySpan × List CopySpan) := none
  old : List Host.Cell := []
  pads : List PadWait := []
  banks : List (Nat × Nat) := []
  asked : Option Nat := none
  resumed : Option Nat := none
deriving DecidableEq, Repr, Inhabited

/-- One core: octet pool, claim queue, transfer slots, power and grants of its banks and reservation (R350), the round-robin
pointers of its two issue slots (R354), the quiescence counters by launch, with the changes made to each (R358, R359). -/
structure Core where
  octets : Tab Octet := []
  gifts : List Nat := []
  claims : List Claim := []
  xfers : Tab Xfer := []
  powered : BitVec 16 := 0
  grants : Tab Nat := []
  resTag : Nat := 0
  resUntil : Nat := 0
  resLaunch : Nat := 0
  rrScalar : Nat := 3
  rrVector : Nat := 3
  qcount : Tab (Int × Nat) := []
  badWords : List Nat := []
  corrWords : List Nat := []
deriving DecidableEq, Repr, Inhabited

/-- A ring of a group (R48, R49, R54). -/
structure Ring where
  cfg : Word := 0
  head : BitVec 16 := 0
  tail : BitVec 16 := 0
  seq : BitVec 16 := 0
deriving DecidableEq, Repr, Inhabited

/-- The owner tag of an accumulator bank (R293). -/
inductive BankTag where
  | free
  | owned (h : Nat)
  | spilled (h : Nat)
deriving DecidableEq, Repr, Inhabited

structure Bank where
  tag : BankTag := .free
  data : Tab (BitVec 32) := []
deriving DecidableEq, Repr, Inhabited

/-- A waiting lease request; `resumed` ones stand at the head (R292). -/
structure LeaseReq where
  h : Nat
  n : Nat
  resumed : Bool := false
deriving DecidableEq, Repr, Inhabited

/-- The states of a row slot, in the order of their codes 0 to 4 (R72). -/
inductive SlotSt where
  | free | activating | ready | taken | expired
deriving DecidableEq, Repr, Inhabited

/-- A row slot of an array (R71 to R73): activation tick, row, the address and key slot given at ROWACT, the row and tag
codeword as sensed with the key material of each unit, the latch, poison and correction marks, whether the latch is valid
for commands, whether the slot still holds its bank, and whether a take has corrected the row (R81); `want` is an activation
that the vault has not sensed yet: its arrival tick, the hart and the `wait` it answers, whose value goes to register `dest`;
`so` and `born` are its ordering attribute and the step of its ROWACT (R120, R140), `ready` the tick that ROWACT
has returned, in the partition's ticks (R311). -/
structure RowSlot where
  st : SlotSt := .free
  a : Nat := 0
  row : Nat := 0
  enc : Bool := false
  key : BitVec 12 := 0
  sensed : List Host.Cell := []
  latch : List Host.Cell := []
  poison : List Nat := []
  corrected : Bool := false
  latchOk : Bool := false
  holds : Bool := false
  part : Option Nat := none
  page : Nat := 0
  want : Option (Nat × Nat × Nat) := none
  va : Word := 0
  dest : Nat := 0
  units : Tab (BitVec 512) := []
  took : Bool := false
  so : Bool := false
  born : Nat := 0
  ready : Nat := 0
deriving DecidableEq, Repr, Inhabited

/-- One group with its matrix array (R48, R291 to R293); `waits` are the waits of its oldest command at vault banks, each
with the tick at which it came (R70). -/
structure Group where
  rings : Tab Ring := []
  holder : Option (Nat × Nat) := none
  lq : List LeaseReq := []
  banks : Tab Bank := []
  slots : Tab RowSlot := []
  cmds : List Cmd := []
  waits : List (Nat × Nat) := []
deriving DecidableEq, Repr, Inhabited

/-- What ends when a bank is released: the tick, the pin of a slot (group, slot, page; R108), the row, and whether its
corrected codewords are then written back (R81). -/
structure BankEnd where
  tick : Nat := 0
  g : Nat := 0
  k : Nat := 0
  page : Nat := 0
  row : Nat := 0
  took : Bool := false
deriving DecidableEq, Repr, Inhabited

/-- A bank of a vault (R74 to R79), with what its releases still have to end. -/
structure VBank where
  closing : Bool := false
  release : Nat := 0
  everOpened : Bool := false
  blackoutEnd : Nat := 0
  busyUntil : Nat := 0
  refreshPending : Bool := false
  lastRefresh : Nat := 0
  refreshed : Bool := false
  ends : List BankEnd := []
deriving DecidableEq, Repr, Inhabited

/-- A cached translation (R98): in a core's cache, or in the cluster's with its sub-count (R111). -/
structure TlbEnt where
  part : Option Nat := none
  space : BitVec 16 := 0
  base : Word := 0
  level : Nat := 0
  leaf : Word := 0
  entry : Nat := 0
  core : Option Nat := none
  sub : Nat := 0
deriving DecidableEq, Repr, Inhabited

/-- A pin (R108): the 64 KiB physical page, and who holds it. -/
inductive PinHolder where
  | xfer (c k : Nat)
  | row (g k : Nat)
  | mapOp (id : Nat)
  | mailbox (h x : Nat)
  | cmd (g : Nat)
  | area (h : Nat)
deriving DecidableEq, Repr, Inhabited

structure Pin where
  part : Option Nat := none
  space : BitVec 16 := 0
  page : Nat := 0
  holder : PinHolder
deriving DecidableEq, Repr, Inhabited

/-- The nine map operations (R278). -/
inductive MapKind where
  | probe | ins | ups | rem | init | grow | step | stat | iter
deriving DecidableEq, Repr, Inhabited

/-- A map operation accepted by a home (R276): the issuing hart and the space it is checked in, the operands as read at
issue, the named and the shard's descriptor, the words of the latter as found at acceptance, the register pair or buffer of
the value, the pages it has pinned with their translations, and the `wait` it answers; `seen` are the bytes that its own action can touch as found at
acceptance, by location and key slot; `home` is the cluster whose map unit it has come to, `pad` and `bank` are its waits at the banks of
its buffer (R43) and at a vault bank since a tick (R70), and `pops` and `pushes` the pairs of the pool's lists that it has read for a
compare (R282, R284). -/
structure MapOp where
  kind : MapKind
  home : Nat := 0
  h : Nat := 0
  k16 : Bool := false
  vf : Nat := 0
  d : Nat := 0
  b : Nat := 0
  named : Word := 0
  desc : Word := 0
  words : List Word := []
  key : List Word := []
  val : List Word := []
  buf : Option Nat := none
  n : Nat := 0
  wait : Nat := 0
  pages : List (Nat × Nat × Option (BitVec 12)) := []
  ptroot : Word := 0
  pspace : BitVec 16 := 0
  part : Option Nat := none
  mode : Mode := .user
  pad : Option PadWait := none
  bank : Option (Nat × Nat) := none
  seen : List (Nat × Option (BitVec 12) × List Byte) := []
  pops : List (Word × Word) := []
  pushes : List (Word × Word) := []
deriving DecidableEq, Repr, Inhabited

/-- One cluster: fault queue (R365), vault controller (R91), translation caches (R98), pins (R108), map home (R276);
`shadowed` is the draw of the last swap that wrote its shadow region (R88), and `shadowOver` what monitor mode has written
there since. -/
structure Cluster where
  fqcfg : Word := 0
  fqmsg : Word := 0
  fqhead : BitVec 32 := 0
  fqtail : BitVec 32 := 0
  fqheld : List (List Word) := []
  vshadow : Word := 0
  vecc : Word := 0
  vact : Word := 0
  vbanks : Tab VBank := []
  senses : List Nat := []
  tlb : List TlbEnt := []
  pins : List Pin := []
  mapq : List MapOp := []
  shadowed : Option Nat := none
  shadowOver : List Nat := []
deriving DecidableEq, Repr, Inhabited

/-- A patch entry of a kernel image (R189). -/
structure Patch where
  shift : Nat
  count : Nat
  poff : Nat
  word : Nat
deriving DecidableEq, Repr, Inhabited

/-- A launch (R345 to R348); `cores` are those on which a hart of it has started, where its .data has been written (R188). -/
structure Launch where
  id : Nat := 0
  part : Option Nat := none
  words : List Word := []
  text : Word := 0
  textsize : Nat := 0
  entry : Nat := 0
  patches : List Patch := []
  kernel : Bool := false
  boot : Bool := false
  placed : Bool := false
  retired : Bool := false
  data : List Byte := []
  spadbase : Nat := 0
  zerosize : Nat := 0
  cores : List Nat := []
deriving DecidableEq, Repr, Inhabited

/-- A record that the launch unit has taken from its slot, of which `n` is the number and `slot` the address, and that it has not
yet processed (R347, R398). -/
structure Taken where
  n : BitVec 32 := 0
  slot : Nat := 0
  id : Nat := 0
  words : List Word := []
  checked : Bool := false
deriving DecidableEq, Repr, Inhabited

/-- What the host has answered to a read of the launch unit (R394): location, bytes asked for, and the answer. -/
structure HostGot where
  pa : Nat := 0
  n : Nat := 0
  ok : Bool := false
  bytes : List Byte := []
deriving DecidableEq, Repr, Inhabited

/-- A launch queue of a partition (R396, R398); `bank` is the wait of the read of its head slot, or of its record's image, at a
vault bank (R70), and `got` what the host has answered of an image in its memory (R394). -/
structure LaunchQ where
  en : Bool := false
  dev : Bool := false
  base : Nat := 0
  lgsize : Nat := 0
  tail : BitVec 32 := 0
  head : BitVec 32 := 0
  torn : BitVec 16 := 0
  badkick : BitVec 8 := 0
  tries : Nat := 0
  retryAt : Nat := 0
  ids : List Nat := []
  taken : List Taken := []
  bank : Option (Nat × Nat) := none
  got : List HostGot := []
deriving DecidableEq, Repr, Inhabited

/-- A host queue of a partition (R396, R399). -/
structure HostQ where
  en : Bool := false
  base : Nat := 0
  lgsize : Nat := 0
  tail : BitVec 32 := 0
  head : BitVec 32 := 0
  flood : Bool := false
deriving DecidableEq, Repr, Inhabited

/-- An open episode of a barrier (R355, R356): each arrival with its hart, buffer location and words; `mixed` when two
reductions of it differ in op, type or width. -/
structure Episode where
  n : Nat := 0
  launch : Nat := 0
  level : Nat := 0
  inst : List Nat := []
  ared : Bool := false
  op : Nat := 0
  t : TypeCode := 0
  w : Nat := 0
  arrived : List (Nat × Nat × List Word) := []
  mixed : Bool := false
deriving DecidableEq, Repr, Inhabited

/-- The state of a quiescence wait between its two collections (R359). -/
structure QWaiter where
  h : Nat
  level : Nat
  first : Option (List (Int × Nat)) := none
deriving DecidableEq, Repr, Inhabited

/-- PSWAP.state (R375). -/
inductive SwapSt where
  | resident | out1 | out | in1
deriving DecidableEq, Repr, Inhabited

/-- The saved image of a swapped-out partition (R376): harts, cores, groups, scratchpad cells, the spillway pins of its
clusters, and for each cluster the key material that its shadow rows were written under, with the region's rowbase (R88). -/
structure Swapped where
  harts : Tab Hart := []
  cores : Tab Core := []
  groups : Tab Group := []
  spad : List Host.Cell := []
  pins : Tab (List Pin) := []
  rows : Tab (BitVec 512 × Nat) := []
deriving DecidableEq, Repr, Inhabited

/-- One partition (R103, R332, R350, R355, R375, R396, R401); `swRows` counts, while a swap runs, the shadow rows that each of
its clusters still has to write or read (R376). -/
structure Part where
  pcl : BitVec 128 := 0
  live : Bool := false
  kbase : Nat := 0
  kcount : Nat := 0
  splitHead : Nat := 0
  ptcfg : Word := 0
  ptaq : Word := 0
  aqhead : BitVec 32 := 0
  aqtail : BitVec 32 := 0
  ptalost : BitVec 32 := 0
  pmerr : Word := 0
  pmdiv : BitVec 32 := 0
  pmflood : BitVec 32 := 0
  plret : BitVec 32 := 0
  swErr : BitVec 4 := 0
  swSt : SwapSt := .resident
  pswmsg : Word := 0
  swapped : Swapped := {}
  swRows : Option (Tab Nat) := none
  tickOff : Nat := 0
  frozen : Option Nat := none
  lqs : Tab LaunchQ := []
  hqs : Tab HostQ := []
  episodes : List Episode := []
  qwaits : List QWaiter := []
deriving DecidableEq, Repr, Inhabited

/-- A message in flight (R325, R326, R329): header and payload as sent, the origin and sender fields, the hart that
waits for its fate, how it was made, the die it enters the fabric at where that is not its sender's, the launch it counts
for, the reason of a diversion, the number by which records name the unit of the device that sent it (R390), whether it waits at its sluice, how many links of its way it has passed, at which tick it
last moved on, and whether it travels on the escape channel (R387); `pads` are its waits at the banks of its ring, or of an active message (R43). -/
structure Msg where
  hdr : Word := 0
  pay : List Word := []
  origin : Nat := 0
  sender : BitVec 15 := 0
  waiter : Option Nat := none
  sendw : Bool := false
  via : Nat := 0
  home : Nat := 0
  die : Option Nat := none
  counts : Bool := false
  qcore : Nat := 0
  launch : Nat := 0
  part : Option Nat := none
  err : Option Nat := none
  agent : Nat := 0
  handler : Bool := false
  waiting : Bool := false
  hops : Nat := 0
  moved : Option Nat := none
  esc : Bool := false
  pads : List PadWait := []
deriving DecidableEq, Repr, Inhabited

/-- A device request to host memory that awaits its completion (R394): the hart whose held instruction made it, or whose stream
fetches ahead; or the launch queue (partition and number) whose record's image it reads. -/
structure HostOut where
  h : Nat := 0
  stream : Option Nat := none
  queue : Option (Nat × Nat) := none
  pa : Nat := 0
  n : Nat := 0
  va : Word := 0
  issued : Nat := 0
deriving DecidableEq, Repr, Inhabited

/-- A request of the host that waits, a posted write that has not committed (R141, R395) or a read (R78): requester, BAR4 or BAR2, the number of its request, and
the bytes of one aligned 8-byte word or a part of one; or a read of `want` bytes. `waits` are its waits at banks (R70). -/
structure HostPend where
  requester : Nat := 0
  bar4 : Bool := false
  write : Nat := 0
  addr : Nat := 0
  bytes : List Byte := []
  want : Nat := 0
  waits : List (Nat × Nat) := []
deriving DecidableEq, Repr, Inhabited

/-- An access of a peer package's copy engine to a scratchpad here, which waits at its banks (R43, R113, R319): the location, the
bytes that it writes, or how many it reads, and its wait. -/
structure PeerReq where
  key : Nat := 0
  data : Option (List Byte) := none
  n : Nat := 0
  pad : Option PadWait := none
deriving DecidableEq, Repr, Inhabited

/-- A write of a unit of the device that waits at a held bank (R78): its location, bytes, arrival tick, and the agent that a
record names where it meets an uncorrectable codeword (R82; none in a record of the machine-check queue itself). -/
structure DevWrite where
  pa : Nat := 0
  bytes : List Byte := []
  since : Nat := 0
  agent : Option Nat := none
deriving DecidableEq, Repr, Inhabited

/-- A link of the fabric (R389, R390): up or down, lock, retrain attempts and the tick at which the present one began, the
sequence number of the next new flit, the last one acknowledged, and the next flit to send: that is an earlier one while the
sender replays. -/
structure Link where
  up : Bool := true
  locked : Bool := true
  attempts : Nat := 0
  since : Nat := 0
  seq : BitVec 12 := 0
  acked : BitVec 12 := BitVec.allOnes 12
  next : BitVec 12 := 0
deriving DecidableEq, Repr, Inhabited

/-- Measured boot, service and life cycle (R405, R408, R411): the last step done, or with `failed` the failing one; the full
service; held hot (R410); the life-cycle state, and which key pair the
transition to Production generated (R406); boots so far; measurement registers, the digest words of an extend, and
whether the host port is on the link. -/
structure Boot where
  step : Nat := 0
  failed : Bool := false
  full : Bool := false
  hot : Bool := false
  lc : Nat := 1
  key : Option Nat := some 0
  draws : Nat := 0
  mr : Tab (BitVec 512) := []
  digest : Tab Word := []
  hostLink : Bool := true
deriving DecidableEq, Repr, Inhabited

/-- The power manager (R409): the cap, whether boost is refused, the array start-rate limit in eighths, the frequency in MHz
of each boosted island, the islands lowered to 1,000 MHz, the last one first, and the tick of the last comparison. -/
structure Power where
  cap : Nat := 1400
  noBoost : Bool := false
  rate : Nat := 8
  freq : Tab Nat := []
  lowered : List Nat := []
  last : Nat := 0
deriving DecidableEq, Repr, Inhabited

/-- An answer of the sideband, or of a read of the host port or of a peer with the bytes that carry the error mark (R319, R393,
R407, R410). -/
inductive Answer where
  | report (bytes : List Byte)
  | lifeCycle (ok : Bool)
  | status (lc step : Nat) (failed hot : Bool) (temps : List Nat)
  | overheat (die : Nat)
  | read (bytes : List Byte) (poisoned : List Nat)
  | done
  | unsupported
deriving DecidableEq, Repr, Inhabited

/-- The whole package. -/
structure State where
  /-- Which agent moves next; the model's own field (log 4). -/
  turn : Turn
  /-- Steps taken, from which the free values are drawn; the model's own field (log 4). -/
  steps : Nat
  /-- Draws made inside steps; the model's own field (log 4). -/
  draws : Nat
  /-- The chain being executed; the model's own field. -/
  cx : Cx
  /-- The parameters of the unit's step being executed; the model's own field. -/
  ev : EvArgs
  tick : Nat
  pkgnum : BitVec 10
  mem : List Host.Cell
  encUnits : Tab (BitVec 512)
  badCodewords : List Nat
  corrCodewords : List Nat
  /-- What stores to vaults that only a narrower release has ordered have replaced: the hart, and location, byte before and byte
  after of each; an activation may still latch the former (R87). The model's own field (log 34). -/
  older : List (Nat × List (Nat × Byte × Byte))
  harts : Tab Hart
  cores : Tab Core
  groups : Tab Group
  clusters : Tab Cluster
  parts : Tab Part
  launches : Tab Launch
  nextLaunch : Nat
  net : List Msg
  hostOut : List HostOut
  hostPend : List HostPend
  peerPend : List PeerReq
  devPend : List DevWrite
  keys : Tab (BitVec 512)
  rtcfg : Tab (BitVec 3)
  tlpkg : Tab (BitVec 8)
  trained : List (Nat × Nat)
  links : Tab Link
  escape : List (Nat × Nat)
  mcqcfg : Word
  mcqmsg : Word
  mcqhead : BitVec 32
  mcqtail : BitVec 32
  mccorr : BitVec 32
  mclost : BitVec 32
  boot : Boot
  power : Power
  temps : Tab Nat
  answers : List Answer
deriving DecidableEq, Repr, Inhabited

/-- The package right after reset: every SRAM and vault byte zero (R405, R408, R411), no hart running (R349), the
first step the one that runs measured boot (R405). Values that spec/ does not give are named in logs 1 to 4. -/
def State.reset : State where
  turn := .event .packageReset {}
  steps := 0
  draws := 0
  cx := {}
  ev := {}
  tick := 0
  pkgnum := 0
  mem := []
  encUnits := []
  badCodewords := []
  corrCodewords := []
  older := []
  harts := []
  cores := []
  groups := []
  clusters := []
  parts := []
  launches := []
  nextLaunch := 1
  net := []
  hostOut := []
  hostPend := []
  peerPend := []
  devPend := []
  keys := []
  rtcfg := []
  tlpkg := []
  trained := []
  links := []
  escape := []
  mcqcfg := 0
  mcqmsg := 0
  mcqhead := 0
  mcqtail := 0
  mccorr := 0
  mclost := 0
  boot := {}
  power := {}
  temps := []
  answers := []

end Sys2Proof.Machine
end

