-- ==== Sys2Proof/Machine/Ops.lean ====
section
/-! DEFINITION. The operations that every meaning is written in: tables, memory, registers and spans, messages and
records that units post, taking a trap and returning, parking and stopping a hart. -/

namespace Sys2Proof.Machine

/-- What executing an instruction or a step answers. -/
abbrev Out := Host.Outcome State Fault Refusal

/-! ## Tables -/

/-- The entry of index `i`, if listed. -/
def Tab.find? {α : Type} : Tab α → Nat → Option α
  | [], _ => none
  | (k, v) :: t, i => if k == i then some v else Tab.find? t i

/-- The entry of index `i`, or the default. -/
def Tab.get {α : Type} (d : α) (t : Tab α) (i : Nat) : α := (Tab.find? t i).getD d

/-- Replaces or adds the entry of index `i`. -/
def Tab.put {α : Type} : Tab α → Nat → α → Tab α
  | [], i, v => [(i, v)]
  | (k, w) :: t, i, v =>
    if k == i then (i, v) :: t else if i < k then (i, v) :: (k, w) :: t else (k, w) :: Tab.put t i v

/-- The element at position `i` of a list replaced, the list padded with `d`. -/
def listPut {α : Type} (d : α) : List α → Nat → α → List α
  | [], 0, v => [v]
  | [], i + 1, v => d :: listPut d [] i v
  | _ :: t, 0, v => v :: t
  | x :: t, i + 1, v => x :: listPut d t i v

/-! ## Bits and bytes -/

/-- `len` bits of `w` from bit `lo`, as a number. -/
def fld (w : Word) (lo len : Nat) : Nat := w.toNat / 2 ^ lo % 2 ^ len
/-- Bit `i` of `w`. -/
def bit (w : Word) (i : Nat) : Bool := w.getLsbD i
/-- A flag as a word. -/
def b2w (b : Bool) : Word := if b then 1 else 0
def b2n (b : Bool) : Nat := if b then 1 else 0
/-- A word from a number. -/
def w64 (n : Nat) : Word := BitVec.ofNat 64 n
/-- A word from an integer, in two's complement. -/
def wInt (n : Int) : Word := BitVec.ofInt 64 n
/-- Numbers as little-endian bytes and back (R5). -/
def toBytes : Nat → Nat → List Byte
  | 0, _ => []
  | n + 1, v => BitVec.ofNat 8 v :: toBytes n (v / 256)
def ofBytes : List Byte → Nat
  | [] => 0
  | b :: t => b.toNat + 256 * ofBytes t
/-- The 64 bytes of a vector register, lowest first. -/
def vBytes (v : VWord) : List Byte := toBytes 64 v.toNat
def vOfBytes (bs : List Byte) : VWord := BitVec.ofNat 512 (ofBytes bs)
/-- The words of a list of bytes. -/
def wordsOf (bs : List Byte) (n : Nat) : List Word :=
  (List.range n).map fun i => w64 (ofBytes ((bs.drop (8 * i)).take 8))
def bytesOf (ws : List Word) : List Byte := ws.flatMap fun w => toBytes 8 w.toNat
/-- A word with bit 0 cleared. -/
def evenWord (w : Word) : Word := w &&& ~~~(1 : Word)
/-- Header `hdr` with the length field set to `n` (R325). -/
def withLen (hdr : Word) (n : Nat) : Word := (hdr &&& ~~~((7 : Word) <<< 49)) ||| (w64 n <<< 49)
/-- A 32-bit counter that saturates (R91, R332, R378). -/
def satInc (c : BitVec 32) : BitVec 32 := if c == BitVec.allOnes 32 then c else c + 1

/-! ## Memory -/

abbrev Mem := List Host.Cell

/-- The byte at a location; an unlisted one reads 0 (R405, R408; log 3). -/
def Mem.get : Mem → Nat → Byte
  | [], _ => 0
  | (k, b) :: m, a => if k == a then b else Mem.get m a

def Mem.erase (m : Mem) (a : Nat) : Mem := m.filter fun c => c.1 != a

def Mem.insert : Mem → Nat → Byte → Mem
  | [], a, v => [(a, v)]
  | (k, b) :: m, a, v =>
    if k == a then (a, v) :: m else if a < k then (a, v) :: (k, b) :: m else (k, b) :: Mem.insert m a v

/-- A write that keeps the canonical form: a 0 leaves no entry. -/
def Mem.put (m : Mem) (a : Nat) (v : Byte) : Mem := if v == 0 then Mem.erase m a else Mem.insert m a v

/-- Addresses strictly rising from above `lo`, no entry 0. -/
def Mem.wfFrom : Option Nat → Mem → Bool
  | _, [] => true
  | lo, (k, b) :: m => (match lo with | none => true | some l => decide (l < k)) && b != 0 && Mem.wfFrom (some k) m

/-- The canonical form: addresses strictly rising, no entry 0. -/
def Mem.wf (m : Mem) : Bool := Mem.wfFrom none m

def Mem.bytes (m : Mem) (a n : Nat) : List Byte := (List.range n).map fun i => Mem.get m (a + i)
def Mem.puts : Mem → Nat → List Byte → Mem
  | m, _, [] => m
  | m, a, b :: bs => Mem.puts (Mem.put m a b) (a + 1) bs
/-- Clears every location that `p` names. -/
def Mem.wipe (m : Mem) (p : Nat → Bool) : Mem := m.filter fun c => !p c.1

/-! ## The parts of the package -/

def State.hart (s : State) (h : Nat) : Hart := Tab.get {} s.harts h
def State.setHart (s : State) (h : Nat) (x : Hart) : State := { s with harts := Tab.put s.harts h x }
def State.modHart (s : State) (h : Nat) (f : Hart → Hart) : State := s.setHart h (f (s.hart h))
def State.me (s : State) : Hart := s.hart s.cx.hart
def State.modMe (s : State) (f : Hart → Hart) : State := s.modHart s.cx.hart f
def State.core (s : State) (c : Nat) : Core := Tab.get {} s.cores c
def State.modCore (s : State) (c : Nat) (f : Core → Core) : State := { s with cores := Tab.put s.cores c (f (s.core c)) }
def State.group (s : State) (g : Nat) : Group := Tab.get {} s.groups g
def State.modGroup (s : State) (g : Nat) (f : Group → Group) : State :=
  { s with groups := Tab.put s.groups g (f (s.group g)) }
def State.cluster (s : State) (g : Nat) : Cluster := Tab.get {} s.clusters g
def State.modCluster (s : State) (g : Nat) (f : Cluster → Cluster) : State :=
  { s with clusters := Tab.put s.clusters g (f (s.cluster g)) }
def State.part (s : State) (p : Nat) : Part := Tab.get {} s.parts p
/-- Where the barriers and quiescence waits of a hart are kept: with its partition, and those of the monitor harts that belong
to none behind the last one (R355 gives barriers to partitions; DESIGN CHOICE, log 35). -/
def Hart.barriers (x : Hart) : Nat := x.part.getD Config.nParts
def State.modPart (s : State) (p : Nat) (f : Part → Part) : State := { s with parts := Tab.put s.parts p (f (s.part p)) }
def State.launch (s : State) (l : Nat) : Launch := Tab.get {} s.launches l
def State.modLaunch (s : State) (l : Nat) (f : Launch → Launch) : State :=
  { s with launches := Tab.put s.launches l (f (s.launch l)) }

/-- Core, group, cluster and die of a hart, from its number (R2, R208). -/
def coreOf (h : Nat) : Nat := h / 4
def groupOf (h : Nat) : Nat := h / 64
def clusterOf (h : Nat) : Nat := h / 256
def dieOf (h : Nat) : Nat := h / 4096

/-- The offset bits [29:0] of a scratchpad byte's absolute address (R11): the cluster index is cy * 4 + cx. -/
def spadBits (core off : Nat) : Nat :=
  let cl := core / 64 % 16
  core / 1024 * 2 ^ 27 + cl % 4 * 2 ^ 25 + cl / 4 * 2 ^ 23 + core % 64 * 2 ^ 17 + off
/-- The core that bits [29:17] of an absolute address name. -/
def coreOfBits (x : Nat) : Nat :=
  (x / 2 ^ 27 % 8) * 1024 + ((x / 2 ^ 23 % 4) * 4 + x / 2 ^ 25 % 4) * 64 + x / 2 ^ 17 % 64
/-- Location key of a scratchpad byte, and its absolute address (R12). -/
def spadLoc (core off : Nat) : Nat := Config.spadKey + spadBits core off
def spadVa (core off : Nat) : Word := w64 (0xA0 * 2 ^ 56 + spadBits core off)
/-- The size of a scratchpad (R41). -/
def spadSize : Nat := 0x18000
def isSpad (k : Nat) : Bool := decide (Config.spadKey ≤ k) && decide (k < Config.sideKey)
/-- Location key of byte `b` of the side band of the row that holds vault byte `pa` (R68). -/
def sideLoc (pa b : Nat) : Nat := Config.sideKey + pa / 8192 * 256 + b
/-- Vault bytes (R23, R24): cluster, bank within the vault (layer * 32 + bank), row. -/
def isVault (k : Nat) : Bool := decide (k < 2 ^ 39)
def vaultOf (pa : Nat) : Nat := pa / 2 ^ 32 % 128
def bankOf (pa : Nat) : Nat := pa / 2 ^ 13 % 256
def rowOf (pa : Nat) : Nat := pa / 2 ^ 21 % 2048
/-- Device control registers, the boot SRAM among them (R23, R411), and host memory. -/
def isReg (k : Nat) : Bool := k / 2 ^ 48 == 4
def isHost (k : Nat) : Bool := k / 2 ^ 48 == 8
def bootSram : Nat := 0x4001000000000
def isBoot (k : Nat) : Bool := decide (bootSram ≤ k) && decide (k < bootSram + 0x400000)

/-- The HARTID of a hart (R208) and COORD (R21). -/
def State.hartId (s : State) (h : Nat) : Word := w64 (s.pkgnum.toNat * 2 ^ 15 + h)
def State.coord (s : State) (h : Nat) : Word :=
  w64 (s.pkgnum.toNat * 2 ^ 30 + spadBits (coreOf h) 0 + h % 4)

/-- The clusters of a partition (R401): none while it is not live. -/
def Part.holds (p : Part) (g : Nat) : Bool := p.live && p.pcl.getLsbD g
/-- The live partition that holds a cluster, resident ones first (R401). -/
def State.partOf (s : State) (g : Nat) : Option Nat :=
  let ps := (List.range Config.nParts).filter fun p => (s.part p).holds g
  match ps.find? fun p => (s.part p).swSt != .out with
  | some p => some p
  | none => none
/-- A hart of partition `p` may reach cluster `g` (R18); a monitor hart of no partition may reach any (log 7). -/
def State.inSet (s : State) (p : Option Nat) (g : Nat) : Bool :=
  match p with
  | none => true
  | some p => (s.part p).holds g

/-- TICK of a partition (R6): the package tick since its creation, frozen while it is swapped out. A hart of no partition
(the boot monitor's) reads the package tick, in the ready ticks of ROWACT and ROWQ too (DESIGN CHOICE: R6 gives TICK per
partition only; log 35). -/
def State.partTick (s : State) (p : Option Nat) : Word :=
  match p with
  | none => w64 s.tick
  | some p => let x := s.part p; w64 (match x.frozen with | some t => t | none => s.tick - x.tickOff)

/-- A fresh number for a free value. -/
def State.draw (s : State) : Nat × State := (s.draws, { s with draws := s.draws + 1 })

/-! ## Memory under keys (R83, R88) -/

/-- A row that VSHADOW reserves for partition swap (R88, R91). -/
def State.isShadow (s : State) (pa : Nat) : Bool :=
  let w := (s.cluster (vaultOf pa)).vshadow
  bit w 63 && rowOf pa / 4 == fld w 2 9

/-- A byte of the shadow region that a swap has written and monitor mode has not written since. -/
def State.shadowDraw (s : State) (a : Nat) : Option Nat :=
  if isVault a && s.isShadow a && !(s.cluster (vaultOf a)).shadowOver.contains a then (s.cluster (vaultOf a)).shadowed
  else none
/-- The key material of a cluster's shadow rows, and the region's rowbase (R88, R91). -/
def State.shadowKey (s : State) (g : Nat) : BitVec 512 × Nat :=
  let w := (s.cluster g).vshadow
  (Tab.get 0 s.keys (fld w 32 12), fld w 2 9)
def State.shadowWrite (s : State) (a : Nat) : State :=
  if (s.shadowDraw a).isSome then s.modCluster (vaultOf a) fun c => { c with shadowOver := a :: c.shadowOver } else s

/-- Key material of a 64-byte unit and of a key slot, none for plaintext; a cleared slot holds zeros (R83, R373, R403). -/
def State.unitKey (s : State) (a : Nat) : Option (BitVec 512) := Tab.find? s.encUnits (a / 64)
def State.slotKey (s : State) : Option (BitVec 12) → Option (BitVec 512)
  | none => none
  | some k => some (Tab.get 0 s.keys k.toNat)

/-- The tweak of the data unit of a location: of row data, or of half h of a row's tag area (R83). -/
def tweakOf (a : Nat) : Nat :=
  if Config.sideKey ≤ a then 2 ^ 40 + 2 * ((a - Config.sideKey) / 256) + a / 64 % 4 else a / 64

/-- What a read under key material `q` delivers for the byte at `a` (R83): the byte as written under the same material, else
the unit as stored, deciphered with `q`; of a byte that a swap has written, a free value (R88 gives no layout). -/
def State.readKey (s : State) (q : Option (BitVec 512)) (a : Nat) : Byte :=
  let u := s.unitKey a
  match s.shadowDraw a with
  | some n => Config.shadowByte n q a
  | none =>
  if u == q then Mem.get s.mem a
  else
    let bs := (List.range 64).map fun i => (Mem.get s.mem (a / 64 * 64 + i)).toNat
    BitVec.ofNat 8 ((recode u q (tweakOf a) bs).getD (a % 64) 0)

def State.readBytes (s : State) (enc : Option (BitVec 12)) (a n : Nat) : List Byte :=
  (List.range n).map fun i => s.readKey (s.slotKey enc) (a + i)

/-- Makes the unit of `a` one that key material `q` wrote: its bytes become what reading it under `q` gives. -/
def State.rekey (s : State) (q : Option (BitVec 512)) (a : Nat) : State :=
  if s.unitKey a == q then s
  else
    let u := a / 64 * 64
    let bs := (List.range 64).map fun i => s.readKey q (u + i)
    { s with
      mem := Mem.puts s.mem u bs
      encUnits := match q with
        | none => s.encUnits.filter fun k => k.1 != a / 64
        | some k => Tab.put s.encUnits (a / 64) k }

/-- Writes one byte under a leaf's key. -/
def State.writeByte (s : State) (enc : Option (BitVec 12)) (a : Nat) (v : Byte) : State :=
  let s := (s.rekey (s.slotKey enc) a).shadowWrite a
  { s with mem := Mem.put s.mem a v }

def State.writeBytes : State → Option (BitVec 12) → Nat → List Byte → State
  | s, _, _, [] => s
  | s, enc, a, b :: bs => State.writeBytes (s.writeByte enc a b) enc (a + 1) bs

/-- A plain little-endian word of memory, and a plain write of one. -/
def State.rd8 (s : State) (a : Nat) : Word := w64 (ofBytes (s.readBytes none a 8))
def State.wr8 (s : State) (a : Nat) (v : Word) : State := s.writeBytes none a (toBytes 8 v.toNat)
def State.wrWords (s : State) (a : Nat) (ws : List Word) : State := s.writeBytes none a (bytesOf ws)

/-! ## Vault banks and row slots at a tick (R70 to R79) -/

/-- The state of a slot at tick `now` (R73). -/
def RowSlot.at (x : RowSlot) (now : Nat) : SlotSt :=
  match x.st with
  | .activating =>
    if x.want.isSome then .activating
    else if x.a + 3600 ≤ now then .expired else if x.a + 14 ≤ now then .ready else .activating
  | .ready => if x.a + 3600 ≤ now then .expired else .ready
  | st => st

/-- The slot holds its bank at tick `now` (R72, R77). -/
def RowSlot.holdsAt (x : RowSlot) (now : Nat) : Bool :=
  x.holds && (match x.st with
    | .activating => x.want.isSome || decide (now < x.a + 3600)
    | .ready | .taken => decide (now < x.a + 3600)
    | _ => false)

def State.slot (s : State) (g k : Nat) : RowSlot := Tab.get {} (s.group g).slots k
def State.setSlot (s : State) (g k : Nat) (x : RowSlot) : State :=
  s.modGroup g fun y => { y with slots := Tab.put y.slots k x }

/-- The slots of a vault's four arrays that name bank `b`. -/
def State.bankSlots (s : State) (v b : Nat) : List RowSlot :=
  (List.range 4).flatMap fun g =>
    (s.group (v * 4 + g)).slots.filterMap fun kx => if kx.2.holds && bankOf kx.2.row == b then some kx.2 else none

def State.bank (s : State) (v b : Nat) : VBank := Tab.get {} (s.cluster v).vbanks b
def State.modBank (s : State) (v b : Nat) (f : VBank → VBank) : State :=
  s.modCluster v fun x => { x with vbanks := Tab.put x.vbanks b (f (Tab.get {} x.vbanks b)) }
def sameBank (a b : Nat) : Bool := vaultOf a == vaultOf b && bankOf a == bankOf b

/-- The tick from which a bank's last release lets it be used again: release and precharge (R74), where an expiry by
time counts as a release. -/
def State.bankReady (s : State) (v b : Nat) : Nat :=
  let x := s.bank v b
  let base := if x.everOpened then x.release + 14 else 0
  (s.bankSlots v b).foldl (fun m t =>
    if t.st != .free && t.want.isNone && !t.holdsAt s.tick then max m (t.a + 3600 + 14) else m) base

/-- The tick at which a pending refresh and its blackout have ended, or the end of the present blackout (R76). -/
def State.bankCool (s : State) (v b : Nat) : Nat :=
  let x := s.bank v b
  if x.refreshPending then max (max (s.bankReady v b) x.busyUntil) x.blackoutEnd + 160 else x.blackoutEnd

/-- A slot holds the bank of `pa`, or it is closing (R77, R78). -/
def State.bankHeld (s : State) (pa : Nat) : Bool :=
  (s.bankSlots (vaultOf pa) (bankOf pa)).any (·.holdsAt s.tick) || decide (s.tick < s.bankReady (vaultOf pa) (bankOf pa))

/-- Nothing holds the bank of `pa` against an access that reached it at tick `since` (R76, R78): an activation that arrived
later does not stand before it (R79). -/
def State.bankOpen (s : State) (pa since : Nat) : Bool :=
  let v := vaultOf pa
  let b := bankOf pa
  (s.bankSlots v b).all (fun x => !x.holdsAt s.tick || (match x.want with | some (t, _) => decide (since < t) | none => false))
    && decide (s.bankReady v b ≤ s.tick) && decide (s.bankCool v b ≤ s.tick)

/-- The access waits at the bank of `pa` since before tick `t`: of a hart held there, or a store that has reached it. -/
def Hart.waitsAt (x : Hart) (pa t : Nat) : Bool :=
  (x.st == .active && (match x.hold with
    | some ⟨.bank since p, _, _, _⟩ | some ⟨.page since p, _, _, _⟩ => decide (since < t) && sameBank p pa
    | _ => false))
  || x.sbuf.any fun e => e.sent && decide (e.came < t) && isVault e.base && sameBank e.base pa

/-- A wait at a bank since before tick `t`. -/
def waitBefore (pa t : Nat) (w : Option (Nat × Nat)) : Bool :=
  match w with
  | some (since, p) => decide (since < t) && sameBank p pa
  | none => false
/-- The tick at which a unit's access reached the bank of `pa`: now, unless it has waited there. -/
def waitCame (w : Option (Nat × Nat)) (pa now : Nat) : Nat :=
  match w with
  | some (t, p) => if sameBank p pa then t else now
  | none => now
/-- The waits at the banks of `pas`, each as it has waited or from now on. -/
def bankWaits (old : List (Nat × Nat)) (now : Nat) (pas : List Nat) : List (Nat × Nat) :=
  pas.foldl (fun ws pa =>
    if ws.any fun w => sameBank w.2 pa then ws
    else ws ++ [(match old.find? fun w => sameBank w.2 pa with | some w => w.1 | none => now, pa)]) []
/-- The hart is out, or its partition is on its way: its units ask for nothing (R369, R376). -/
def State.away (s : State) (x : Hart) : Bool :=
  x.st == .saved || x.frozen || (match x.part with | some p => (s.part p).swSt != .resident | none => false)

/-- An access that reached the bank of `pa` before tick `since` has not been served: those go first (R70, R79). Harts, streams
and mailboxes wait, transfers, map operations, array commands, launch queues, requests of the host, and writes of units. -/
def State.waitsBefore (s : State) (pa since : Nat) : Bool :=
  s.harts.any (fun kx => kx.2.waitsAt pa since
      || (!s.away kx.2 && (kx.2.mbs.any (fun kb => waitBefore pa since kb.2.bank)
        || kx.2.streams.any fun kt => match kt.2.wait with | some (.bank t p) => waitBefore pa since (some (t, p)) | _ => false)))
    || (s.cores.any fun kc => kc.2.xfers.any fun kx =>
        kx.2.live && !kx.2.faultSusp && !kx.2.saveSusp && kx.2.banks.any fun w => waitBefore pa since (some w))
    || (s.groups.any fun kg => kg.2.cmds != [] && kg.2.waits.any fun w => waitBefore pa since (some w))
    || (s.clusters.any fun kc => kc.2.mapq.any fun o => waitBefore pa since o.bank)
    || (s.parts.any fun kp => kp.2.lqs.any fun kq => kq.2.head != kq.2.tail && waitBefore pa since kq.2.bank)
    || (s.hostPend.any fun d => d.waits.any fun w => waitBefore pa since (some w))
    || s.devPend.any fun d => decide (d.since ≤ since) && sameBank d.pa pa

/-- An ordinary access that reached the bank of `pa` at tick `since` may use it now. -/
def State.bankFree (s : State) (pa since : Nat) : Bool := s.bankOpen pa since && !s.waitsBefore pa since

/-- What the release of a bank ends: a row's pin, and the correction marks of a row that was taken (R81, R108). -/
def State.bankEnd (s : State) (e : BankEnd) : State :=
  let s := s.modCluster (e.g / 4) fun x =>
    { x with pins := x.pins.eraseP fun p => p.holder == .row e.g e.k && p.page == e.page }
  if e.took then
    { s with corrCodewords := s.corrCodewords.filter fun c => c / 8 != e.row / 8192 && c != 2 ^ 40 + e.row / 8192 }
  else s

/-- What the bank of a slot still has to end. -/
def RowSlot.ending (x : RowSlot) (g k tick : Nat) : BankEnd :=
  { tick := tick, g := g, k := k, page := x.page, row := x.row, took := x.took }

/-- The bank is released at tick `t`, and precharges then (R74); it counts as closing until then (R77). -/
def State.closeBank (s : State) (v b t : Nat) (ends : List BankEnd) : State :=
  s.modBank v b fun x =>
    { x with closing := true, release := if x.everOpened then max x.release t else t, everOpened := true
             ends := x.ends ++ ends }

/-- A slot whose row has been open for 3,600 ticks has released its bank; an untaken row is Expired (R73). -/
def State.expireSlot (s : State) (g k : Nat) : State :=
  let x := s.slot g k
  if x.holds && x.want.isNone && x.st != .free && x.a + 3600 ≤ s.tick then
    let s := s.setSlot g k { x with st := if x.st == .taken then .taken else .expired, holds := false }
    s.closeBank (g / 4) (bankOf x.row) (x.a + 3600) [x.ending g k (x.a + 3600)]
  else s

/-- What time has brought about at a bank: rows have expired, releases have ended, a pending refresh has run (R73, R76). -/
def State.settleBank (s : State) (v b : Nat) : State :=
  let s := (List.range 16).foldl (fun s i =>
    if bankOf (s.slot (v * 4 + i / 4) (i % 4)).row == b then s.expireSlot (v * 4 + i / 4) (i % 4) else s) s
  let s := ((s.bank v b).ends.filter fun e => e.tick ≤ s.tick).foldl State.bankEnd s
  let cool := s.bankCool v b
  let held := (s.bankSlots v b).any fun x => x.want.isNone && x.holdsAt s.tick
  s.modBank v b fun x =>
    let runs := x.refreshPending && !held && decide (cool ≤ s.tick)
    { x with
      ends := x.ends.filter fun e => s.tick < e.tick
      closing := x.closing && decide (s.tick < x.release)
      refreshPending := x.refreshPending && !runs
      blackoutEnd := if runs then cool else x.blackoutEnd }

/-- An access occupies the bank for 20 ticks (R70). -/
def State.serveBank (s : State) (pa : Nat) : State :=
  (s.settleBank (vaultOf pa) (bankOf pa)).modBank (vaultOf pa) (bankOf pa) fun x =>
    { x with busyUntil := max s.tick x.busyUntil + 20 }

/-! ## Error correction (R69, R81, R82, R91, R379) -/

/-- An uncorrectable codeword or scratchpad word lies in `n` bytes from location `a`. -/
def State.eccBad (s : State) (a n : Nat) : Bool :=
  if isSpad a then
    (s.core (coreOfBits (a - Config.spadKey))).badWords.any fun w => a % 2 ^ 17 / 8 ≤ w && w ≤ (a % 2 ^ 17 + n - 1) / 8
  else isVault a && s.badCodewords.any fun w => a / 1024 ≤ w && w ≤ (a + n - 1) / 1024

/-- Vault codewords that `n` bytes from `a` touch. -/
def codewords (a n : Nat) : List Nat := (List.range ((a + n - 1) / 1024 - a / 1024 + 1)).map (a / 1024 + ·)

/-- The first vault byte of the row of a codeword, with those of tag areas above 2^40. -/
def codewordRow (c : Nat) : Nat := if 2 ^ 40 ≤ c then (c - 2 ^ 40) * 8192 else c / 8 * 8192

/-- VECC counts an uncorrectable codeword, and each corrected one (R81, R91). -/
def State.countBad (s : State) (a : Nat) : State :=
  if isVault a then
    s.modCluster (vaultOf a) fun c =>
      { c with vecc := c.vecc + (if fld c.vecc 16 16 == 0xFFFF then 0 else (0x10000 : Word)) }
  else s
def State.addCorrected (s : State) (a k : Nat) : State :=
  s.modCluster (vaultOf a) fun c =>
    { c with vecc := w64 (min (fld c.vecc 32 32 + k) (2 ^ 32 - 1) * 2 ^ 32 + fld c.vecc 0 32) }
def State.countCorrected (s : State) (a n : Nat) : State :=
  if isVault a then s.addCorrected a ((codewords a n).filter s.corrCodewords.contains).length else s

/-- A vault access of `n` bytes within a row is served: its bank is occupied, and VECC counts the codewords that it
corrects. -/
def State.touch (s : State) (a n : Nat) : State := if isVault a then (s.serveBank a).countCorrected a n else s

/-- A write of `n` bytes to a vault stores its codewords anew: no single-bit error is left in them (R69). -/
def State.mendRow (s : State) (a n : Nat) : State :=
  if isVault a then { s with corrCodewords := s.corrCodewords.filter fun c => !(codewords a n).contains c } else s
/-- The same of a write to a vault or to a scratchpad (R379). -/
def State.mend (s : State) (a n : Nat) : State :=
  if isSpad a then
    s.modCore (coreOfBits (a - Config.spadKey)) fun c =>
      { c with corrWords := c.corrWords.filter fun w => !(a % 2 ^ 17 / 8 ≤ w && w ≤ (a % 2 ^ 17 + n - 1) / 8) }
  else s.mendRow a n

/-- A write of whole scratchpad words stores them anew: neither kind of error is left in those that it covers (R379). -/
def State.renew (s : State) (a n : Nat) : State :=
  if isSpad a then
    let inside (w : Nat) : Bool := decide (a % 2 ^ 17 ≤ 8 * w) && decide (8 * w + 8 ≤ a % 2 ^ 17 + n)
    s.modCore (coreOfBits (a - Config.spadKey)) fun c =>
      { c with badWords := c.badWords.filter (!inside ·), corrWords := c.corrWords.filter (!inside ·) }
  else s

/-! ## Writes of the device's units -/

/-- A write of a unit reaches its bank: one that merges into an uncorrectable codeword leaves it so (R82). -/
def State.devPut (s : State) (a : Nat) (bs : List Byte) : State :=
  let s := (s.touch a bs.length).mendRow a bs.length
  (if s.eccBad a bs.length then s.countBad a else s).writeBytes none a bs

/-- A write of a unit of the device to plain memory, in one row at most: it waits at a bank that is not free (R78), and does
nothing to a shadow row (R89), nor to a vault that has not been wiped (R408, R411). -/
def State.devWrite (s : State) (agent : Option Nat) (a : Nat) (bs : List Byte) : State :=
  if isVault a && (s.isShadow a || !s.boot.full) then s
  else if isVault a && !s.bankFree a s.tick then
    { s with devPend := s.devPend ++ [{ pa := a, bytes := bs, since := s.tick, agent := agent }] }
  else s.devPut a bs

/-! ## Registers and spans (R178 to R180) -/

/-- A register as the current instruction reads it (R179). -/
def Hart.reg (x : Hart) (r : Nat) : Word :=
  match Tab.find? x.span.fwd r with
  | some v => v
  | none => Tab.get 0 x.regs r
def State.rd (s : State) (r : RegNo) : Word := s.me.reg r.toNat

/-- Adds deferred writes to the span of the current hart. -/
def State.defer (s : State) (ps : List Pend) : State :=
  s.modMe fun x => { x with span := { x.span with pend := x.span.pend ++ ps } }
/-- A variable-latency result. -/
def State.deferReg (s : State) (r : RegNo) (v : Word) : State := s.defer [.scalar r.toNat v]
def State.deferC0 (s : State) (v : Word) : State := s.defer [.scalar 0 v]
/-- A fixed-latency result (R180): forwarded at once, and written in order at the span's end. -/
def State.fixed (s : State) (r : RegNo) (v : Word) : State :=
  s.modMe fun x => { x with span := { x.span with
    fwd := Tab.put x.span.fwd r.toNat v, pend := x.span.pend ++ [.scalar r.toNat v] } }
/-- A register write at a serialising instruction's own marker. -/
def Hart.setReg (x : Hart) (r : Nat) (v : Word) : Hart := { x with regs := Tab.put x.regs r v }
def State.setReg (s : State) (r : RegNo) (v : Word) : State := s.modMe (·.setReg r.toNat v)

def Pend.isWait : Pend → Bool
  | .wait _ => true
  | _ => false
def Hart.waiting (x : Hart) : Bool := x.span.pend.any Pend.isWait

/-- Register `i` of an octet of a core, and its replacement. -/
def State.octReg (s : State) (c o i : Nat) : VWord := (Tab.get {} (s.core c).octets o).data.getD i 0
def State.setOctReg (s : State) (c o i : Nat) (v : VWord) : State :=
  s.modCore c fun k =>
    let x := Tab.get ({} : Octet) k.octets o
    { k with octets := Tab.put k.octets o { x with data := listPut 0 x.data i v } }

/-- Writes v0 to v31 of a hart (R34); a name of an empty slot takes nothing. -/
def State.setVec (s : State) (h r : Nat) (v : VWord) : State :=
  if r < 16 then s.modHart h fun x => { x with v := Tab.put x.v r v }
  else
    match (if r < 24 then (s.hart h).slotA else (s.hart h).slotB) with
    | some o => s.setOctReg (coreOf h) o (r % 8) v
    | none => s

/-- One deferred write (R179); a push enters its stream's buffer (R182). -/
def State.land (h : Nat) (s : State) : Pend → State
  | .scalar r v => s.modHart h (·.setReg r v)
  | .vec r v => s.setVec h r v
  | .mask r v => s.modHart h fun x => { x with m := Tab.put x.m r v }
  | .flags f => s.modHart h fun x => { x with u := { x.u with fflags := x.u.fflags ||| f } }
  | .push n e => s.modHart h fun x =>
      let t := Tab.get ({} : Stream) x.streams n
      { x with streams := Tab.put x.streams n { t with buf := t.buf ++ [e], pos := t.pos + 1 } }
  | .wait _ => s

/-- The deferred writes of a span commit in program order, and a new span begins (R178, R179). -/
def State.commit (s : State) (h : Nat) : State :=
  let ps := (s.hart h).span.pend
  (ps.foldl (State.land h) s).modHart h fun x => { x with span := {}, freshA := false, freshB := false }

/-- The chain of hart `h` has been issued: the pc passes it and its span ends at a marker (R178). -/
def State.retire (s : State) (h len : Nat) (marker : Bool) : State :=
  let n := (s.hart h).span.count + 1
  let s := s.modHart h fun x =>
    { x with pc := x.pc + w64 (2 * len), span := { x.span with count := n }, hold := none, waited := 0, done := [], todo := [] }
  if marker || 32 ≤ n then
    if (s.hart h).waiting then s.modHart h fun x => { x with span := { x.span with ended := true } }
    else s.commit h
  else s

/-- The end of an instruction that is not serialising. -/
def finish (s : State) : Out := .next (s.retire s.cx.hart s.cx.len s.cx.marker)

/-- The result of an operation that was under way arrives: it takes its place among the deferred writes. -/
def State.resolve (s : State) (h id : Nat) (ps : List Pend) : State :=
  let s := s.modHart h fun x =>
    { x with span := { x.span with pend := x.span.pend.flatMap fun p => if p == .wait id then ps else [p] } }
  if (s.hart h).span.ended && !(s.hart h).waiting then s.commit h else s

/-- Execution of the current hart continues at `pc` in a new span (R178). -/
def State.goto (s : State) (pc : Word) : State :=
  s.modMe fun x => { x with pc := pc, span := {}, hold := none, waited := 0, done := [], todo := [] }
def goto (pc : Word) (s : State) : Out := .next (s.goto pc)
/-- The address of the word after the current chain. -/
def State.nextPc (s : State) : Word := s.me.pc + w64 (2 * s.cx.len)
/-- The address of the base word of the current chain. -/
def State.basePc (s : State) : Word := s.me.pc + w64 (2 * (s.cx.len - 1))
/-- The end of a serialising instruction. -/
def serialDone (s : State) : Out := goto s.nextPc s

/-- The hold of the chain being executed. -/
def State.holdOf (s : State) (k : HoldKind) : Hold :=
  ⟨k, s.cx.len, s.cx.marker, if s.cx.len == 0 then none else some s.cx⟩
/-- The current hart is held out of issue at its chain (R182), which begins anew when it goes on. -/
def holdAt (k : HoldKind) (s : State) : Out :=
  .next (s.modMe fun x => { x with hold := some (s.holdOf k), done := [], todo := [] })
/-- The same in the middle of the chain's accesses: those that it has made stand (R228). -/
def holdAccess (k : HoldKind) (s : State) : Out := .next (s.modMe fun x => { x with hold := some (s.holdOf k) })

/-- A serialising instruction waits for the deferred writes of its span, which then commit (R178, R179). -/
def serial (s : State) (k : State → Out) : Out :=
  if s.me.waiting then holdAt .span s else k (s.commit s.cx.hart)

/-- A held instruction of hart `h` completes with the given deferred writes. -/
def State.release (s : State) (h : Nat) (ps : List Pend) : State :=
  match (s.hart h).hold with
  | none => s
  | some k =>
    (s.modHart h fun x => { x with span := { x.span with pend := x.span.pend ++ ps } }).retire h k.len k.marker

/-! ## Messages, notices and machine-check records -/

namespace Hdr

/-- The fields of a header (R325). -/
def tag (w : Word) : Nat := fld w 56 8
def cls (w : Word) : Nat := fld w 52 4
def len (w : Word) : Nat := fld w 49 3
def mb (w : Word) : Nat := fld w 46 3
/-- The destination hart and core, numbered as HARTID numbers them. -/
def hart (w : Word) : Nat := fld w 31 3 * 4096 + fld w 34 4 * 256 + fld w 38 6 * 4 + fld w 44 2
def core (w : Word) : Nat := hart w / 4
def pkg (w : Word) : Nat := fld w 21 10
/-- The package field that names the host. -/
def host : Nat := 0x3FF

end Hdr

/-- The Tlauno port of the sender's bridgehead for a package (R391); above 23 it is unreachable. -/
def State.portOf (s : State) (die pkg : Nat) : Nat := (Tab.get 0xFF s.tlpkg (die / 4 * 1024 + pkg)).toNat

/-- An active gather or scatter of the right form (R340, R341). -/
def activeOk (hdr : Word) (pay : List Word) : Bool :=
  if Hdr.tag hdr == 0xF8 then
    let w := pay.getD 2 0
    let n := fld w 32 16
    let l := fld w 0 32
    Hdr.mb hdr == 0 && fld hdr 44 2 == 0 && 1 ≤ n && n ≤ 4 && Hdr.len hdr == 3 + n && fld w 48 16 == 0
      && l % 8 == 0 && 8 ≤ l && l ≤ 2048
  else if Hdr.tag hdr == 0xF9 then
    Hdr.mb hdr == 0 && fld hdr 44 2 == 0 && 3 ≤ Hdr.len hdr && Hdr.len hdr % 2 == 1
  else true

/-- What SEND refuses with MESSAGE_FORMAT, but for its registers (R337). -/
def State.sendRefused (s : State) (part : Option Nat) (die : Nat) (hdr : Word) (pay : List Word) : Bool :=
  let pkg := Hdr.pkg hdr
  fld hdr 0 21 != 0
  || (Hdr.cls hdr == 15 && (Hdr.len hdr != 0 || pkg == Hdr.host))
  || (pkg != s.pkgnum.toNat && pkg != Hdr.host && 24 ≤ s.portOf die pkg)
  || (pkg == s.pkgnum.toNat && !s.inSet part (Hdr.hart hdr / 256))
  || (pkg == Hdr.host && Hdr.hart hdr != 0)
  || !activeOk hdr pay

/-- Where the machine-check queue takes its next record (R378), none without room. -/
def State.mcSlot (s : State) : Option Nat :=
  let lg := fld s.mcqcfg 0 4
  if lg == 0 || 2 ^ lg ≤ (s.mcqtail - s.mcqhead).toNat then none
  else some (fld s.mcqcfg 12 40 * 4096 + 32 * (s.mcqtail.toNat % 2 ^ lg))

/-- One record of the machine-check queue (R378): posted with its notice, or counted as lost. A notice whose header SEND would
refuse is not sent (DESIGN CHOICE; log 35). -/
def State.postCheck (s : State) (kind detail agent : Nat) (w1 w2 : Word) : State :=
  let w0 := w64 (kind * 2 ^ 56 + detail % 256 * 2 ^ 40 + agent % 2 ^ 15)
  match s.mcSlot with
  | none => { s with mclost := satInc s.mclost }
  | some a =>
    let s := s.devWrite none a (bytesOf [w0, w1, w2, 0])
    let s := { s with mcqtail := s.mcqtail + 1 }
    let hdr := w64 (fld s.mcqmsg 21 43 * 2 ^ 21)
    if hdr == 0 || s.sendRefused none 0 hdr [] then s
    else
      { s with net := s.net ++
          [{ hdr := withLen hdr 1, pay := [w64 s.mcqtail.toNat], origin := 3 }] }

/-- A write of a unit at `a`, now, would merge into an uncorrectable codeword (R82). -/
def State.mergesBad (s : State) (a n : Nat) : Bool :=
  s.bankFree a s.tick && !s.isShadow a && s.boot.full && s.eccBad a n

/-- A machine-check record (R378). Where the write of it would merge into an uncorrectable codeword a second record says so
(R82), of which the write is not looked at again (DESIGN CHOICE: else there would be no end of records; log 35). -/
def State.machineCheck (s : State) (kind detail agent : Nat) (w1 w2 : Word) : State :=
  let t := s.postCheck kind detail agent w1 w2
  match s.mcSlot with
  | none => t
  | some a => if s.mergesBad a 32 then t.postCheck 2 (a / 1024 % 8) 0 (w64 (a / 8192 * 8192)) (w64 a) else t

/-- A write of a unit that belongs to agent `h`: where it would merge into an uncorrectable codeword, a record names the
writer (R82, R378). A unit of a cluster goes by the number of the cluster's first hart (DESIGN CHOICE; log 35). -/
def State.devWriteFor (s : State) (h : Nat) (a : Nat) (bs : List Byte) : State :=
  let bad := s.mergesBad a bs.length
  let s := s.devWrite (some h) a bs
  if bad then s.machineCheck 2 (a / 1024 % 8) h (w64 (a / 8192 * 8192)) (w64 a) else s

/-- An access of a unit to a bank that is free: the bank is served, and an uncorrectable codeword is counted and reported for
agent `h` (R70, R82, R378). -/
def State.unitTouch (s : State) (h a n : Nat) : State :=
  let s := s.touch a n
  if isVault a && s.eccBad a n then (s.countBad a).machineCheck 2 (a / 1024 % 8) h (w64 (a / 8192 * 8192)) (w64 a) else s

/-- Route class `c` is tracked by launch `l` (R345). -/
def State.tracked (s : State) (l c : Nat) : Bool := bit ((s.launch l).words.getD 2 0) (32 + c)
/-- A message of launch `l` counts for its quiescence: of a tracked class, and no event or active message (R358). -/
def State.counted (s : State) (l : Nat) (hdr : Word) : Bool :=
  s.tracked l (Hdr.cls hdr) && Hdr.cls hdr != 15 && !(Hdr.tag hdr == 0xF8 || Hdr.tag hdr == 0xF9)
/-- Adds to the counter of launch `l` at core `c` (R358). -/
def State.qAdd (s : State) (c l : Nat) (d : Int) : State :=
  s.modCore c fun k =>
    let x := Tab.get (0, 0) k.qcount l
    { k with qcount := Tab.put k.qcount l (x.1 + d, x.2 + 1) }

/-- A message is diverted to the error mailbox of partition `p` (R332); a tracked one counts down (R358). -/
def State.divert (s : State) (m : Msg) (reason p : Nat) : State :=
  let s := s.modPart p fun x => { x with pmdiv := satInc x.pmdiv }
  let s := if m.counts then s.qAdd (Hdr.core m.hdr) m.launch (-1) else s
  let m := { m with err := some reason, part := some p, waiter := none, counts := false, waiting := false }
  { s with net := s.net ++ [{ m with hops := 0, moved := none, esc := false, pads := [] }] }
/-- The same, where a cluster of no partition has no error mailbox: the monitor is told (R366; log 7). -/
def State.divertTo (s : State) (m : Msg) (reason : Nat) (p : Option Nat) : State :=
  match p with
  | some p => s.divert m reason p
  | none => s.machineCheck 4 reason (Hdr.hart m.hdr) m.hdr 0

/-- Sends a message of a device agent for partition `part` (R326): a header that SEND would refuse is diverted with
reason 3, and without a partition it is reported to the monitor (R332, R366). -/
def State.deviceSend (s : State) (m : Msg) : State :=
  if s.sendRefused m.part (m.die.getD (dieOf m.sender.toNat)) m.hdr m.pay then s.divertTo m 3 m.part
  else { s with net := s.net ++ [m] }

/-- Sends a notice of a unit; where no partition holds its cluster it goes to the monitor as a record (R366; log 7). -/
def State.notice (s : State) (m : Msg) : State := if m.part.isNone then s.divertTo m 3 none else s.deviceSend m

/-- Writes one record to a cluster's fault queue and sends its notice (R366). -/
def State.faultPush (s : State) (g : Nat) (rec : List Word) : State :=
  let x := s.cluster g
  let lg := fld x.fqcfg 0 4
  let a := fld x.fqcfg 12 40 * 4096 + 32 * (x.fqtail.toNat % 2 ^ lg)
  let s := (s.devWriteFor (g * 256) a (bytesOf rec)).modCluster g fun x => { x with fqtail := x.fqtail + 1 }
  let hdr := w64 (fld x.fqmsg 21 43 * 2 ^ 21)
  if hdr == 0 then s
  else
    s.notice { hdr := withLen hdr 1, pay := [w64 (x.fqtail + 1).toNat], origin := 3, die := some (g / 16), part := s.partOf g
               agent := g * 256 }

/-- The fault queue has room (R366): a queue of lgsize 0 is no ring. -/
def Cluster.fqRoom (x : Cluster) : Bool :=
  fld x.fqcfg 0 4 != 0 && decide ((x.fqtail - x.fqhead).toNat < 2 ^ fld x.fqcfg 0 4)

/-- Posts a fault record, or holds it while the queue is full (R366). -/
def State.postFault (s : State) (g : Nat) (rec : List Word) : State :=
  let x := s.cluster g
  if x.fqheld == [] && x.fqRoom then s.faultPush g rec
  else s.modCluster g fun x => { x with fqheld := x.fqheld ++ [rec] }

/-- Posts held records in order while the queue has room (R366). -/
def State.postHeld (s : State) (g : Nat) : Nat → State
  | 0 => s
  | n + 1 =>
    match (s.cluster g).fqheld with
    | [] => s
    | r :: rs =>
      if (s.cluster g).fqRoom then
        ((s.modCluster g fun x => { x with fqheld := rs }).faultPush g r).postHeld g n
      else s

/-- A fault record (R102). -/
def faultRecord (kind reason level access xfer h : Nat) (addr pc : Word) (space : BitVec 16) : List Word :=
  [w64 (0x07 * 2 ^ 56 + kind * 2 ^ 48 + reason * 2 ^ 44 + level * 2 ^ 41 + access * 2 ^ 38 + xfer * 2 ^ 16 + h),
   addr, pc, w64 (space.toNat * 2 ^ 48)]

/-! ## Traps, parking and stopping (R101, R215 to R217, R404) -/

namespace Cause

/-- The trap causes (R215). -/
abbrev illegal : Nat := 0x01
abbrev badLead : Nat := 0x02
abbrev privilege : Nat := 0x03
abbrev misaligned : Nat := 0x04
abbrev straddle : Nat := 0x05
abbrev space : Nat := 0x06
abbrev permission : Nat := 0x08
abbrev rowEarly : Nat := 0x09
abbrev rowExpired : Nat := 0x0A
abbrev rowBankBusy : Nat := 0x0B
abbrev promiseMissed : Nat := 0x0C
abbrev vregNotHeld : Nat := 0x0D
abbrev claimWhileHolding : Nat := 0x0E
abbrev leaseNotHeld : Nat := 0x0F
abbrev streamUnbound : Nat := 0x10
abbrev ecc : Nat := 0x11
abbrev breakpoint : Nat := 0x12
abbrev syscall : Nat := 0x13
abbrev mapDescriptor : Nat := 0x14
abbrev messageFormat : Nat := 0x15

/-- The causes that can be delegated to a user handler (R214, R215). -/
def delegable (c : Nat) : Bool :=
  [0x01, 0x02, 0x04, 0x05, 0x09, 0x0A, 0x0B, 0x0C, 0x0D, 0x0E, 0x0F, 0x10, 0x12, 0x14, 0x15].contains c

end Cause

/-- TCAUSE, UTCAUSE and MONCAUSE (R212). -/
def causeWord (code len : Nat) (hnd : Bool) (cause : Nat) : Word :=
  w64 (code % 2 ^ 16 * 2 ^ 32 + len % 8 * 2 ^ 9 + b2n hnd * 2 ^ 8 + cause)

/-- The hart leaves issue until the monitor or the supervisor resumes it (R364). -/
def State.stop (s : State) (h : Nat) : State := s.modHart h fun x => { x with st := .stopped, hold := none, span := {}, done := [], todo := [] }

/-- Trap entry of hart `h` (R216; in monitor mode R404): a double trap stops the hart with a kind-1 record. -/
def State.trapEnter (s : State) (h len cause code : Nat) (addr : Word) : State :=
  let x := s.hart h
  let w := causeWord code len x.h.running cause
  let double := (s.stop h).machineCheck 1 cause h addr x.pc
  match x.mode with
  | .monitor =>
    if x.mon.busy then double
    else s.setHart h { x with
      mon := { x.mon with busy := true, rmode := .monitor, pc := x.pc, cause := w, addr := addr }
      pc := evenWord x.mon.vec, span := {}, hold := none, waited := 0, done := [], todo := [] }
  | m =>
    if m == .user && x.t.tdeleg.getLsbD cause && x.t.utvec.getLsbD 0 && !x.t.utrap then
      s.setHart h { x with
        t := { x.t with uepc := x.pc, utcause := w, utaddr := addr, utrap := true }
        pc := evenWord x.t.utvec, span := {}, hold := none, waited := 0, done := [], todo := [] }
    else if x.t.intrap then double
    else s.setHart h { x with
      t := { x.t with tepc := x.pc, tcause := w, taddr := addr, pmode := m, pie := x.t.ie, ie := false, intrap := true }
      mode := .kernel, pc := evenWord x.t.tvec, span := {}, hold := none, waited := 0, done := [], todo := [] }

/-- An in-hart trap at the current chain, precise there: earlier deferred writes commit (R181, R216). -/
def trapCode (cause code : Nat) (addr : Word) (s : State) : Out :=
  serial s fun s => .next (s.trapEnter s.cx.hart s.cx.len cause code addr)
def trap (cause : Nat) (addr : Word) (s : State) : Out := trapCode cause 0 addr s
/-- ILLEGAL_INSTRUCTION records the base word (R215). -/
def illegal (s : State) : Out := trap Cause.illegal (s.cx.base.setWidth 64) s

/-- A TRANSLATION fault parks the hart at its chain and posts a record (R101, R102). -/
def parkAt (reason level access : Nat) (addr : Word) (s : State) : Out :=
  serial s fun s =>
    let h := s.cx.hart
    let x := s.hart h
    let s := s.setHart h { x with st := .parked, hold := none, done := [], todo := [] }
    .next (s.postFault (clusterOf h) (faultRecord 0 reason level access 0 h addr x.pc x.t.pspace))

end Sys2Proof.Machine
end

