-- ==== Sys2Proof/Machine/Route.lean ====
section
/-! DEFINITION. Links and the routes over them, and the report of a remote access that a failed link has lost (spec/23 R385
to R391, spec/10 R229). Links 0 to 7 are the viaducts from die d to die d + 1, 8 to 15 the viaducts from die d to its
bridgehead, and from 16 on the Tlauno links of port p of bridgehead b, at 16 + 24 b + p. -/

namespace Sys2Proof.Machine

/-- Kind of a link, as a kind-7 record has it, and its number within the kind (R378). -/
def linkKind (i : Nat) : Nat := if i < 8 then 0 else if i < 16 then 1 else 2
def linkNumber (i : Nat) : Nat := if i < 8 then i else if i < 16 then i - 8 else i - 16

/-- From die `a` to die `b` the way is clockwise: where that is the shortest, or on a tie, or where RTCFG names it (R386); and the
viaducts of that way. -/
def goesCw (way a b : Nat) : Bool := way == 1 || (way == 0 && decide ((b + 8 - a) % 8 ≤ 4))
def ringLinks (way a b : Nat) : List Nat :=
  let cw := (b + 8 - a) % 8
  if goesCw way a b then (List.range cw).map fun i => (a + i) % 8
  else (List.range ((8 - cw) % 8)).map fun i => (a + 7 - i) % 8

/-- The die from whose ring stop traffic of die `a` for the host leaves (R391). -/
def hostDie (a : Nat) : Nat := if a < 4 then a else if a < 6 then 3 else 0

def State.linkUp (s : State) (i : Nat) : Bool := (Tab.get ({} : Link) s.links i).up
/-- The first link of a route that is down. -/
def State.cutLink (s : State) (ls : List Nat) : Option Nat := ls.find? fun i => !s.linkUp i

/-- The links from die `a` to the host, and to the peer package `p` (R391). -/
def hostLinks (a : Nat) : List Nat := ringLinks 0 a (hostDie a) ++ [8 + hostDie a]
def State.peerLinks (s : State) (a p : Nat) : List Nat := [8 + a, 16 + a / 4 * 24 + s.portOf a p]

/-- The die where a location of a scratchpad or a vault lies. -/
def homeDie (key : Nat) : Nat := if isSpad key then coreOfBits (key - Config.spadKey) / 1024 else vaultOf key / 16

/-- A down link on the way of a request of hart `h` to a location, and on the way of its reply: each goes the shortest way
round the ring (R386), at four viaducts clockwise as R386 has it for a message (DESIGN CHOICE; log 35), and to the host and
back over the ring and a bridgehead viaduct (R391). -/
def State.requestCut (s : State) (h key : Nat) : Option Nat :=
  if isSpad key || isVault key then s.cutLink (ringLinks 0 (dieOf h) (homeDie key))
  else if isHost key then s.cutLink (hostLinks (dieOf h)) else none
def State.replyCut (s : State) (h key : Nat) : Option Nat :=
  if isSpad key || isVault key then s.cutLink (ringLinks 0 (homeDie key) (dieOf h))
  else if isHost key then s.cutLink ((8 + hostDie (dieOf h)) :: ringLinks 0 (hostDie (dieOf h)) (dieOf h)) else none
/-- A down link that loses an access of hart `h` or its reply. -/
def State.lostLink (s : State) (h key : Nat) : Option Nat :=
  match s.requestCut h key with
  | some i => some i
  | none => s.replyCut h key

/-- A remote access of hart `h` is lost: earlier deferred writes commit, the record is posted, and the hart is Stopped (R229,
R378, R390). -/
def State.lose (s : State) (h : Nat) (va pc : Word) (never : Bool) : State :=
  ((s.commit h).machineCheck 5 (b2n never) h va pc).stop h

end Sys2Proof.Machine
end

