-- ==== Sys2Proof/Machine/Access.lean ====
section
/-! DEFINITION. The page walk and the translation caches, and the check of an access in the order of causes (spec/01 R9 to
R25, spec/05 R92 to R111). -/

namespace Sys2Proof.Machine

/-! ## Agents and their accesses -/

/-- The kinds of access, in the order of their codes in a fault record (R102). -/
inductive Acc where
  | load | store | atomic | fetch | rowact | engRead | engWrite | tagRead | tagWrite
deriving DecidableEq, Repr, Inhabited

def Acc.code : Acc → Nat
  | .load => 0 | .store => 1 | .atomic => 2 | .fetch => 3 | .rowact => 4 | .engRead => 5 | .engWrite => 6
  | .tagRead => 7 | .tagWrite => 7
def Acc.writes : Acc → Bool
  | .store | .atomic | .engWrite | .tagWrite => true
  | _ => false
def Acc.reads : Acc → Bool
  | .store | .engWrite | .tagWrite | .fetch => false
  | _ => true

/-- Whose access it is: the issuing hart (R15), and the mode and address space it is checked in (R99); the tick and the bank
since which it has waited (R70); and of an access of a cluster's own walker or map unit that cluster, whose cache alone it
uses (R98); `stops` says that a lost read of the walk stops the hart, as no other agent's does (R390). -/
structure Who where
  h : Nat := 0
  mode : Mode := .user
  part : Option Nat := none
  ptroot : Word := 0
  pspace : BitVec 16 := 0
  since : Option (Nat × Nat) := none
  unit : Option Nat := none
  stops : Bool := true
deriving DecidableEq, Repr, Inhabited

/-- The tick at which the access reached the bank of `pa`. -/
def Who.came (w : Who) (pa now : Nat) : Nat :=
  match w.since with
  | some (t, p) => if sameBank p pa then t else now
  | none => now
/-- The cluster whose translation caches the access uses. -/
def Who.cluster (w : Who) : Nat := w.unit.getD (clusterOf w.h)

/-- Since when, and at which bank, the held access of a hart has waited. -/
def Hart.since (x : Hart) : Option (Nat × Nat) :=
  match x.hold with
  | some ⟨.bank t p, _, _, _⟩ | some ⟨.page t p, _, _, _⟩ => some (t, p)
  | _ => none
def State.who (s : State) (h : Nat) : Who :=
  let x := s.hart h
  { h := h, mode := x.mode, part := x.part, ptroot := x.t.ptroot, pspace := x.t.pspace, since := x.since }

/-- What an access comes to: a result, a trap, a TRANSLATION fault (reason and level of R102), a wait, a request to
host memory that has been sent and has to be answered first (R394), or the end of a hart whose access a failed link has lost
(R229). -/
inductive Look (α : Type) where
  | ok (a : α) (s : State)
  | trap (cause : Nat) (addr : Word) (s : State)
  | park (reason level : Nat) (addr : Word) (s : State)
  | wait (k : HoldKind) (s : State)
  | host (st : Option Nat) (s : State)
  | gone (s : State)

def Look.bind {α β : Type} (x : Look α) (f : α → State → Look β) : Look β :=
  match x with
  | .ok a s => f a s
  | .trap c a s => .trap c a s
  | .park r l a s => .park r l a s
  | .wait k s => .wait k s
  | .host st s => .host st s
  | .gone s => .gone s

/-- The access waits at the bank of `pa`. -/
def waitBank {α : Type} (w : Who) (pa : Nat) (s : State) : Look α := .wait (.bank (w.came pa s.tick) pa) s

/-- The current instruction is held until the host answers the request that it or its stream has sent (R394). -/
def askHost (st : Option Nat) (s : State) : Out := holdAccess (.hostReply st) s

/-- The current instruction goes on with the result of an access, traps, parks, or is held (R101, R216). -/
def Look.out {α : Type} (acc : Acc) (x : Look α) (f : α → State → Out) : Out :=
  match x with
  | .ok a s => f a s
  | .trap c a s => Sys2Proof.Machine.trap c a s
  | .park r l a s => parkAt r l acc.code a s
  | .wait k s => holdAccess k s
  | .host st s => askHost st s
  | .gone s => .next s

/-- A trap of the access records another address (R422). -/
def Look.trapAt {α : Type} (addr : Word) : Look α → Look α
  | .trap c _ s => .trap c addr s
  | x => x

/-- Each step of `f` over a list, in order. -/
def Look.each {α β : Type} (f : α → State → Look β) : List α → State → Look (List β)
  | [], s => .ok [] s
  | a :: as, s => (f a s).bind fun b s => (Look.each f as s).bind fun bs s => .ok (b :: bs) s

/-! ## The walk (R92 to R95) -/

/-- What a walk comes to: a leaf with its entry's address and level, a fault (R102) with an unreadable entry, a wait at the
bank of an entry (R93), an entry in a shadow row that the access may not touch (R89), or a read that a failed link has lost, its
request or its reply (R390). -/
inductive Walk where
  | leaf (e : Word) (entry level : Nat)
  | fault (reason level : Nat) (bad : Option Nat)
  | busy (pa : Nat)
  | denied
  | lost (never : Bool)
deriving DecidableEq, Repr, Inhabited

/-- Bytes that a leaf of a level maps (R92). -/
def leafSize : Nat → Nat
  | 0 => 2 ^ 16
  | 1 => 2 ^ 21
  | _ => 2 ^ 30

/-- The index of a level's entry (R92). -/
def walkIndex (va : Word) : Nat → Nat
  | 0 => fld va 16 5
  | 1 => fld va 21 9
  | 2 => fld va 30 9
  | 3 => fld va 39 9
  | _ => fld va 48 9

/-- An entry with v = 1 and leaf = 1 is malformed at this level (R95). -/
def leafMalformed (e : Word) (level : Nat) : Bool :=
  3 ≤ level || (level == 1 && fld e 16 5 != 0) || (level == 2 && fld e 16 14 != 0) || (bit e 3 && !bit e 2)

/-- One level of the walk; `down` continues at the next table. -/
def walkEntry (s : State) (w : Who) (va : Word) (level table : Nat) (down : Nat → Walk) : Walk :=
  let pa := table + 8 * walkIndex va level
  if s.isShadow pa && w.mode != .monitor then .denied
  else if (s.requestCut (w.cluster * 256) pa).isSome then .lost true
  else if (s.replyCut (w.cluster * 256) pa).isSome then .lost false
  else if !s.bankFree pa (w.came pa s.tick) then .busy pa
  else if s.badCodewords.contains (pa / 1024) then .fault 3 level (some pa)
  else
    let e := s.rd8 pa
    if !bit e 0 then .fault 0 level none
    else if bit e 1 then if leafMalformed e level then .fault 1 level none else .leaf e pa level
    else
      let next := fld e 12 40 * 4096
      if !isVault next then .fault 1 level none else down next

def walk (s : State) (w : Who) (va : Word) : Nat → Nat → Walk
  | 0, table => walkEntry s w va 0 table fun _ => .fault 1 0 none
  | n + 1, table => walkEntry s w va (n + 1) table fun next => walk s w va n next

def tableRoot (ptroot : Word) : Nat := fld ptroot 12 40 * 4096

/-- The walk from PTROOT (R92, R95). -/
def walkRoot (s : State) (w : Who) (va : Word) : Walk :=
  if !isVault (tableRoot w.ptroot) then .fault 1 4 none else walk s w va 4 (tableRoot w.ptroot)

/-- The entries that a walk reads, from a table on. -/
def walkPath (s : State) (va : Word) : Nat → Nat → List Nat
  | 0, table => [table + 8 * walkIndex va 0]
  | n + 1, table =>
    let pa := table + 8 * walkIndex va (n + 1)
    let e := s.rd8 pa
    let next := fld e 12 40 * 4096
    pa :: (if bit e 0 && !bit e 1 && isVault next && !s.badCodewords.contains (pa / 1024) then walkPath s va n next else [])

/-- What the reads of a completed walk leave at the vaults: each is an ordinary access (R93). -/
def State.walked (s : State) (w : Who) (va : Word) : State :=
  if isVault (tableRoot w.ptroot) then
    (walkPath s va 4 (tableRoot w.ptroot)).foldl (fun s pa => (if s.eccBad pa 8 then s.countBad pa else s).touch pa 8) s
  else s

/-! ## Translation caches (R98) and access counters (R111) -/

/-- A cached translation that an access of core `c` may use. -/
def TlbEnt.fits (t : TlbEnt) (w : Who) (va : Word) : Bool :=
  t.part == w.part && (t.space == w.pspace || bit t.leaf 6)
    && (t.core == none || (w.unit.isNone && t.core == some (coreOf w.h)))
    && decide (t.base.toNat ≤ va.toNat) && decide (va.toNat < t.base.toNat + leafSize t.level)

/-- Adds a translation to the core's cache and the cluster's. -/
def State.cacheFill (s : State) (w : Who) (va e : Word) (entry level : Nat) : State :=
  let base := w64 (va.toNat / leafSize level * leafSize level)
  let t : TlbEnt := { part := w.part, space := w.pspace, base := base, level := level, leaf := e, entry := entry }
  let new := if w.unit.isSome then [t] else [{ t with core := some (coreOf w.h) }, t]
  s.modCluster w.cluster fun x =>
    { x with tlb :=
      new ++ x.tlb.filter fun u =>
        !(u.part == w.part && u.space == w.pspace && u.base == base && u.level == level
          && (u.core == none || (w.unit.isNone && u.core == some (coreOf w.h)))) }

/-- What the walk of `va` answers to the access that it is for (R93, R101, R229). -/
def State.walkLook (s : State) (w : Who) (va : Word) : Look (Word × Nat × Nat) :=
  match walkRoot s w va with
  | .busy pa => waitBank w pa s
  | .denied => .trap Cause.permission va s
  | .lost never => if w.stops then .gone (s.lose w.h va (s.hart w.h).pc never) else .trap Cause.permission va s
  | .fault r l none => .park r l va (s.walked w va)
  | .fault r l (some pa) => .park r l va ((s.walked w va).machineCheck 2 (pa / 1024 % 8) w.h (w64 (pa / 8192 * 8192)) va)
  | .leaf e entry level =>
    let s := s.walked w va
    if bit e 11 then .park 2 level va s else .ok (e, entry, level) (s.cacheFill w va e entry level)

/-- The leaf that translates `va` for `w`, with its entry's address and level. A cached translation is used while it is
still held, which is open, whatever the tables say by then (R98). -/
def translate (w : Who) (va : Word) (s : State) : Look (Word × Nat × Nat) :=
  let (n, s) := s.draw
  match (s.cluster w.cluster).tlb.find? (·.fits w va) with
  | none => s.walkLook w va
  | some t => if Config.cacheHit n then .ok (t.leaf, t.entry, t.level) s else s.walkLook w va

/-- The leaf update of R111 with its notification, once its bank is free. Through a stale cached translation it rewrites
acount and mq of whatever the entry holds by then (DESIGN CHOICE: the spec does not say; log 35). -/
def State.countUpdate (s : State) (w : Who) (base : Word) (entry level : Nat) : State :=
  match w.part with
  | none => s
  | some p =>
    let e := s.rd8 entry
    let q := s.part p
    let thr := fld q.ptcfg 4 4
    let ac := min (fld e 12 4 + 1) 15
    let put (n : Nat) (mq : Bool) (s : State) : State :=
      s.devWriteFor w.h entry (toBytes 8 ((e &&& ~~~((0xF400 : Word))) ||| w64 (n * 2 ^ 12 + b2n mq * 2 ^ 10)).toNat)
    if bit e 10 then put (if 0 < thr && thr ≤ ac then 15 else ac) true s
    else if 0 < thr && thr ≤ ac then
      let lg := fld q.ptaq 0 4
      if lg != 0 && (q.aqtail - q.aqhead).toNat < 2 ^ lg then
        let a := fld q.ptaq 12 40 * 4096 + 16 * (q.aqtail.toNat % 2 ^ lg)
        let s := s.devWriteFor w.h a (bytesOf [base, w64 (w.pspace.toNat * 2 ^ 48 + level * 2 ^ 46)])
        put ac true (s.modPart p fun x => { x with aqtail := x.aqtail + 1 })
      else put thr false (s.modPart p fun x => { x with ptalost := satInc x.ptalost })
    else put ac false s

/-- The base of the leaf that maps `va`. -/
def leafBase (va : Word) (level : Nat) : Word := w64 (va.toNat / leafSize level * leafSize level)
/-- The cluster cache's translation of a leaf. -/
def TlbEnt.counts (t : TlbEnt) (w : Who) (va : Word) (entry level : Nat) : Bool :=
  t.core == none && t.part == w.part && t.entry == entry && t.base == leafBase va level && t.level == level
/-- The translation that keeps the sub-count of an access: that of its own space, or a global one. -/
def State.counter (s : State) (w : Who) (va : Word) (entry level : Nat) : Option TlbEnt :=
  let ts := (s.cluster w.cluster).tlb.filter (·.counts w va entry level)
  match ts.find? (·.space == w.pspace) with
  | some t => some t
  | none => ts.find? fun t => bit t.leaf 6
/-- The sub-count after one more access, and whether it makes a leaf update: one each 2^scale accesses (R111). What the cluster
cache does not hold begins at 0 each time. Of a hart of no partition no PTCFG gives a scale or a queue: scale 0, and no update
(DESIGN CHOICE; log 35). -/
def State.countSub (s : State) (w : Who) (va : Word) (entry level : Nat) : Nat × Bool :=
  let scale := match w.part with | some p => fld (s.part p).ptcfg 8 4 | none => 0
  let sub := (match s.counter w va entry level with | some t => t.sub | none => 0) + 1
  (sub, 2 ^ scale ≤ sub)

/-- The translation `t` of a cluster's cache now keeps the sub-count `n`. -/
def State.keepCount (s : State) (g : Nat) (t : Option TlbEnt) (n : Nat) : State :=
  match t with
  | none => s
  | some t => s.modCluster g fun x => { x with tlb := x.tlb.map fun u => if u == t then { u with sub := n } else u }

/-- A counted access (R111). A sub-count is kept with a translation that the cluster cache holds; none is put there for it
(R106). -/
def State.countAccess (s : State) (w : Who) (va e : Word) (entry level : Nat) : State :=
  if !bit e 9 then s
  else
    let (sub, full) := s.countSub w va entry level
    let s := s.keepCount w.cluster (s.counter w va entry level) (if full then 0 else sub)
    if full then s.countUpdate w (leafBase va level) entry level else s
/-- The leaf update of a counted access has to wait at its bank (R78, R93). -/
def State.countWaits (s : State) (w : Who) (va e : Word) (entry level : Nat) : Bool :=
  bit e 9 && w.part.isSome && (s.countSub w va entry level).2 && !s.bankFree entry (w.came entry s.tick)

/-! ## The check of an access -/

/-- VA classes (R9): canonical G, coordinate space (absolute bits, R13), or none. -/
inductive VaClass where
  | g
  | coord (bits : Nat)
  | bad
deriving DecidableEq, Repr, Inhabited

def canonical (va : Word) : Bool := fld va 56 8 == 0 || fld va 56 8 == 0xFF

/-- Bits [29:0] of the absolute form of a relative address issued by hart `h` (R13). -/
def resolveRel (h : Nat) (va : Word) : Nat :=
  let c := coreOf h
  let cl := c / 64 % 16
  (c / 1024 + fld va 27 3) % 8 * 2 ^ 27 + (cl % 4 + fld va 25 2) % 4 * 2 ^ 25
    + (cl / 4 + fld va 23 2) % 4 * 2 ^ 23 + (c % 64 + fld va 17 6) % 64 * 2 ^ 17 + fld va 0 17

def classify (h : Nat) (va : Word) : VaClass :=
  let top := fld va 56 8
  if top == 0xA0 || top == 0xA1 then
    if fld va 30 26 != 0 then .bad
    else if top == 0xA0 then .coord (fld va 0 30) else .coord (resolveRel h va)
  else if canonical va then .g else .bad

/-- Region 0x4 offsets that only kernel mode of one partition and the monitor may access, or only the monitor
(R91, R103, R332, R350, R365, R375, R378, R386, R391, R396, R401, R405, R409). -/
inductive RegOwner where
  | part (p : Nat)
  | cluster (g : Nat)
  | monitor
  | any
deriving DecidableEq, Repr, Inhabited

/-- The blocks of region 0x4 and who may access them. -/
def regOwner (off : Nat) : RegOwner :=
  let lo := off % 2 ^ 32
  let mon (b : Bool) : RegOwner := if b then .monitor else .any
  match off / 2 ^ 32 with
  | 0x0001 => if lo < 0x80_0000 then .cluster (lo / 0x10_0000 * 16 + lo / 0x1_0000 % 16) else .any
  | 0x0002 | 0x0003 | 0x0004 => if lo < 0x8000 then .part (lo / 0x100) else .any
  | 0x0005 => if lo < 0x8000 then .cluster (lo / 0x100) else .any
  | 0x0006 | 0x000B => mon (decide (lo < 0x8000))
  | 0x0007 => mon (decide (lo < 0x20))
  | 0x0008 => mon (decide (lo < 0x80))
  | 0x0009 => mon (decide (lo < 0x2000) && decide (lo % 0x1000 < 0x400))
  | 0x000A => if lo < 0x8_0000 then .part (lo / 0x1000) else .any
  | 0x000C => mon (decide (lo < 0x48))
  | 0x000D | 0x000E => mon (decide (lo < 8))
  | _ => .any

def State.regAllowed (s : State) (w : Who) (off : Nat) : Bool :=
  match w.mode with
  | .monitor => true
  | .user => false
  | .kernel =>
    match regOwner off with
    | .part p => w.part == some p
    | .cluster g => s.inSet w.part g
    | .monitor => false
    | .any => true

/-- The rights of R99 and the other causes of PERMISSION for a leaf (R25, R89, R96). A hart of no partition has no key range, and
an encrypted leaf is refused to it (DESIGN CHOICE: R96 speaks of partitions; log 7). Only the reduced service reaches the boot
SRAM without so (R411). -/
def State.permitted (s : State) (w : Who) (acc : Acc) (e : Word) (pa : Nat) : Bool :=
  let user := w.mode == .user
  (!acc.reads || bit e 2) && (!acc.writes || bit e 3)
    && (acc != .fetch || (bit e 4 && (user || !bit e 5))) && (!user || bit e 5)
    && (!isReg pa || (!user && (bit e 7 || (isBoot pa && !s.boot.full)) && s.regAllowed w (pa % 2 ^ 48)))
    && (!isVault pa
        || ((!bit e 8 || (match w.part with
              | none => false
              | some p => let q := s.part p; let k := fld e 52 12
                          q.live && q.kbase ≤ k && k < q.kbase + q.kcount && Tab.get 0 s.keys k != 0))
            && (!s.isShadow pa || w.mode == .monitor)))

/-- The leaf that the reduced service applies to monitor accesses (R411). -/
def reducedLeaf (pa : Nat) : Word :=
  w64 (0x1F + b2n ((isReg pa || isHost pa) && !isBoot pa) * 2 ^ 7)

/-- The physical checks that follow translation (R23, R25, R99, R100). Under the reduced service the boot SRAM takes loads and
stores of every width, and fetches (R411); atomics it never takes (R236). -/
def State.physical (s : State) (w : Who) (acc : Acc) (va e : Word) (pa size : Nat) : Look Place :=
  if !(isVault pa || isReg pa || isHost pa) then .trap Cause.space va s
  else if isReg pa && (acc == .atomic || (!(isBoot pa && !s.boot.full) && (size != 8 || acc == .fetch))) then
    .trap Cause.misaligned va s
  else if !s.permitted w acc e pa then .trap Cause.permission va s
  else .ok { key := pa, enc := if bit e 8 && isVault pa then some (e.extractLsb' 52 12) else none, so := bit e 7 } s

/-- The check of one access of `size` bytes at `va`, aligned to `align`, in the order of R19 and R100. Under the reduced service a
hart below monitor mode has no G address: its walk would start in region 0x0 (R411). -/
def access (w : Who) (acc : Acc) (va : Word) (size align : Nat) (s : State) : Look Place :=
  match classify w.h va with
  | .bad => .trap Cause.space va s
  | .coord x =>
    if va.toNat % align != 0 then .trap Cause.misaligned va s
    else if spadSize < x % 2 ^ 17 + size then .trap Cause.straddle va s
    else if acc == .fetch || acc == .rowact || !s.inSet w.part (coreOfBits x / 64) then .trap Cause.permission va s
    else .ok { key := Config.spadKey + x } s
  | .g =>
    if va.toNat % align != 0 then .trap Cause.misaligned va s
    else if !s.boot.full then
      let pa := fld va 0 52
      if w.mode != .monitor || isVault pa then .trap Cause.permission va s else s.physical w acc va (reducedLeaf pa) pa size
    else
      (translate w va s).bind fun (e, entry, level) s =>
        let pa := fld e 16 36 * 65536 + va.toNat % leafSize level
        (s.physical w acc va e pa size).bind fun p s =>
          if s.countWaits w va e entry level then waitBank w entry s else .ok p (s.countAccess w va e entry level)

/-! ## The accesses of an instruction, each made once (R228, R259) -/

/-- The current instruction of hart `h` has done `d`. -/
def State.did (s : State) (h : Nat) (d : Done) : State :=
  s.modHart h fun x => { x with done := x.done ++ [d], todo := x.todo.drop 1 }
/-- The instruction that hart `h` is held at goes on: what it has done of its accesses is gone by again. -/
def State.replay (s : State) (h : Nat) : State := s.modHart h fun x => { x with done := [], todo := x.done }
/-- An access of the hart's current instruction is checked, unless it has been (R259). -/
def checked (h : Nat) (acc : Acc) (va : Word) (size align : Nat) (s : State) : Look Place :=
  match (s.hart h).todo with
  | .place p a :: _ => .ok p (s.did h (.place p a))
  | _ => (access (s.who h) acc va size align s).bind fun p s => .ok p (s.did h (.place p va))
/-- A read of the current instruction, unless it has been made; one that met an uncorrectable word is not made again either. -/
def readOnce (h : Nat) (va : Word) (act : State → Look (List Byte)) (s : State) : Look (List Byte) :=
  match (s.hart h).todo with
  | .read ok bs :: _ =>
    let s := s.did h (.read ok bs)
    if ok then .ok bs s else .trap Cause.ecc va s
  | _ =>
    match act s with
    | .ok bs s => .ok bs (s.did h (.read true bs))
    | .trap c a s => .trap c a (if c == Cause.ecc then s.did h (.read false []) else s)
    | x => x

end Sys2Proof.Machine
end

