-- ==== Sys2Proof/Machine/Operands.lean ====
section
/-! DEFINITION. Operand forms: the third operand and the two-address form (R173, R192), addresses (R225), register pairs
(R226), and the ways a result is written (R179, R180). -/

namespace Sys2Proof.Machine

/-- x and y of a page-0 operation: without a third operand x is D and y is A (R173, R192). -/
def State.xy (s : State) (o : Alu) : Word × Word :=
  match o.y with
  | .none => (s.rd o.d, s.rd o.a)
  | .reg b => (s.rd o.a, s.rd b)
  | .imm v => (s.rd o.a, v)

/-- A fixed-latency result of two operands. -/
def aluFixed (f : Word → Word → Word) (o : Alu) (s : State) : Out :=
  finish (s.fixed o.d (f (s.xy o).1 (s.xy o).2))
/-- A variable-latency result of two operands. -/
def aluDefer (f : Word → Word → Word) (o : Alu) (s : State) : Out :=
  finish (s.deferReg o.d (f (s.xy o).1 (s.xy o).2))
/-- A fixed-latency result of A alone. -/
def unFixed (f : Word → Word) (o : RR) (s : State) : Out := finish (s.fixed o.d (f (s.rd o.a)))

/-- A register or the immediate that stands for it. -/
def State.rv (s : State) : RegOrImm → Word
  | .reg a => s.rd a
  | .imm v => v

/-- The offset of a memory operand: B, or the immediate, or 0 (R225). -/
def State.off (s : State) : Src3 → Word
  | .none => 0
  | .reg b => s.rd b
  | .imm v => v
def State.ea (s : State) (a : RegNo) (off : Src3) : Word := s.rd a + s.off off

/-- The value of a pair: its register in the low word, the next one in the high word (R226). -/
def State.pair (s : State) (d : RegNo) : Nat := (s.rd d).toNat + 2 ^ 64 * (s.rd (d + 1)).toNat
/-- The deferred writes of a pair. -/
def pairPend (d : RegNo) (v : Nat) : List Pend := [.scalar d.toNat (w64 v), .scalar (d.toNat + 1) (w64 (v / 2 ^ 64))]

/-- A number sign-extended from `n` bytes. -/
def sextBytes (n v : Nat) : Word :=
  if v < 2 ^ (8 * n - 1) then w64 v else w64 (2 ^ 64 - 2 ^ (8 * n) + v)

end Sys2Proof.Machine
end

