-- ==== Sys2Proof/WellFormed.lean ====
section
/-! DEFINITION. Which instructions have an encoding: the decode causes of rank 5 of R169 and the room that R166, R174 and
R175 leave for an immediate, stated on the decoded instruction. Steps of units have none. -/

namespace Sys2Proof

namespace WF

/-- A scalar register number that is not reserved (R170). -/
def scalar (r : RegNo) : Bool := r.toNat < 76
/-- A vector-class register number that is not reserved (R38, R170). -/
def vector (r : RegNo) : Bool := r.toNat < 40
/-- The lower register of a pair (R226). -/
def pair (r : RegNo) : Bool := r.toNat < 76 && r.toNat % 2 == 0

/-- The value `v` is a signed number of `w` bits. -/
def fitsSigned (w : Nat) (v : Word) : Bool :=
  v.toNat < 2 ^ (w - 1) || (2 ^ 64 - 2 ^ (w - 1) ≤ v.toNat)
/-- The value `v` is an unsigned number of `w` bits. -/
def fitsUnsigned (w : Nat) (v : Word) : Bool := v.toNat < 2 ^ w

/-- One PR word is needed: a high register bit or a predicate select (R166). -/
def needsPr (d a : RegNo) (m : BitVec 3) : Bool := 16 ≤ d.toNat || 16 ≤ a.toNat || m != 0
def prCount (d a : RegNo) (m : BitVec 3) : Nat := if needsPr d a m then 1 else 0

/-- An immediate of at most `n` PI words. -/
def immS (n : Nat) (v : Word) : Bool := fitsSigned (9 * n) v
def immU (n : Nat) (v : Word) : Bool := fitsUnsigned (9 * n) v

/-- A third operand with `n` lead words already used: scalar B, or a signed or unsigned immediate. -/
def src3 (n : Nat) (uns : Bool) (regOk : RegNo → Bool) : Src3 → Bool
  | .none => true
  | .reg b => regOk b
  | .imm v => if uns then immU (4 - n) v else immS (4 - n) v

/-- An optional offset that 0 leaves out. -/
def offset (n : Nat) (v : Word) : Bool := v == 0 || immS (4 - n) v

/-- Order and scope of an access (R118): a plain order has scope 0, scopes 6 and 7 are reserved. -/
def annot (ord : OrderCode) (sc : ScopeCode) : Bool := sc.toNat < 6 && (ord != 0 || sc == 0)
def loadOrd (ord : OrderCode) (sc : ScopeCode) : Bool := annot ord sc && (ord == 0 || ord == 1)
def storeOrd (ord : OrderCode) (sc : ScopeCode) : Bool := annot ord sc && (ord == 0 || ord == 2)
/-- The explicit PG word of a page-0 access with an annotation. -/
def pgCount (ord : OrderCode) : Nat := if ord == 0 then 0 else 1

def alu (uns : Bool) (o : Alu) : Bool :=
  scalar o.d && scalar o.a && src3 (prCount o.d o.a 0) uns scalar o.y
def rr (o : RR) : Bool := scalar o.d && scalar o.a

def mem (store wide : Bool) (o : MemOp) : Bool :=
  (if wide then pair o.d else scalar o.d) && scalar o.a
    && (if store then storeOrd o.ord o.sc else loadOrd o.ord o.sc)
    && src3 (prCount o.d o.a 0 + pgCount o.ord) false scalar o.off

def bit (store : Bool) (o : BitOp) : Bool :=
  scalar o.d && (if store then storeOrd o.ord o.sc else loadOrd o.ord o.sc)
    && (match o.w with | .reg a => scalar a | .imm v => v.toNat < 64)

/-- A displacement or value of 9n + 4 bits (R175). -/
def wide4 (d : RegNo) (v : Word) : Bool := fitsSigned (9 * (4 - prCount d 0 0) + 4) v

def amo (o : AmoOp) : Bool :=
  scalar o.d && scalar o.a && annot o.ord o.sc
    && (match o.v with | none => true | some b => scalar b)
    && offset (1 + prCount o.d o.a 0 + (if o.v.isSome then 1 else 0)) o.off

/-- Types 0 to 7, 8 to 11, and both (R57). -/
def isInt (t : TypeCode) : Bool := t.toNat < 8
def isFloat (t : TypeCode) : Bool := 8 ≤ t.toNat && t.toNat < 12
def numeric (t : TypeCode) : Bool := t.toNat < 12
/-- The unsigned types n8 to n64. -/
def isUnsigned (t : TypeCode) : Bool := 4 ≤ t.toNat && t.toNat < 8
/-- Width in bits of a type (R57). -/
def width (t : TypeCode) : Nat :=
  match t.toNat with
  | 0 | 4 => 8
  | 1 | 5 | 8 | 9 => 16
  | 2 | 6 | 10 => 32
  | 3 | 7 | 11 => 64
  | 12 => 4
  | _ => 6

/-- A lane-wise page-3 operation: which types it takes, whether the variant bit is defined, whether it needs a third
operand (R246, R247). -/
def vop (tyOk : TypeCode → Bool) (varOk : TypeCode → Bool) (third : Bool) (o : VOp) : Bool :=
  tyOk o.t && (!o.var || varOk o.t) && vector o.d && vector o.a
    && (!third || o.y != .none) && src3 (1 + prCount o.d o.a o.m) (isUnsigned o.t) vector o.y
def vun (tyOk : TypeCode → Bool) (varOk : TypeCode → Bool) (dOk : RegNo → Bool) (o : VUn) : Bool :=
  tyOk o.t && (!o.var || varOk o.t) && dOk o.d && vector o.a
def no (_ : TypeCode) : Bool := false

/-- Source and destination of VCVT: lane ratio and part (R251). -/
def lanes (t : TypeCode) : Nat := 512 / width t
def cvtRatio (td ts : TypeCode) : Nat :=
  max (lanes ts) (lanes td) / min (lanes ts) (lanes td)

def vmem (store : Bool) (o : VMem) : Bool :=
  vector o.d && scalar o.a && (if store then storeOrd o.ord o.sc else loadOrd o.ord o.sc)
    && src3 (1 + prCount o.d o.a o.m) false scalar o.off
def vgat (store : Bool) (o : VGat) : Bool :=
  vector o.d && scalar o.a && vector o.b && (if store then storeOrd o.ord o.sc else loadOrd o.ord o.sc)

/-- A keyed map operation (R278). -/
def mapKey (out iter : Bool) (o : MapKey) : Bool :=
  scalar o.d && scalar o.a && scalar o.b && o.vf != 3 && (!iter || o.vf == 0)
    && (!o.k16 || (if iter then pair o.d && o.d != 0 else pair o.b))
    && (o.vf != 1 || (pair o.d && (!out || o.d != 0)))
    && offset (2 + prCount o.d o.a 0) o.off
def mapAddr (o : MapAddr) : Bool := scalar o.a && offset (1 + prCount 0 o.a 0) o.off

def regOrImmS (n : Nat) : RegOrImm → Bool
  | .reg a => scalar a
  | .imm v => immS (4 - n) v

end WF

/-- The instruction has an encoding that no decode cause of R169 refuses. -/
def Instr.wf : Instr → Bool
  | .ill => true
  | .mov o | .clz o | .ctz o | .popc o | .bswap o | .jr o => WF.rr o
  | .movi o => WF.scalar o.d && WF.wide4 o.d o.imm
  | .add o | .sub o | .and3 o | .or3 o | .xor3 o | .andn o | .shl o | .shr o | .sar o | .rol o | .mul o | .mulh o
  | .sdiv o | .rem o | .min o | .max o | .slt o | .seq o | .sel o | .sext o | .zext o | .bfx o | .bfi o | .crd o
  | .clmul o | .clmulh o => WF.alu false o
  | .mulhn o | .divn o | .remn o | .minn o | .maxn o | .sltn o => WF.alu true o
  | .self o => WF.scalar o.d && WF.scalar o.a
      && (match o.imm with | none => true | some v => WF.immS (4 - WF.prCount o.d o.a 0) v)
  | .ld1s o | .ld1n o | .ld2s o | .ld2n o | .ld4s o | .ld4n o | .ld8 o => WF.mem false false o
  | .ld16 o => WF.mem false true o
  | .st1 o | .st2 o | .st4 o | .st8 o => WF.mem true false o
  | .st16 o => WF.mem true true o
  | .ldbt o => WF.bit false o
  | .stbt o => WF.bit true o
  | .setbp o => WF.scalar o.d && WF.scalar o.a && WF.offset (WF.prCount o.d o.a 0) o.imm
  | .call o | .loopb o => WF.scalar o.d && WF.wide4 o.d o.disp
  | .jmp disp => WF.wide4 0 disp
  | .csrr o => WF.scalar o.d && o.csr != 0x035
  | .csrw o | .csrs o | .csrc o => WF.scalar o.d && o.csr != 0x024 && o.csr != 0x420
  | .cpgoRead d | .mbtabWrite _ d | .faultqHeadWrite _ d => WF.scalar d
  | .waitt a => WF.scalar a
  | .waitph o => WF.scalar o.d && WF.scalar o.a
  | .trap o => WF.scalar o.a
  | .bz d | .bnz d | .bn d | .bnn d | .bp d | .bnp d | .bbs d | .bbc d | .bmany d | .bmnone d | .bal d =>
      WF.fitsSigned 44 d
  | .nop | .hret | .yield | .eret | .ueret | .ebreak | .wfe | .syncf => true
  | .fenceFull sc | .fenceAcq sc | .fenceRel sc | .fenceEng sc => sc.toNat < 6
  | .amoadd o | .amoand o | .amoor o | .amoxor o | .amomin o | .amomax o | .amominn o | .amomaxn o | .amoswap o
  | .aaddz o => WF.amo o
  | .cas o => WF.scalar o.d && o.d != 0 && WF.scalar o.a && WF.scalar o.b && WF.annot o.ord o.sc
  | .casq o => WF.pair o.d && o.d != 0 && WF.scalar o.a && WF.pair o.b && WF.annot o.ord o.sc
  | .pref o => WF.scalar o.a && WF.offset (1 + WF.prCount 0 o.a 0) o.off
  | .ringcfg _ a => WF.scalar a
  | .ringadv _ n | .ringpop _ n => 1 ≤ n.toNat && n.toNat ≤ 64
  | .ringq _ => true
  | .send o | .sendw o => WF.rr o
  | .bar _ _ => true
  | .ared o => WF.scalar o.a && WF.numeric o.t && !(o.op == 3 && WF.isFloat o.t)
  | .qadd v => WF.regOrImmS (1 + (match v with | .reg a => WF.prCount 0 a 0 | .imm _ => 0)) v
  | .qwait _ => true
  | .halt => true
  | .spawn o => WF.scalar o.d && WF.scalar o.a && WF.scalar o.b
  | .launch o => WF.scalar o.d && WF.scalar o.a && (match o.b with | none => true | some b => WF.scalar b)
  | .cpwait a | .cpabort a => WF.scalar a
  | .cpq o => WF.rr o
  | .vadd o | .vsub o | .vmul o => WF.vop WF.numeric WF.isInt false o
  | .vfma o | .vfms o => WF.vop WF.numeric WF.isInt true o
  | .vdiv o | .vmin o | .vmax o | .vand o | .vor o | .vxor o | .vsel o | .vperm o => WF.vop WF.numeric WF.no false o
  | .vshl o | .vshr o | .vsar o => WF.vop WF.isInt WF.no false o
  | .vclmul o => WF.vop (· == 7) (fun _ => true) false o
  | .vsqrt o => WF.vun WF.isFloat WF.no WF.vector o
  | .vabs o | .vneg o => WF.vun WF.numeric WF.isInt WF.vector o
  | .vpopc o => WF.vun WF.isInt WF.no WF.vector o
  | .vcompr o | .vexpd o => WF.vun WF.numeric WF.no WF.vector o
  | .vredadd o | .vredmin o | .vredmax o => WF.vun WF.numeric WF.no WF.scalar o
  | .vprune o => WF.vun WF.numeric WF.numeric WF.vector o
  | .vcmpeq o | .vcmplt o | .vcmple o => WF.numeric o.t && WF.vector o.a
      && WF.src3 (1 + WF.prCount 0 o.a o.m) (WF.isUnsigned o.t) WF.vector o.y
  | .vcvt o => WF.numeric o.t && WF.numeric o.src && WF.vector o.d && WF.vector o.a
      && o.part.toNat < WF.cvtRatio o.t o.src && !(o.rz && WF.isInt o.t && WF.isInt o.src)
  | .vpsum o => WF.numeric o.t && (!o.var || WF.isInt o.t) && WF.vector o.d && WF.vector o.a
      && WF.src3 (1 + WF.prCount o.d o.a o.m) false WF.scalar o.y
  | .vbcast o => WF.numeric o.t && WF.vector o.d
      && (match o.v with
          | .reg a => WF.scalar a
          | .imm v => WF.immS (3 - WF.prCount o.d 0 o.m) v)
  | .vextr o => WF.numeric o.t && !o.var && o.m == 0 && WF.scalar o.d && WF.vector o.a
      && WF.src3 (1 + WF.prCount o.d o.a 0) false WF.scalar o.y
  | .vins o => WF.numeric o.t && !o.var && o.m == 0 && WF.vector o.d && WF.scalar o.a
      && WF.src3 (1 + WF.prCount o.d o.a 0) false WF.scalar o.y
  | .mkand o | .mkor o | .mkxor o => WF.numeric o.t
  | .mknot o => WF.numeric o.t && o.b.isNone
  | .mkpopc o | .mkfirst o | .mkget o => WF.numeric o.t && WF.scalar o.d
  | .mkset o => WF.numeric o.t && WF.scalar o.a
  | .vld o | .vlds o => WF.vmem false o
  | .vst o | .vsts o => WF.vmem true o
  | .vgath o => WF.vgat false o
  | .vscat o => WF.vgat true o
  | .vldbt o => WF.isInt o.t && WF.vector o.d && 1 ≤ o.w.toNat && o.w.toNat ≤ WF.width o.t
  | .vtopk o => WF.numeric o.t && o.d.toNat < 32 && o.d.toNat % 2 == 0 && WF.vector o.a
      && 1 ≤ o.k.toNat && o.k.toNat ≤ Nat.min 16 (WF.lanes o.t)
  | .vcbexp o => (o.t == 12 || o.t == 13) && WF.vector o.d && WF.vector o.a && WF.vector o.b
      && (o.t == 12 || o.b.toNat % 2 == 0) && o.j.toNat % 32 == 0
      && o.j.toNat ≤ (if o.t == 12 then 96 else 64)
  | .vrng _ d => WF.vector d
  | .vclaim _ | .vgive _ _ | .vtake => true
  | .sbind o => WF.scalar o.a && WF.offset (1 + WF.prCount 0 o.a 0) o.off
  | .sunbind _ => true
  | .mprobe o | .mrem o => WF.mapKey true false o
  | .mins o | .mups o => WF.mapKey false false o
  | .miter o => WF.mapKey true true o
  | .minit o | .mgrow o => WF.mapAddr o
  | .mstat d o => WF.scalar d && WF.scalar o.a && WF.offset (1 + WF.prCount d o.a 0) o.off
  | .mstep o => WF.scalar o.a && (match o.b with | none => true | some b => WF.scalar b)
      && WF.offset (1 + WF.prCount 0 o.a 0 + (if o.b.isSome then 1 else 0)) o.off
  | .mxlease _ n => 1 ≤ n.toNat && n.toNat ≤ 64
  | .mxfree b => b != 0
  | .mxzero _ => true
  | .mxmul o => WF.scalar o.a
  | .mxmulr o => WF.scalar o.a
  | .mxst o => WF.scalar o.a && WF.scalar o.b
  | .mxldc o => WF.scalar o.a && WF.scalar o.b && !o.bf16
  | .mxlset d v => WF.scalar d && d != 0
      && (match v with | .reg a => WF.scalar a | .imm w => WF.immU (3 - WF.prCount d 0 0) w)
  | .rowact o => WF.scalar o.d && WF.scalar o.a && WF.offset (1 + WF.prCount o.d o.a 0) o.off
  | .rowtake _ | .rowclose _ => true
  | .rowq d _ => WF.scalar d && d != 0
  | .tinvAddr sc a | .tinvSpace sc a | .tinvAddrall sc a | .tinvAll sc a => sc.toNat < 6 && WF.scalar a
  | .keyld o | .ctxsave o | .ctxload o | .evict o | .resumeXfer o | .migr _ o | .migrForce _ o | .split o => WF.rr o
  | .keyldClr d | .evictDrop d | .resume d => WF.scalar d
  | .waittExpiry | .quiescenceCollection | .octetGrant | .streamFetch | .streamWrite | .mapHomeExecution
  | .arrayCommand | .activationSense | .rowReady | .rowExpiry | .latchValid | .bankRelease | .prechargeEnd
  | .refreshDue | .refreshBlackoutEnd | .vaultAccess | .scratchpadGrant | .remoteAccess | .storePerform
  | .copyChunk | .promiseExpiry | .messageAdmit | .spillwayMove | .eventMessage | .dispatch | .activeGather
  | .activeScatter | .hostQueueWrite | .hqptrHeadWrite | .launchRecord | .launchPlace | .launchRetire | .lqkick
  | .launchSlotDecide | .launchSlotReread | .lqcfgEnable | .hqcfgEnable | .retentionExpiry | .ptsplitPush
  | .ptsplitReplace | .partitionCreate | .partitionDestroy | .swapOut | .swapOutSave | .swapIn | .mrExtend
  | .registerWrite | .linkReplay | .linkRetrain | .linkDown | .escapeMode | .hostWrite | .hostRead
  | .hostUnsupported | .hostRequestTimeout | .powerManagerEval | .temperatureThreshold | .packageReset
  | .dramTrainingDone | .getreport | .setlc | .status | .mwaitExpiry | .successfulRetrain | .laneTraining
  | .hostCompletion | .clusterSetWrite => false

end Sys2Proof
end

