-- ==== Sys2Proof/Machine/Flags.lean ====
section
/-! DEFINITION. The element types, the lanes of a vector register, floating-point arithmetic on bit patterns with one
rounding, and every flag computation (spec/03 R57 to R62, spec/12 R248 to R251). A flag set is FFLAGS' five bits. -/

namespace Sys2Proof.Machine

/-! ## Lanes (R57, R244) -/

/-- Lanes of a type: 512 / w. -/
abbrev lanesOf (t : TypeCode) : Nat := WF.lanes t
/-- Lane `i` of a register of `w`-bit lanes. -/
def lane (w : Nat) (v : VWord) (i : Nat) : Nat := v.toNat / 2 ^ (w * i) % 2 ^ w
/-- A register from its lanes, lowest first; the bits above them are 0. -/
def packNat (w : Nat) : List Nat → Nat
  | [] => 0
  | x :: xs => x % 2 ^ w + 2 ^ w * packNat w xs
def packLanes (w : Nat) (xs : List Nat) : VWord := BitVec.ofNat 512 (packNat w xs)
def signed (t : TypeCode) : Bool := t.toNat < 4
/-- A lane of `w` bits as a two's-complement number. -/
def sInt (w x : Nat) : Int := if x < 2 ^ (w - 1) then x else (x : Int) - 2 ^ w
/-- The value of an integer lane. -/
def laneInt (t : TypeCode) (x : Nat) : Int := if signed t then sInt (WF.width t) x else x
/-- The bits of an integer modulo 2^w. -/
def wrapInt (w : Nat) (v : Int) : Nat := (v % 2 ^ w).toNat
/-- The range of an integer type (R248). -/
def tyMin (t : TypeCode) : Int := if signed t then -(2 ^ (WF.width t - 1) : Int) else 0
def tyMax (t : TypeCode) : Int := if signed t then 2 ^ (WF.width t - 1) - 1 else 2 ^ WF.width t - 1
def clampInt (t : TypeCode) (v : Int) : Int := if v < tyMin t then tyMin t else if tyMax t < v then tyMax t else v
/-- An integer result, wrapped or saturated (R248). -/
def intResult (t : TypeCode) (sat : Bool) (v : Int) : Nat :=
  wrapInt (WF.width t) (if sat then clampInt t v else v)

/-! ## Flags (R61) -/

abbrev Flags := BitVec 5
namespace Flag
abbrev nv : Flags := 16
abbrev dz : Flags := 8
abbrev overflow : Flags := 4
abbrev underflow : Flags := 2
abbrev nx : Flags := 1
end Flag

/-- A result with the flags it raises. -/
abbrev Flagged := Nat × Flags

/-! ## Formats (R58, R59) -/

/-- A binary format: exponent and fraction widths. -/
structure FFmt where
  eb : Nat
  fb : Nat
deriving DecidableEq, Repr, Inhabited

/-- The format of a floating-point type; f32 for the array (R298). -/
def fmtOf (t : TypeCode) : FFmt :=
  match t.toNat with
  | 8 => ⟨8, 7⟩
  | 9 => ⟨5, 10⟩
  | 10 => ⟨8, 23⟩
  | _ => ⟨11, 52⟩
abbrev FFmt.bf16 : FFmt := ⟨8, 7⟩
abbrev FFmt.f32 : FFmt := ⟨8, 23⟩
def FFmt.width (f : FFmt) : Nat := 1 + f.eb + f.fb
def FFmt.bias (f : FFmt) : Int := 2 ^ (f.eb - 1) - 1
/-- The exponent of the lowest bit of a subnormal. -/
def FFmt.emin (f : FFmt) : Int := 1 - f.bias - f.fb
/-- The bit pattern of +∞, of the sign, and the canonical NaN (R59). -/
def FFmt.inf (f : FFmt) : Nat := (2 ^ f.eb - 1) * 2 ^ f.fb
def FFmt.sign (f : FFmt) (neg : Bool) : Nat := if neg then 2 ^ (f.eb + f.fb) else 0
def FFmt.nan (f : FFmt) : Nat := f.inf + 2 ^ (f.fb - 1)

/-- A bit pattern read as a value: a finite value is (−1)^neg × m × 2^e. -/
inductive Fp where
  | nan (signalling : Bool)
  | inf (neg : Bool)
  | fin (neg : Bool) (m : Nat) (e : Int)
deriving DecidableEq, Repr, Inhabited

def FFmt.read (f : FFmt) (x : Nat) : Fp :=
  let neg := x.testBit (f.eb + f.fb)
  let ex := x / 2 ^ f.fb % 2 ^ f.eb
  let fr := x % 2 ^ f.fb
  if ex == 2 ^ f.eb - 1 then if fr == 0 then .inf neg else .nan (!fr.testBit (f.fb - 1))
  else if ex == 0 then .fin neg fr f.emin
  else .fin neg (2 ^ f.fb + fr) (f.emin + ex - 1)

def Fp.isNan : Fp → Bool
  | .nan _ => true
  | _ => false
def Fp.isSig : Fp → Bool
  | .nan s => s
  | _ => false

/-! ## Rounding (R60) -/

/-- m / 2^sh as an integer: to nearest with ties to even, or toward zero; and whether it is inexact. -/
def roundShift (rz : Bool) (m sh : Nat) : Nat × Bool :=
  let hi := m / 2 ^ sh
  let lo := m % 2 ^ sh
  let up := !rz && (2 ^ sh < 2 * lo || (2 * lo == 2 ^ sh && hi % 2 == 1))
  (if up then hi + 1 else hi, lo != 0)

/-- The exact value (−1)^neg × m × 2^e, m > 0, rounded once into a format. Tininess is detected after rounding. -/
def FFmt.round (f : FFmt) (rz neg : Bool) (m : Nat) (e : Int) : Flagged :=
  let top := e + Nat.log2 m
  let q := max (top - f.fb) f.emin
  let (mant, inexact) := if q ≤ e then (m * 2 ^ (e - q).toNat, false) else roundShift rz m (q - e).toNat
  let bits := (q - f.emin).toNat * 2 ^ f.fb + mant
  if f.inf ≤ bits then (f.sign neg + (if rz then f.inf - 1 else f.inf), Flag.overflow ||| Flag.nx)
  else
    let full := top - f.fb
    let carried := top == -f.bias && e < full && (roundShift rz m (full - e).toNat).1 == 2 ^ (f.fb + 1)
    let tiny := top < 1 - f.bias && !carried
    (f.sign neg + bits, if inexact then (if tiny then Flag.underflow ||| Flag.nx else Flag.nx) else 0)

/-- The same, where m may be 0 and gives a zero of sign `zneg`. -/
def FFmt.roundZ (f : FFmt) (rz neg zneg : Bool) (m : Nat) (e : Int) : Flagged :=
  if m == 0 then (f.sign zneg, 0) else f.round rz neg m e

/-- An integer times 2^e, rounded; a zero gets sign `zneg`. -/
def FFmt.roundInt (f : FFmt) (rz zneg : Bool) (v e : Int) : Flagged := f.roundZ rz (v < 0) zneg v.natAbs e

/-! ## Arithmetic (R249) -/

def nanOf (f : FFmt) (invalid : Bool) : Flagged := (f.nan, if invalid then Flag.nv else 0)
/-- (−1)^neg × m as an integer. -/
def sgn (neg : Bool) (m : Nat) : Int := if neg then -(m : Int) else m

/-- x + y of read values. -/
def Fp.add (f : FFmt) (x y : Fp) : Flagged :=
  match x, y with
  | .nan a, b => nanOf f (a || b.isSig)
  | _, .nan b => nanOf f b
  | .inf a, .inf b => if a == b then (f.sign a + f.inf, 0) else nanOf f true
  | .inf a, _ => (f.sign a + f.inf, 0)
  | _, .inf b => (f.sign b + f.inf, 0)
  | .fin a m e, .fin b n k =>
    let q := min e k
    f.roundInt false (a && b) (sgn a (m * 2 ^ (e - q).toNat) + sgn b (n * 2 ^ (k - q).toNat)) q

/-- The exact product of two read values; none where it is a NaN that is produced (0 × ∞). -/
def Fp.mulExact (x y : Fp) : Option Fp :=
  match x, y with
  | .nan a, b => some (.nan (a || b.isSig))
  | _, .nan b => some (.nan b)
  | .inf a, .inf b => some (.inf (a != b))
  | .inf a, .fin b n _ => if n == 0 then none else some (.inf (a != b))
  | .fin a m _, .inf b => if m == 0 then none else some (.inf (a != b))
  | .fin a m e, .fin b n k => some (.fin (a != b) (m * n) (e + k))

/-- A value rounded into a format. -/
def Fp.round (f : FFmt) (rz : Bool) : Fp → Flagged
  | .nan s => nanOf f s
  | .inf a => (f.sign a + f.inf, 0)
  | .fin a m e => f.roundZ rz a a m e

def Fp.neg : Fp → Fp
  | .nan s => .nan s
  | .inf a => .inf (!a)
  | .fin a m e => .fin (!a) m e

def fAdd (f : FFmt) (x y : Nat) : Flagged := (f.read x).add f (f.read y)
def fSub (f : FFmt) (x y : Nat) : Flagged := (f.read x).add f (f.read y).neg
def fMul (f : FFmt) (x y : Nat) : Flagged :=
  match (f.read x).mulExact (f.read y) with
  | none => nanOf f true
  | some p => p.round f false
/-- ±(x × y) + d with one rounding; 0 × ∞ raises nv unless the addend is a quiet NaN, which is no production from
non-NaN inputs (R61). -/
def fMulAdd (f : FFmt) (minus : Bool) (x y d : Nat) : Flagged :=
  match (f.read x).mulExact (f.read y) with
  | none => nanOf f (!(f.read d).isNan || (f.read d).isSig)
  | some p => (if minus then p.neg else p).add f (f.read d)

/-- The quotient with a sticky bit below it. -/
def quotSticky (m n extra : Nat) : Nat :=
  let q := m * 2 ^ extra / n
  2 * q + (if m * 2 ^ extra % n == 0 then 0 else 1)

def fDiv (f : FFmt) (x y : Nat) : Flagged :=
  match f.read x, f.read y with
  | .nan a, b => nanOf f (a || b.isSig)
  | _, .nan b => nanOf f b
  | .inf _, .inf _ => nanOf f true
  | .inf a, .fin b _ _ => (f.sign (a != b) + f.inf, 0)
  | .fin a _ _, .inf b => (f.sign (a != b), 0)
  | .fin a m e, .fin b n k =>
    if n == 0 then if m == 0 then nanOf f true else (f.sign (a != b) + f.inf, Flag.dz)
    else
      let extra := 2 * f.fb + 6
      f.roundZ false (a != b) (a != b) (quotSticky m n extra) (e - k - extra - 1)

/-- The integer square root of n, from bit `b` down. -/
def isqrtFrom (n : Nat) : Nat → Nat → Nat
  | 0, r => r
  | b + 1, r => isqrtFrom n b (if (r + 2 ^ b) * (r + 2 ^ b) ≤ n then r + 2 ^ b else r)

def fSqrt (f : FFmt) (x : Nat) : Flagged :=
  match f.read x with
  | .nan a => nanOf f a
  | .inf a => if a then nanOf f true else (f.inf, 0)
  | .fin a m e =>
    if m == 0 then (x, 0)
    else if a then nanOf f true
    else
      let odd := (e % 2).toNat
      let sh := 2 * (f.fb + 4) + odd
      let n := m * 2 ^ sh
      let r := isqrtFrom n (2 * f.fb + 8) 0
      f.round false false (2 * r + (if r * r == n then 0 else 1)) ((e - sh) / 2 - 1)

/-- A key that orders non-NaN patterns by value with −0 below +0, and one with −0 equal to +0. -/
def orderKey (f : FFmt) (x : Nat) : Int :=
  let mag : Int := (x % 2 ^ (f.eb + f.fb) : Nat)
  if x.testBit (f.eb + f.fb) then -mag - 1 else mag
def valueKey (f : FFmt) (x : Nat) : Int :=
  let mag : Int := (x % 2 ^ (f.eb + f.fb) : Nat)
  if x.testBit (f.eb + f.fb) then -mag else mag

def fPick (f : FFmt) (less : Bool) (x y : Nat) : Flagged :=
  let a := f.read x
  let b := f.read y
  if a.isNan || b.isNan then nanOf f (a.isSig || b.isSig)
  else if less then (if orderKey f y < orderKey f x then y else x, 0)
  else (if orderKey f x < orderKey f y then y else x, 0)
def fMin (f : FFmt) (x y : Nat) : Flagged := fPick f true x y
def fMax (f : FFmt) (x y : Nat) : Flagged := fPick f false x y
def fAbs (f : FFmt) (x : Nat) : Flagged :=
  if (f.read x).isNan then (f.nan, 0) else (x % 2 ^ (f.eb + f.fb), 0)
def fNeg (f : FFmt) (x : Nat) : Flagged :=
  if (f.read x).isNan then (f.nan, 0) else (x ^^^ 2 ^ (f.eb + f.fb), 0)

/-- Comparison of patterns (R250): a NaN makes it false; `quiet` raises nv on a signalling NaN only. -/
def fCmp (f : FFmt) (quiet : Bool) (rel : Int → Int → Bool) (x y : Nat) : Bool × Flags :=
  let a := f.read x
  let b := f.read y
  if a.isNan || b.isNan then
    (false, if a.isSig || b.isSig || !quiet then Flag.nv else 0)
  else (rel (valueKey f x) (valueKey f y), 0)

/-! ## Conversion (R251) -/

def cvtFloatFloat (src dst : FFmt) (rz : Bool) (x : Nat) : Flagged := (src.read x).round dst rz
def cvtIntFloat (dst : FFmt) (rz : Bool) (v : Int) : Flagged := dst.roundInt rz false v 0
/-- A float to an integer type: the range is judged on the rounded value. -/
def cvtFloatInt (src : FFmt) (t : TypeCode) (rz : Bool) (x : Nat) : Flagged :=
  match src.read x with
  | .nan _ => (0, Flag.nv)
  | .inf a => (wrapInt (WF.width t) (if a then tyMin t else tyMax t), Flag.nv)
  | .fin a m e =>
    let (r, inexact) := if 0 ≤ e then (m * 2 ^ e.toNat, false) else roundShift rz m (-e).toNat
    let v := sgn a r
    if v < tyMin t || tyMax t < v then (wrapInt (WF.width t) (clampInt t v), Flag.nv)
    else (wrapInt (WF.width t) v, if inexact then Flag.nx else 0)
/-- One lane converted from type `ts` to type `td`: a wider integer extends the source, another one saturates it. -/
def cvtLane (td ts : TypeCode) (rz : Bool) (x : Nat) : Flagged :=
  match WF.isFloat ts, WF.isFloat td with
  | true, true => cvtFloatFloat (fmtOf ts) (fmtOf td) rz x
  | false, true => cvtIntFloat (fmtOf td) rz (laneInt ts x)
  | true, false => cvtFloatInt (fmtOf ts) td rz x
  | false, false =>
    let v := laneInt ts x
    (wrapInt (WF.width td) (if WF.width ts < WF.width td then v else clampInt td v), 0)

end Sys2Proof.Machine
end

