-- ==== Sys2Proof/Machine/Csr.lean ====
section
/-! DEFINITION. Control and status registers: their numbers, fields and access (spec/09 R206 to R214; the registers of
other chapters by their rules), and CSRR, CSRW, CSRS, CSRC. -/

namespace Sys2Proof.Machine

def modeCode : Mode → Nat
  | .user => 0
  | .kernel => 1
  | .monitor => 2
def modeOf : Nat → Mode
  | 0 => .user
  | 1 => .kernel
  | _ => .monitor

/-- STATUS (R210). -/
def statusWord (x : Hart) : Word :=
  w64 (b2n x.t.utrap * 2 ^ 11 + b2n x.t.intrap * 2 ^ 10 + modeCode x.t.pmode * 2 ^ 8 + modeCode x.mode * 2 ^ 6
    + b2n x.t.pie * 2 ^ 5 + b2n x.t.ie * 2 ^ 4)
def setStatus (x : Hart) (v : Word) : Hart :=
  { x with t := { x.t with
      utrap := bit v 11, intrap := bit v 10
      pmode := if fld v 8 2 < 2 then modeOf (fld v 8 2) else x.t.pmode
      pie := bit v 5, ie := bit v 4 } }

/-- The bits of TCAUSE, UTCAUSE and MONCAUSE that are fields (R212). -/
def causeMask : Word := 0x0000_FFFF_0000_0FFF
/-- The delegable causes (R214, R215). -/
def tdelegMask : Word := 0x0000_0000_0035_FE36

/-- MBPEND: mailboxes that hold a message, and spillways that do (R333). -/
def mbpend (x : Hart) : Word :=
  w64 ((List.range 8).foldl (fun n i =>
    let b := Tab.get ({} : Mailbox) x.mbs i
    n + b2n (b.ringCount + b.spillCount != 0) * 2 ^ i + b2n (b.spillCount != 0) * 2 ^ (8 + i)) 0)

/-- MONSTAT (R404). -/
def monstat (x : Hart) : Word := w64 (b2n x.mon.busy * 8 + modeCode x.mon.rmode)
/-- FAULTQ, the view of the own cluster's queue pointers (R365). -/
def faultq (s : State) (h : Nat) : Word :=
  let c := s.cluster (clusterOf h)
  w64 (c.fqtail.toNat * 2 ^ 32 + c.fqhead.toNat)

/-- The value of a CSR; none where no CSR is assigned (R208, R209, R404). CPGO is read by `cpgoRead`. -/
def csrValue (s : State) (h n : Nat) : Option Word :=
  let x := s.hart h
  match n with
  | 0x000 => some (s.partTick x.part)
  | 0x001 => some (s.coord h)
  | 0x002 => some (s.hartId h)
  | 0x003 => some (x.u.bitp.setWidth 64)
  | 0x004 => some (x.u.fflags.setWidth 64)
  | 0x010 => some (x.u.fmta.setWidth 64)
  | 0x011 => some (x.u.fmtb.setWidth 64)
  | 0x012 => some x.u.cbka
  | 0x013 => some x.u.cbkb
  | 0x014 => some (x.u.seqa.setWidth 64)
  | 0x015 => some (x.u.seqb.setWidth 64)
  | 0x018 => some x.u.rnglo
  | 0x019 => some x.u.rnghi
  | 0x020 => some (x.u.mben.setWidth 64)
  | 0x021 => some (mbpend x)
  | 0x022 => some (x.u.classmask.setWidth 64)
  | 0x024 => some (x.u.mbtab.setWidth 64 <<< 8)
  | 0x030 => some x.cp.src
  | 0x031 => some x.cp.dst
  | 0x032 => some x.cp.len
  | 0x033 => some x.cp.stride
  | 0x034 => some x.cp.param
  | 0x036 => some x.cp.prom
  | 0x040 => some x.t.utvec
  | 0x041 => some x.t.utcause
  | 0x042 => some x.t.utaddr
  | 0x043 => some x.t.uepc
  | 0x400 => some (statusWord x)
  | 0x401 => some x.t.tvec
  | 0x402 => some x.t.tcause
  | 0x403 => some x.t.taddr
  | 0x404 => some x.t.tepc
  | 0x405 => some x.t.tdeleg
  | 0x410 => some x.t.ptroot
  | 0x411 => some (x.t.pspace.setWidth 64)
  | 0x420 => some (faultq s h)
  | 0x800 => some (monstat x)
  | 0x801 => some x.mon.vec
  | 0x802 => some x.mon.pc
  | 0x803 => some x.mon.cause
  | 0x804 => some x.mon.addr
  | 0x805 => some x.mon.save
  | _ => none

/-- A format register (R294): a sparse field of 3 and a type other than 8, 12 and 13 leave their fields unchanged. -/
def setFmt (old : BitVec 8) (v : Word) : BitVec 8 :=
  let sp := if fld v 5 2 == 3 then fld (old.setWidth 64) 5 2 else fld v 5 2
  let ty := if [8, 12, 13].contains (fld v 0 4) then fld v 0 4 else fld (old.setWidth 64) 0 4
  BitVec.ofNat 8 (b2n (bit v 7) * 128 + sp * 32 + ty)

/-- A hart with a CSR written; none for a number with no CSR or whose every field is read-only (R206). Writes to RO
and reserved fields are ignored. MBTAB and FAULTQ have steps of their own. -/
def csrSet (x : Hart) (n : Nat) (v : Word) : Option Hart :=
  match n with
  | 0x003 => some { x with u := { x.u with bitp := v.setWidth 20 } }
  | 0x004 => some { x with u := { x.u with fflags := v.setWidth 5 } }
  | 0x010 => some { x with u := { x.u with fmta := setFmt x.u.fmta v } }
  | 0x011 => some { x with u := { x.u with fmtb := setFmt x.u.fmtb v } }
  | 0x012 => some { x with u := { x.u with cbka := v &&& ~~~(0x1F : Word) } }
  | 0x013 => some { x with u := { x.u with cbkb := v &&& ~~~(0x1F : Word) } }
  | 0x014 => some { x with u := { x.u with seqa := v.setWidth 16 } }
  | 0x015 => some { x with u := { x.u with seqb := v.setWidth 16 } }
  | 0x018 => some { x with u := { x.u with rnglo := v } }
  | 0x019 => some { x with u := { x.u with rnghi := v } }
  | 0x020 => some { x with u := { x.u with mben := v.setWidth 8 } }
  | 0x022 => some { x with u := { x.u with classmask := v.setWidth 16 } }
  | 0x030 => some { x with cp := { x.cp with src := v } }
  | 0x031 => some { x with cp := { x.cp with dst := v } }
  | 0x032 => some { x with cp := { x.cp with len := v &&& (0x0000_FFFF_FFFF_FFFF : Word) } }
  | 0x033 => some { x with cp := { x.cp with stride := v } }
  | 0x034 => some { x with cp := { x.cp with param := v &&& ~~~(0x1F : Word) } }
  | 0x040 => some { x with t := { x.t with utvec := v } }
  | 0x041 => some { x with t := { x.t with utcause := v &&& causeMask } }
  | 0x042 => some { x with t := { x.t with utaddr := v } }
  | 0x043 => some { x with t := { x.t with uepc := evenWord v } }
  | 0x400 => some (setStatus x v)
  | 0x401 => some { x with t := { x.t with tvec := evenWord v } }
  | 0x402 => some { x with t := { x.t with tcause := v &&& causeMask } }
  | 0x403 => some { x with t := { x.t with taddr := v } }
  | 0x404 => some { x with t := { x.t with tepc := evenWord v } }
  | 0x405 => some { x with t := { x.t with tdeleg := v &&& tdelegMask } }
  | 0x410 => some { x with t := { x.t with ptroot := v &&& (0x000F_FFFF_FFFF_F000 : Word) } }
  | 0x411 => some { x with t := { x.t with pspace := v.setWidth 16 } }
  | 0x800 => some { x with mon := { x.mon with
      busy := bit v 3, rmode := if fld v 0 2 < 3 then modeOf (fld v 0 2) else x.mon.rmode } }
  | 0x801 => some { x with mon := { x.mon with vec := evenWord v } }
  | 0x802 => some { x with mon := { x.mon with pc := evenWord v } }
  | 0x803 => some { x with mon := { x.mon with cause := v &&& causeMask } }
  | 0x804 => some { x with mon := { x.mon with addr := v } }
  | 0x805 => some { x with mon := { x.mon with save := v } }
  | _ => none

/-- The checks of R206 that come before the CSR is found; what passes goes on in the serialised state (R207). -/
def csrGate (n : Nat) (s : State) (k : State → Out) : Out :=
  serial s fun s =>
    if 0xC00 ≤ n then illegal s
    else if modeCode s.me.mode < n / 0x400 then trap Cause.privilege (w64 n) s
    else k s

/-- The value that CSRW, CSRS or CSRC writes (R207). -/
def csrNew (k : CsrKind) (old d : Word) : Word :=
  match k with
  | .write => d
  | .set => old ||| d
  | .clear => old &&& ~~~d

def csrWriteWith (k : CsrKind) (o : CsrOp) (s : State) : Out :=
  csrGate o.csr.toNat s fun s =>
    let old := (csrValue s s.cx.hart o.csr.toNat).getD 0
    match csrSet s.me o.csr.toNat (csrNew k old (s.rd o.d)) with
    | none => illegal s
    | some x => serialDone (s.setHart s.cx.hart x)

/-- CSRR writes D at its own marker (R207). -/
def execCsrr (o : CsrOp) (s : State) : Out :=
  csrGate o.csr.toNat s fun s =>
    match csrValue s s.cx.hart o.csr.toNat with
    | none => illegal s
    | some v => serialDone (s.setReg o.d v)
def execCsrw (o : CsrOp) (s : State) : Out := csrWriteWith .write o s
def execCsrs (o : CsrOp) (s : State) : Out := csrWriteWith .set o s
def execCsrc (o : CsrOp) (s : State) : Out := csrWriteWith .clear o s
/-- FAULTQ.head := value; records held for want of room are posted in order (R365, R366). -/
def execFaultqHeadWrite (k : CsrKind) (d : RegNo) (s : State) : Out :=
  csrGate 0x420 s fun s =>
    let g := clusterOf s.cx.hart
    let v := csrNew k (faultq s s.cx.hart) (s.rd d)
    let s := s.modCluster g fun x => { x with fqhead := v.setWidth 32 }
    serialDone (s.postHeld g (s.cluster g).fqheld.length)

end Sys2Proof.Machine
end

