-- ==== Sys2Proof/Machine/Registers.lean ====
section
/-! DEFINITION. The device control registers of region 0x4 (spec/01 R25): their values, and what a write does. The blocks
are those of R91, R103, R332, R350, R365, R375, R378, R386, R391, R396, R401, R405 and R409. -/

namespace Sys2Proof.Machine

/-! ## Partitions as their registers change -/

/-- A partition that has not been swapped out holds its clusters for itself (R376, R401). -/
def Part.resident (p : Part) : Bool := p.live && p.swSt == .resident
def State.anyPart (s : State) (f : Nat → Part → Bool) : Bool := s.parts.any fun kp => f kp.1 kp.2
def Part.clusters (p : Part) : List Nat := if p.live then (List.range Config.nClusters).filter p.pcl.getLsbD else []

/-- Clears the scratchpads and the group state of a cluster (R376, R402, R408). -/
def State.wipeCluster (s : State) (g : Nat) : State :=
  { s with
    mem := Mem.wipe s.mem fun k => isSpad k && coreOfBits (k - Config.spadKey) / 64 == g
    groups := s.groups.filter fun kx => kx.1 / 4 != g
    cores := s.cores.map fun kc => if kc.1 / 64 == g then (kc.1, { kc.2 with badWords := [], corrWords := [] }) else kc }

/-- The rings of a cluster's groups are turned off (R48). -/
def State.ringsOff (s : State) (g : Nat) : State :=
  { s with groups := s.groups.map fun kx => if kx.1 / 4 == g then (kx.1, { kx.2 with rings := [] }) else kx }

/-- A hart of partition `p` is not Free, one that is swapped out with it among them (R364, R376). -/
def State.partBusy (s : State) (p : Nat) : Bool :=
  s.harts.any (fun kx => kx.2.part == some p && kx.2.st != .free) || (s.part p).swapped.harts.any fun kx => kx.2.st != .free

/-- The conditions of R401 on the registers that a write leaves for a live partition. -/
def State.partOk (s : State) (p : Nat) (old new : Part) : Bool :=
  let oldSet := if old.live then old.pcl else 0
  let given := new.pcl &&& ~~~oldSet
  decide (new.kbase + new.kcount ≤ 4096)
  && !s.anyPart (fun q x => q != p && x.live && new.kcount != 0 && x.kcount != 0
      && x.kbase < new.kbase + new.kcount && new.kbase < x.kbase + x.kcount)
  && !s.anyPart (fun q x => q != p && x.live && x.swSt != .out && (x.pcl &&& given) != 0)
  && !(new.pcl != oldSet && new.swSt != .out && s.partBusy p)

/-- The clusters that a write gives to a partition have their rings turned off (R48, R401). -/
def State.giveClusters (s : State) (old new : Part) : State :=
  let oldSet := if old.live then old.pcl else 0
  ((List.range Config.nClusters).filter fun g => new.pcl.getLsbD g && !oldSet.getLsbD g).foldl State.ringsOff s

/-- A partition's registers cleared, as creation clears them (R103, R332, R350, R375, R401). -/
def Part.created (x : Part) (now : Nat) : Part :=
  { pcl := x.pcl, kbase := x.kbase, kcount := x.kcount, live := true, lqs := x.lqs, hqs := x.hqs, tickOff := now }

/-- A partition may be destroyed (R402); whose a command or a reserved core is, its launch says. -/
def State.partIdle (s : State) (p : Nat) : Bool :=
  let x := s.part p
  !s.partBusy p && x.swSt == .resident
  && x.lqs.all (fun kq => !kq.2.en) && x.hqs.all (fun kq => !kq.2.en)
  && s.cores.all (fun kc => kc.2.xfers.all fun kt => !(kt.2.live && kt.2.part == some p))
  && s.groups.all (fun kg => kg.2.cmds.all fun c => (s.launch c.launch).part != some p)
  && s.clusters.all (fun kc => kc.2.mapq.all fun m => m.part != some p)
  && s.cores.all (fun kc => kc.2.resTag == 0 || (s.launch kc.2.resLaunch).part != some p)

/-- A row slot is written to zero with its partition: as after ROWCLOSE its bank is released at A + 28 at the earliest, and
its pin ends then (R73, R108; DEDUCED, log 22). -/
def State.zeroSlot (s : State) (g k : Nat) : State :=
  let b := bankOf (s.slot g k).row
  if !(s.slot g k).holds then s
  else
    let s := s.settleBank (g / 4) b
    let x := s.slot g k
    let t := if x.want.isSome then s.tick else max s.tick (x.a + 28)
    if x.holds then s.closeBank (g / 4) b t [x.ending g k t] else s

/-- Destruction of a partition as one step (R402). -/
def State.destroyPart (s : State) (p : Nat) : State :=
  let x := s.part p
  let cl := x.clusters
  let s := cl.foldl (fun s g =>
    let s := (List.range 16).foldl (fun s i => s.zeroSlot (g * 4 + i / 4) (i % 4)) s
    ((s.wipeCluster g).modCluster g fun c => { c with fqcfg := 0, fqmsg := 0, fqhead := 0, fqtail := 0, fqheld := [] })) s
  { s with
    keys := s.keys.filter fun kk => !(x.kbase ≤ kk.1 && kk.1 < x.kbase + x.kcount)
    clusters := s.clusters.map fun kc => (kc.1, { kc.2 with tlb := kc.2.tlb.filter fun t => t.part != some p })
    parts := Tab.put s.parts p {} }

/-! ## Values -/

def lqcfgWord (q : LaunchQ) : Word := w64 (b2n q.en * 2 ^ 63 + b2n q.dev * 2 ^ 62 + q.base + q.lgsize)
def lqstatWord (q : LaunchQ) : Word := w64 (q.torn.toNat * 2 ^ 48 + q.badkick.toNat * 2 ^ 40 + q.head.toNat)
def hqcfgWord (q : HostQ) : Word := w64 (b2n q.en * 2 ^ 63 + q.base + q.lgsize)
def hqptrWord (q : HostQ) : Word := w64 (q.tail.toNat * 2 ^ 32 + q.head.toNat)
def swCode : SwapSt → Nat
  | .resident => 0
  | .out1 => 1
  | .out => 2
  | .in1 => 3
def pswapWord (x : Part) : Word := w64 (x.swErr.toNat * 16 + swCode x.swSt)
def pkeyrWord (x : Part) : Word := w64 (b2n x.live * 2 ^ 63 + x.kbase * 2 ^ 16 + x.kcount)

/-- A register of a partition's queue block (R396). -/
def queueRead (x : Part) (off : Nat) : Word :=
  let k := off / 0x40
  let lq := Tab.get ({} : LaunchQ) x.lqs k
  let hq := Tab.get ({} : HostQ) x.hqs k
  if 8 ≤ k then 0
  else match off % 0x40 with
    | 0x00 => lqcfgWord lq
    | 0x10 => lqstatWord lq
    | 0x18 => hqcfgWord hq
    | 0x20 => hqptrWord hq
    | _ => 0

/-- The value of the register at an offset of region 0x4; an unassigned one reads zero (R25). -/
def regRead (s : State) (off : Nat) : Word :=
  let lo := off % 2 ^ 32
  let p := s.part (lo / 0x100)
  match off / 2 ^ 32 with
  | 0x0001 =>
    let c := s.cluster (lo / 0x10_0000 * 16 + lo / 0x1_0000 % 16)
    if 0x80_0000 ≤ lo then 0
    else match lo % 0x1_0000 with
      | 0x00 => c.vshadow
      | 0x08 => c.vecc
      | 0x10 => c.vact
      | _ => 0
  | 0x0002 =>
    if 0x8000 ≤ lo then 0
    else match lo % 0x100 with
      | 0x00 => w64 p.splitHead
      | 0x08 => p.ptcfg
      | 0x10 => p.ptaq
      | 0x18 => w64 (p.aqtail.toNat * 2 ^ 32 + p.aqhead.toNat)
      | 0x20 => p.ptalost.setWidth 64
      | _ => 0
  | 0x0003 =>
    if 0x8000 ≤ lo then 0
    else match lo % 0x100 with
      | 0x00 => p.pmerr
      | 0x08 => w64 (p.pmdiv.toNat * 2 ^ 32 + p.pmflood.toNat)
      | _ => 0
  | 0x0004 => if lo < 0x8000 && lo % 0x100 == 0 then p.plret.setWidth 64 else 0
  | 0x0005 =>
    let c := s.cluster (lo / 0x100)
    if 0x8000 ≤ lo then 0
    else match lo % 0x100 with
      | 0x00 => c.fqcfg
      | 0x08 => c.fqmsg
      | _ => 0
  | 0x0006 =>
    if 0x8000 ≤ lo then 0
    else match lo % 0x100 with
      | 0x00 => pswapWord p
      | 0x08 => p.pswmsg
      | _ => 0
  | 0x0007 =>
    match lo with
    | 0x00 => s.mcqcfg
    | 0x08 => s.mcqmsg
    | 0x10 => w64 (s.mcqtail.toNat * 2 ^ 32 + s.mcqhead.toNat)
    | 0x18 => w64 (s.mccorr.toNat * 2 ^ 32 + s.mclost.toNat)
    | _ => 0
  | 0x0008 => if lo < 0x80 && lo % 8 == 0 then (Tab.get (0 : BitVec 3) s.rtcfg (lo / 8)).setWidth 64 else 0
  | 0x0009 =>
    if lo < 0x2000 && lo % 0x1000 < 0x400 then
      w64 (ofBytes ((List.range 8).map fun j => Tab.get 0xFF s.tlpkg (lo / 0x1000 * 1024 + lo % 0x1000 + j)))
    else 0
  | 0x000A => if lo < 0x8_0000 then queueRead (s.part (lo / 0x1000)) (lo % 0x1000) else 0
  | 0x000B =>
    if 0x8000 ≤ lo then 0
    else match lo % 0x100 with
      | 0x00 => p.pcl.setWidth 64
      | 0x08 => (p.pcl >>> 64).setWidth 64
      | 0x10 => pkeyrWord p
      | _ => 0
  | 0x000D => if lo == 0 then w64 s.power.cap else 0
  | 0x000E => if lo == 0 then s.pkgnum.setWidth 64 else 0
  | _ => 0

/-! ## Writes -/

/-- The masks of base and lgsize (R103, R365) and of a notice header (R365). -/
def ringCfg (v : Word) : Word := v &&& (0x000F_FFFF_FFFF_F00F : Word)
def hdrMask (v : Word) : Word := v &&& ~~~(0x1F_FFFF : Word)

/-- PTSPLIT (R104): a push stores the old head into the link of the new one. -/
def State.splitWrite (s : State) (p : Nat) (v : Word) : State :=
  let page := fld v 12 40 * 4096
  let s := if bit v 0 && isVault page then s.devWriteFor (vaultOf page * 256) page (toBytes 8 (s.part p).splitHead) else s
  s.modPart p fun x => { x with splitHead := page }

/-- LQCFG (R396): the slots must lie in vault DRAM to enable the queue. -/
def lqcfgWrite (q : LaunchQ) (v : Word) : LaunchQ :=
  let en := bit v 63
  if q.en then { q with en := en }
  else
    let base := fld v 12 40 * 4096
    let lg := fld v 0 4
    if en && !(decide (base + 512 * 2 ^ lg ≤ 2 ^ 39)) then q
    else
      let q := { q with dev := bit v 62, base := base, lgsize := lg }
      if en then { q with en := true, head := 0, tail := 0, tries := 0, retryAt := 0, ids := [] } else q

/-- A kick (R398): acted on, or counted in badkick. -/
def kickWrite (q : LaunchQ) (v : Word) : LaunchQ :=
  let t : BitVec 32 := v.setWidth 32
  let d := (t - q.tail).toNat
  if q.en && !q.dev && decide (0 < d) && decide (d + (q.tail - q.head).toNat ≤ 2 ^ q.lgsize) then { q with tail := t }
  else { q with badkick := if q.badkick == 0xFF then 0xFF else q.badkick + 1 }

/-- HQCFG and HQPTR (R396, R399): a head that would pass tail is ignored, and a freed slot ends the flood episode. -/
def hqcfgWrite (q : HostQ) (v : Word) : HostQ :=
  let x := { q with en := bit v 63, base := fld v 12 36 * 4096, lgsize := fld v 0 4 }
  if bit v 63 && !q.en then { x with head := 0, tail := 0 } else x
def hqptrWrite (q : HostQ) (v : Word) : HostQ :=
  let h : BitVec 32 := v.setWidth 32
  if decide ((h - q.head).toNat ≤ (q.tail - q.head).toNat) then
    { q with head := h, flood := if h == q.head then q.flood else false }
  else q

/-- A write to a partition's queue block, by the host through BAR0 or by the device (R396). -/
def queueWrite (x : Part) (off : Nat) (v : Word) : Part :=
  let k := off / 0x40
  let lq := Tab.get ({} : LaunchQ) x.lqs k
  let hq := Tab.get ({} : HostQ) x.hqs k
  let putL (q : LaunchQ) : Part := { x with lqs := Tab.put x.lqs k q }
  let putH (q : HostQ) : Part := { x with hqs := Tab.put x.hqs k q }
  if 8 ≤ k then x
  else match off % 0x40 with
    | 0x00 => putL (lqcfgWrite lq v)
    | 0x08 => putL (kickWrite lq v)
    | 0x10 => putL { lq with torn := v.extractLsb' 48 16, badkick := v.extractLsb' 40 8 }
    | 0x18 => putH (hqcfgWrite hq v)
    | 0x20 => putH (hqptrWrite hq v)
    | _ => x

/-- PCLLO and PCLHI (R401). -/
def State.clusterSetWrite (s : State) (p : Nat) (hi : Bool) (v : Word) : State :=
  let x := s.part p
  let y := { x with pcl := if hi then v ++ x.pcl.extractLsb' 0 64 else x.pcl.extractLsb' 64 64 ++ v }
  if !x.live then s.modPart p fun _ => y
  else if s.partOk p x y then (s.modPart p fun _ => y).giveClusters x y
  else s

/-- PKEYR (R401, R402). -/
def State.pkeyrWrite (s : State) (p : Nat) (v : Word) : State :=
  let x := s.part p
  let y := { x with kbase := fld v 16 12, kcount := fld v 0 13 }
  if x.live && !bit v 63 then if s.partIdle p then s.destroyPart p else s
  else if !x.live && !bit v 63 then s.modPart p fun _ => y
  else if s.partOk p x { y with live := true } then
    if x.live then s.modPart p fun _ => y
    else (s.modPart p fun _ => y.created s.tick).giveClusters x { y with live := true }
  else s

/-- PSWAP (R91, R375, R376, R401, R403): an accepted command starts the swap, a refused one sets err. -/
def State.pswapWrite (s : State) (p : Nat) (v : Word) : State :=
  let x := s.part p
  let err (e : BitVec 4) : State := s.modPart p fun x => { x with swErr := e }
  let noShadow := x.clusters.any fun g => !bit (s.cluster g).vshadow 63 || (s.shadowKey g).1 == 0
  match fld v 2 2 with
  | 1 =>
    if !x.live || x.swSt != .resident then err 2
    else if noShadow then err 1
    else s.modPart p fun x => { x with swErr := 0, swSt := .out1 }
  | 2 =>
    if !x.live || x.swSt != .out || s.anyPart (fun q y => q != p && y.live && y.swSt != .out && (y.pcl &&& x.pcl) != 0)
    then err 2
    else if noShadow then err 1
    else s.modPart p fun x => { x with swErr := 0, swSt := .in1 }
  | _ => s

/-- Measurement registers 3 to 7 (R405): the digest words, and the extend. -/
def State.mrExtend (s : State) (v : Word) : State :=
  let k := v.toNat
  if 3 ≤ k && k ≤ 7 then
    let d := (List.range 8).map fun i => Tab.get 0 s.boot.digest i
    let old := Tab.get 0 s.boot.mr k
    { s with boot := { s.boot with mr := Tab.put s.boot.mr k (sha512 (vBytes old ++ bytesOf d)) } }
  else s

/-- A write of `v` to the register at an offset of region 0x4, made from mode `m`; one to an unassigned offset or a
read-only register is ignored (R7, R25). -/
def regWrite (s : State) (m : Mode) (off : Nat) (v : Word) : State :=
  let lo := off % 2 ^ 32
  let p := lo / 0x100
  match off / 2 ^ 32 with
  | 0x0001 =>
    let g := lo / 0x10_0000 * 16 + lo / 0x1_0000 % 16
    let c := s.cluster g
    if 0x80_0000 ≤ lo then s
    else match lo % 0x1_0000 with
      | 0x00 =>
        if m != .monitor || bit c.vshadow 63
            || s.anyPart (fun _ x => x.holds g && (x.swSt == .out1 || x.swSt == .in1)) then s
        else s.modCluster g fun c => { c with vshadow := v &&& (0x8000_0FFF_0000_07FC : Word) }
      | 0x08 => s.modCluster g fun c => { c with vecc := v &&& ~~~(0xFFFF : Word) }
      | 0x10 => s.modCluster g fun c => { c with vact := v &&& ~~~(0xFFFF : Word) }
      | _ => s
  | 0x0002 =>
    if 0x8000 ≤ lo then s
    else match lo % 0x100 with
      | 0x00 => s.splitWrite p v
      | 0x08 => s.modPart p fun x => { x with ptcfg := v &&& (0xFFFF_FFFF_0000_0FF0 : Word) }
      | 0x10 => s.modPart p fun x => { x with ptaq := ringCfg v }
      | 0x18 => s.modPart p fun x => { x with aqhead := v.setWidth 32 }
      | 0x20 => s.modPart p fun x => { x with ptalost := v.setWidth 32 }
      | _ => s
  | 0x0003 =>
    if 0x8000 ≤ lo then s
    else match lo % 0x100 with
      | 0x00 => s.modPart p fun x => { x with pmerr := hdrMask v }
      | 0x08 => s.modPart p fun x => { x with pmdiv := v.extractLsb' 32 32, pmflood := v.setWidth 32 }
      | _ => s
  | 0x0004 => if lo < 0x8000 && lo % 0x100 == 0 then s.modPart p fun x => { x with plret := v.setWidth 32 } else s
  | 0x0005 =>
    if 0x8000 ≤ lo then s
    else match lo % 0x100 with
      | 0x00 =>
        let s := s.modCluster p fun c => { c with fqcfg := ringCfg v }
        s.postHeld p (s.cluster p).fqheld.length
      | 0x08 => s.modCluster p fun c => { c with fqmsg := hdrMask v }
      | _ => s
  | 0x0006 =>
    if 0x8000 ≤ lo then s
    else match lo % 0x100 with
      | 0x00 => s.pswapWrite p v
      | 0x08 => s.modPart p fun x => { x with pswmsg := hdrMask v }
      | _ => s
  | 0x0007 =>
    match lo with
    | 0x00 => { s with mcqcfg := ringCfg v }
    | 0x08 => { s with mcqmsg := hdrMask v }
    | 0x10 => { s with mcqhead := v.setWidth 32 }
    | 0x18 => { s with mccorr := v.extractLsb' 32 32, mclost := v.setWidth 32 }
    | _ => s
  | 0x0008 =>
    if lo < 0x80 && lo % 8 == 0 && !s.anyPart (fun _ x => x.live && x.swSt != .out) then
      let old := Tab.get (0 : BitVec 3) s.rtcfg (lo / 8)
      let ring := if fld v 1 2 == 3 then fld (old.setWidth 64) 1 2 else fld v 1 2
      { s with rtcfg := Tab.put s.rtcfg (lo / 8) (BitVec.ofNat 3 (ring * 2 + b2n (bit v 0))) }
    else s
  | 0x0009 =>
    if lo < 0x2000 && lo % 0x1000 < 0x400 && !s.anyPart (fun _ x => x.resident) then
      let put (t : Tab (BitVec 8)) (j : Nat) : Tab (BitVec 8) :=
        Tab.put t (lo / 0x1000 * 1024 + lo % 0x1000 + j) (v.extractLsb' (8 * j) 8)
      { s with tlpkg := (List.range 8).foldl put s.tlpkg }
    else s
  | 0x000A => if lo < 0x8_0000 then s.modPart (lo / 0x1000) fun x => queueWrite x (lo % 0x1000) v else s
  | 0x000B =>
    if 0x8000 ≤ lo then s
    else match lo % 0x100 with
      | 0x00 => s.clusterSetWrite p false v
      | 0x08 => s.clusterSetWrite p true v
      | 0x10 => s.pkeyrWrite p v
      | _ => s
  | 0x000C =>
    if lo == 0x40 then s.mrExtend v
    else if lo < 0x40 && lo % 8 == 0 then { s with boot := { s.boot with digest := Tab.put s.boot.digest (lo / 8) v } }
    else s
  | 0x000D =>
    if lo == 0 then { s with power := { s.power with cap := max 400 (min 1400 (fld v 0 16)) } } else s
  | 0x000E =>
    if lo == 0 && fld v 0 10 != 0x3FF && !s.anyPart (fun _ x => x.live) && s.trained == [] then
      { s with pkgnum := v.setWidth 10 }
    else s
  | _ => s

/-- The steps that a write to region 0x4 is named after, by its address and value. -/
inductive RegStep where
  | plain | splitPush | splitReplace | create | destroy | clusterSet | swapOut | swapIn | extend | kick | lqEnable
  | hqEnable | hqHead
deriving DecidableEq, Repr, Inhabited

/-- Which step a write of `v` is. -/
def regStep (s : State) (off : Nat) (v : Word) : RegStep :=
  let lo := off % 2 ^ 32
  match off / 2 ^ 32 with
  | 0x0002 => if lo % 0x100 == 0 then if bit v 0 then .splitPush else .splitReplace else .plain
  | 0x0006 =>
    if lo % 0x100 == 0 then if fld v 2 2 == 1 then .swapOut else if fld v 2 2 == 2 then .swapIn else .plain else .plain
  | 0x000A =>
    let x := s.part (lo / 0x1000)
    let k := lo % 0x1000 / 0x40
    match lo % 0x40 with
    | 0x00 => if bit v 63 && !(Tab.get ({} : LaunchQ) x.lqs k).en then .lqEnable else .plain
    | 0x08 => .kick
    | 0x18 => if bit v 63 && !(Tab.get ({} : HostQ) x.hqs k).en then .hqEnable else .plain
    | 0x20 => .hqHead
    | _ => .plain
  | 0x000B =>
    match lo % 0x100 with
    | 0x00 | 0x08 => .clusterSet
    | 0x10 =>
      let l := (s.part (lo / 0x100)).live
      if !l && bit v 63 then .create else if l && !bit v 63 then .destroy else .plain
    | _ => .plain
  | 0x000C => if lo == 0x40 then .extend else .plain
  | _ => .plain

end Sys2Proof.Machine
end

