-- ==== Sys2Proof/Machine/Take.lean ====
section
/-! DEFINITION. Taking a hart between instructions: for a dispatch, a save, a swap or a stop (spec/08 R182, spec/09 R224). -/

namespace Sys2Proof.Machine

/-- MIGR and MIGR.force complete before anything takes the hart (R109), and so do SPLIT and TINV once they have changed
something (R105, R107), a save that has begun (R367), a compute instruction whose first command has entered the array queue
(R307), a request to the host that has been sent, which must not be made twice (R228), a map operation that its home has
not accepted yet (R289), and HALT (R349). -/
def HoldKind.takeable : HoldKind → Bool
  | .migrate .. | .splinter .. | .tinv _ | .page .. | .arrayMid .. | .save .. | .hostReply none | .kept | .halting => false
  | _ => true

/-- A resumed hart that waits for octets or a lease is held by a hold of length 0 (R37, R292). -/
def Hold.isResume (k : Hold) : Bool :=
  k.len == 0 && (match k.kind with | .claim _ | .lease .. => true | _ => false)
def resumeHold (kind : HoldKind) : Hold := ⟨kind, 0, false, none⟩

def Done.isRead : Done → Bool
  | .read .. => true
  | .place .. => false

/-- The hart stands at a span boundary, or at an instruction held out of issue that has read nothing yet (R182, R228). That an
access which waits at a bank is such an instruction is read from R182, whose list of holds is open (DEDUCED; log 32). -/
def Hart.boundary (x : Hart) : Bool :=
  !x.waiting && !x.done.any Done.isRead && (match x.hold with | some k => k.kind.takeable | none => x.span.count == 0)

/-- The hart has been taken for a save that is under way, or for a swap of its partition (R369, R376). -/
def State.withheld (s : State) (h : Nat) : Bool :=
  let x := s.hart h
  x.frozen || (match x.part with | some p => (s.part p).swSt != .resident && x.boundary | none => false)

/-- What a held instruction has waiting outside the hart is withdrawn. -/
def State.withdraw (s : State) (h : Nat) (k : Hold) : State :=
  let skip (s : State) : State := s.modHart h fun x => { x with pc := x.pc + w64 (2 * k.len) }
  match k.kind with
  | .wfe => skip (s.modHart h fun x => { x with event := false })
  | .sendw _ => skip { s with net := s.net.map fun m => if m.waiter == some h then { m with waiter := none } else m }
  | .claim _ => s.modCore (coreOf h) fun c => { c with claims := c.claims.filter (·.h != h) }
  | .lease g _ => s.modGroup g fun x => { x with lq := x.lq.filter (·.h != h) }
  | _ => s

/-- A registered QWAIT of the hart: a dispatch ends it, and a save keeps it, to be restarted (R359, R369). -/
def State.unwait (s : State) (h : Nat) (keep : Bool) : State :=
  let p := (s.hart h).barriers
  if (s.part p).qwaits.all (·.h != h) then s
  else s.modPart p fun x =>
    { x with qwaits := if keep then x.qwaits.map fun q => if q.h == h then { q with first := none } else q
              else x.qwaits.filter (·.h != h) }

/-- The hart is taken: its deferred writes commit, and a held instruction will run again from its first word; a WFE counts
as executed, and a SENDW has sent its message (R182, R224, R337). -/
def State.take (s : State) (h : Nat) : State :=
  let s := match (s.hart h).hold with | some k => s.withdraw h k | none => s
  (s.commit h).modHart h fun x => { x with hold := none, done := [], todo := [] }

end Sys2Proof.Machine
end

