-- ==== Sys2Proof/Machine/MemOps.lean ====
section
/-! DEFINITION. Reads, writes and read-modify-writes at their homes, the store buffer, and its draining (spec/02 R41 to R47,
spec/06 R114 to R128, spec/10 R228, R229; logs 5 and 34). -/

namespace Sys2Proof.Machine

/-! ## Scopes (R117, R124, R125; log 34) -/

/-- Harts `a` and `b` lie in one instance of scope `sc`. -/
def sameScope (sc a b : Nat) : Bool :=
  match sc with
  | 0 => a == b
  | 1 => coreOf a == coreOf b
  | 2 => clusterOf a == clusterOf b
  | 3 => dieOf a == dieOf b
  | _ => true

def Hart.owes (x : Hart) : Bool := x.sbuf.any fun e => e.due != 0
/-- Another hart has let a release or fence go ahead of its earlier stores; one at a time does so. -/
def State.othersOwe (s : State) (h : Nat) : Bool := s.harts.any fun kx => kx.1 != h && kx.2.owes
/-- Hart `h` lies in the scope of a release that another hart has let go ahead of earlier stores: until those are performed
no event of `h` takes place, so that nothing in that scope can tell. -/
def State.scopeHeld (s : State) (h : Nat) : Bool :=
  s.harts.any fun kx => kx.1 != h && kx.2.sbuf.any fun e => e.due != 0 && sameScope e.due kx.1 h

/-- The same for a release of package scope, the only ones that order stores before a row activation (R87). -/
def State.packageHeld (s : State) (h : Nat) : Bool :=
  s.harts.any fun kx => kx.1 != h && kx.2.sbuf.any fun e => 4 ≤ e.due && sameScope e.due kx.1 h

/-- One of those stores waits at a vault bank that is held (R78). -/
def State.owedHeld (s : State) (h : Nat) : Bool :=
  s.harts.any fun kx => kx.2.sbuf.any fun e => e.due != 0 && sameScope e.due kx.1 h && isVault e.base && s.bankHeld e.base

/-- A row activation of hart `h` that an instruction of step `born` follows is not sensed yet; with `so` one through a
strongly ordered leaf (R120, R140). -/
def State.rowsBefore (s : State) (h born : Nat) (so : Bool) : Bool :=
  (List.range 4).any fun a => (s.group (clusterOf h * 4 + a)).slots.any fun kx =>
    (match kx.2.want with | some (_, k, _) => k == h | none => false) && decide (kx.2.born < born) && (!so || kx.2.so)

/-- An element that an instruction before step `born` pushed into a write stream has not been written, and comes before an
access of `n` bytes at `a`: they share a byte, or both go through strongly ordered leaves (R120). -/
def State.pushedBefore (s : State) (h born a n : Nat) (so : Bool) : Bool :=
  (s.hart h).streams.any fun kt => kt.2.wr && kt.2.buf.any fun e =>
    decide (e.born < born) && ((e.so && so) || (decide (e.key < a + n) && decide (a < e.key + 64)))

/-! ## The order of stores -/

def StoreEnt.overlaps (e : StoreEnt) (a n : Nat) : Bool := decide (e.base < a + n) && decide (a < e.base + e.bytes.length)

/-- An earlier store `d` of the hart comes before store `e` for every agent (R120): they share a byte; or in instructions of
their own both go through strongly ordered leaves, or `e` is a release at system scope. -/
def StoreEnt.comesBefore (d e : StoreEnt) : Bool :=
  d.overlaps e.base e.bytes.length || (d.born != e.born && ((d.so && e.so) || e.sc == 5))
/-- The release `e` orders `d` within its own scope only; host memory takes part in none but the system's (R125, R143). -/
def StoreEnt.comesScoped (d e : StoreEnt) : Bool :=
  d.born != e.born && 0 < e.sc && e.sc < 5 && !isHost d.base && !isHost e.base

/-- The k-th store of hart `h` may be performed: nothing has to come first that it cannot be let ahead of. -/
def State.storeMay (s : State) (h k : Nat) : Bool :=
  let es := (s.hart h).sbuf
  match es[k]? with
  | none => false
  | some e =>
    (es.take k).all (fun d => !d.comesBefore e && (!d.comesScoped e || !s.othersOwe h))
      && !s.scopeHeld h && !s.pushedBefore h e.born e.base e.bytes.length e.so && !(e.sc != 0 && s.rowsBefore h e.born false) && !(e.so && s.rowsBefore h e.born true)

/-! ## Scratchpad banks (R20, R41 to R45; log 32) -/

/-- The 8-byte words of a scratchpad that `n` bytes from offset `off` touch, and their banks (R41, R47). -/
def spadWords (off n : Nat) : List Nat := (List.range ((off + n - 1) / 8 - off / 8 + 1)).map fun i => off / 8 + i
def spadBanks (off n : Nat) : List Nat := (List.range (min 16 ((off + n - 1) / 8 - off / 8 + 1))).map fun i => (off / 8 + i) % 16

/-- MCQCNT counts the words of an access to the scratchpad of `core` that are corrected (R378, R379). -/
def State.correct (s : State) (core : Nat) (words : List Nat) : State :=
  let k := ((s.core core).corrWords.filter words.contains).length
  { s with mccorr := BitVec.ofNat 32 (min (s.mccorr.toNat + k) (2 ^ 32 - 1)) }

/-- An access is granted its banks, and wakes those that are powered down (R20, R42). -/
def State.wake (s : State) (key n : Nat) : State :=
  if isSpad key then
    let core := coreOfBits (key - Config.spadKey)
    (s.correct core (spadWords (key % 2 ^ 17) n)).modCore core fun c =>
      { c with powered := (spadBanks (key % 2 ^ 17) n).foldl (fun m b => m ||| 1 <<< b) c.powered
               grants := (spadBanks (key % 2 ^ 17) n).foldl (fun m b => Tab.put m b (Tab.get 0 m b + 1)) c.grants }
  else s

/-- Who asks for banks: an entry of a hart's store buffer, a held read of a hart, a stream of it that fetches ahead, a transfer,
a message at its sluice or that is active, an operation of a map, or a peer's access. -/
inductive Asker where
  | store (h j : Nat)
  | read (h : Nat)
  | stream (h n : Nat)
  | copy (c k : Nat)
  | sluice
  | map (id : Nat)
  | peer (i : Nat)
deriving DecidableEq, Repr, Inhabited

/-- A request at the banks of a scratchpad, with the most arbitrations it has lost at one of them. -/
structure BankReq where
  asker : Asker
  wait : PadWait
  lost : Nat
deriving DecidableEq, Repr, Inhabited

/-- The request competes for bank `b`. -/
def BankReq.uses (r : BankReq) (b : Nat) : Bool := r.wait.words.any fun w => w % 16 == b

/-- `x` is granted before `y`: what has lost four arbitrations or more first, the most first; then the class, and within it
the oldest (R43, R45). -/
def BankReq.before (x y : BankReq) : Bool :=
  let ax := if 4 ≤ x.lost then x.lost else 0
  let ay := if 4 ≤ y.lost then y.lost else 0
  decide (ay < ax) || (ax == ay && (decide (x.wait.cls < y.wait.cls) ||
    (x.wait.cls == y.wait.cls && decide (x.wait.since < y.wait.since))))

/-- Two requests meet at a bank; reads of one word do not (R43, R44). -/
def PadWait.clash (x y : PadWait) : Bool :=
  x.words.any fun a => y.words.any fun b => a % 16 == b % 16 && !(x.read && y.read && a == b)

/-- A request that comes to the banks now. -/
def State.ask (s : State) (core : Nat) (words : List Nat) (read : Bool) (cls : Nat) : PadWait :=
  { core := core, words := words, read := read, cls := cls, since := s.tick, seen := (s.core core).grants }
/-- A request that has waited goes on where it asks for the same. -/
def PadWait.kept (w : PadWait) (old : Option PadWait) : PadWait :=
  match old with
  | some o => if o.core == w.core && o.words == w.words then o else w
  | none => w
def State.bankReq (s : State) (a : Asker) (w : PadWait) : BankReq :=
  let now := (s.core w.core).grants
  { asker := a, wait := w, lost := w.words.foldl (fun m x => max m (Tab.get 0 now (x % 16) - Tab.get 0 w.seen (x % 16))) 0 }

/-- The class of an access of hart `h` at the scratchpad of a core (R43). -/
def padClass (h core : Nat) (vec : Bool) : Nat := if core != coreOf h then 5 else if vec then 3 else 2
/-- The scratchpad of a location. -/
def padCore (key : Nat) : Nat := coreOfBits (key - Config.spadKey)

/-- Lanes of one vector store that are one access at the banks (R42). -/
def StoreEnt.mate (e d : StoreEnt) : Bool :=
  e.whole && d.whole && e.born == d.born && isSpad d.base && padCore d.base == padCore e.base

/-- The request of an entry of the store buffer `es` of hart `h`: a vector store asks for the banks of all its lanes at
once. -/
def State.storeAsk (s : State) (h : Nat) (es : List StoreEnt) (e : StoreEnt) : PadWait :=
  let c := padCore e.base
  let w := s.ask c (((e :: es.filter e.mate).flatMap fun d => spadWords (d.base % 2 ^ 17) d.bytes.length).eraseDups) false
    (padClass h c e.vec)
  if e.sent then { w with since := e.came, seen := e.seen } else w

/-- The held access of hart `h` is still at the banks: nothing has taken the hart or holds its scope. -/
def State.padAsks (s : State) (h : Nat) : Option PadWait :=
  let x := s.hart h
  match x.hold with
  | some ⟨.pad w, _, _, _⟩ => if x.st == .active && !s.withheld h && !s.scopeHeld h then some w else none
  | _ => none
/-- What stream `n` of hart `h` waits for at banks while it fetches ahead. -/
def State.streamAsks (s : State) (h : Nat) (t : Stream) : Option PadWait :=
  match t.wait with
  | some (.pad w) => if s.withheld h || s.scopeHeld h then none else some w
  | _ => none

/-- What waits at the banks of the scratchpad of core `c`: stores that have reached it and may be performed, held reads and
read-modify-writes, fills of streams, chunks of transfers, messages, map operations that use a buffer there, and accesses of peers. -/
def State.bankReqs (s : State) (c : Nat) : List BankReq :=
  let here (a : Asker) (w : Option PadWait) : List BankReq :=
    match w with | some w => if w.core == c then [s.bankReq a w] else [] | none => []
  (s.harts.flatMap fun kx =>
    (kx.2.sbuf.zipIdx.flatMap fun ej =>
      here (.store kx.1 ej.2)
        (if ej.1.sent && isSpad ej.1.base && s.storeMay kx.1 ej.2 then some (s.storeAsk kx.1 kx.2.sbuf ej.1) else none))
      ++ here (.read kx.1) (s.padAsks kx.1)
      ++ (kx.2.streams.flatMap fun kt => here (.stream kx.1 kt.1) (s.streamAsks kx.1 kt.2))
      ++ kx.2.mbs.flatMap fun kb => here .sluice (if s.away kx.2 then none else kb.2.pad))
    ++ (s.cores.flatMap fun ky => ky.2.xfers.flatMap fun kx => kx.2.pads.flatMap fun w => here (.copy ky.1 kx.1) (some w))
    ++ (s.net.flatMap fun m => m.pads.flatMap fun w => here .sluice (some w))
    ++ (s.clusters.flatMap fun kg => kg.2.mapq.flatMap fun o => here (.map o.wait) o.pad)
    ++ s.peerPend.zipIdx.flatMap fun xi => here (.peer xi.2) xi.1.pad

/-- No other request is granted before `w` at a bank that both need. -/
def State.padTurn (s : State) (own : Asker → Bool) (w : PadWait) : Bool :=
  let r := s.bankReq .sluice w
  (s.bankReqs w.core).all fun q => own q.asker || !q.before r || !q.wait.clash w

/-- The stores of hart `h`. -/
def Asker.storeOf (h : Nat) : Asker → Bool
  | .store k _ => k == h
  | _ => false

/-- The requests of hart `h` that are the read itself: of its current instruction, or of its stream `n`, which a pop waits for. -/
def Asker.reads (h : Nat) (st : Option Nat) (a : Asker) : Bool :=
  a == .read h || (match st with | some n => a == .stream h n | none => false)
/-- What that read is held for. -/
def State.heldFor (s : State) (h : Nat) (st : Option Nat) : Option HoldKind :=
  let held := (s.hart h).hold.map (·.kind)
  match st with
  | none => held
  | some n => match (Tab.get {} (s.hart h).streams n).wait with | some k => some k | none => held
/-- The tick at which the read reached the bank of `pa` (R70). -/
def State.readCame (s : State) (h : Nat) (st : Option Nat) (pa : Nat) : Nat :=
  match s.heldFor h st with
  | some (.bank t p) | some (.page t p) => if sameBank p pa then t else s.tick
  | _ => s.tick
/-- A request of a hart for words of a scratchpad, as it has waited. -/
def State.wordsAsk (s : State) (h : Nat) (st : Option Nat) (core : Nat) (words : List Nat) (read vec : Bool) : PadWait :=
  (s.ask core words read (padClass h core vec)).kept (match s.heldFor h st with | some (.pad w) => some w | _ => none)
/-- A read of `n` bytes by hart `h` at a scratchpad, or a read-modify-write. -/
def State.readAsk (s : State) (h : Nat) (st : Option Nat) (key n : Nat) (read vec : Bool) : PadWait :=
  s.wordsAsk h st (padCore key) (spadWords (key % 2 ^ 17) n) read vec

/-! ## Stores at their homes -/

/-- Before a store of hart `h` changes `n` bytes: the hart may have fetched what they hold now (R146). -/
def State.fetchedBefore (s : State) (h a n : Nat) : State :=
  s.modHart h fun x =>
    let keep (t : Tab Word) (key a n : Nat) : Tab Word :=
      if (Tab.find? t key).isSome then t else Tab.put t key (w64 (ofBytes (s.readBytes none a n)))
    let halves := (List.range ((a + n - 1) / 2 - a / 2 + 1)).map fun i => (a / 2 + i) * 2
    let words := (List.range ((a + n - 1) / 8 - a / 8 + 1)).map fun i => (a / 8 + i) * 8
    { x with icache := words.foldl (fun t a => keep t (2 * a + 1) a 8) (halves.foldl (fun t a => keep t (2 * a) a 2) x.icache) }

/-- A store that only a release of a narrower scope than the package has ordered is performed: what it replaces in a vault an
activation may still latch (R87). What is overwritten meanwhile is replaced for good. -/
def State.keepOlder (s t : State) (h : Nat) (e : StoreEnt) : State :=
  let locs := (List.range e.bytes.length).map (e.base + ·)
  let past := t.older.map fun x => (x.1, x.2.filter fun c => !locs.contains c.1)
  let same := s.unitKey e.base == t.unitKey e.base
  { t with older :=
      (if isVault e.base && 0 < e.due && e.due < 4 && same then
        past ++ [(h, locs.map fun a => (a, Mem.get s.mem a, Mem.get t.mem a))] else past).filter fun x => x.2 != [] }
/-- The hart's earlier stores are ordered for the whole package. -/
def State.settleOlder (s : State) (h : Nat) : State := { s with older := s.older.filter fun x => x.1 != h }

/-- A store performed at its home (R228): a register write, host memory, a vault write with the merge of R69, or a
scratchpad write. A part of a poisoned codeword or word leaves it poisoned and is reported (R82, R379). -/
def State.performHere (s : State) (h : Nat) (e : StoreEnt) : State :=
  let a := e.base
  let n := e.bytes.length
  if isReg a && !isBoot a then regWrite s e.mode (a % 2 ^ 48) (w64 (ofBytes e.bytes))
  else
    let old := s.readBytes e.enc a n
    let bs := (List.range n).map fun i =>
      let m := e.mask.getD i 0xFF
      (old.getD i 0 &&& ~~~m) ||| (e.bytes.getD i 0 &&& m)
    let s := if e.mask == [] then s.renew a n else s
    let s := (((s.wake a n).touch a n).mend a n).fetchedBefore h a n
    let s := if isVault a && s.eccBad a n then
        (s.countBad a).machineCheck 2 (a / 1024 % 8) h (w64 (a / 8192 * 8192)) e.va
      else if isSpad a && s.eccBad a n then
        s.machineCheck 3 0 h (w64 (0xA0 * 2 ^ 56 + (a - Config.spadKey))) e.va
      else s
    s.keepOlder (s.writeBytes e.enc a bs) h e

/-- A store of hart `h` is performed; a failed link loses its request before it is, or its reply after (R229). -/
def State.perform (s : State) (h : Nat) (e : StoreEnt) : State :=
  if !e.past && (s.requestCut h e.base).isSome then s.lose h e.va e.pc true
  else if (s.replyCut h e.base).isSome then (s.performHere h e).lose h e.va e.pc false
  else s.performHere h e

/-- A store of the buffer `es` of hart `h` can be performed now as far as its home is concerned (R43, R78); `own` are the
requests that are its own. What a release has gone ahead of does not wait its turn. -/
def State.homeFree (s : State) (own : Asker → Bool) (h : Nat) (es : List StoreEnt) (e : StoreEnt) : Bool :=
  let came := if e.sent then e.came else s.tick
  if isVault e.base then if e.due != 0 then s.bankOpen e.base came else s.bankFree e.base came
  else if isSpad e.base then e.due != 0 || s.padTurn own (s.storeAsk h es e)
  else true

/-- Stores that a release or fence of scope `sc` goes ahead of. -/
def State.owe (s : State) (h sc : Nat) (p : StoreEnt → Bool) : State :=
  s.modHart h fun x => { x with sbuf := x.sbuf.map fun d => if p d then { d with due := max d.due sc } else d }

/-- Entry `j` of the store buffer of hart `h` is performed. -/
def State.performEntry (s : State) (h j : Nat) (e : StoreEnt) : State :=
  let before := (s.hart h).sbuf.take j
  let s := if before.any (·.comesScoped e) then s.owe h e.sc fun d => before.contains d && d.comesScoped e else s
  (s.modHart h fun x => { x with sbuf := x.sbuf.eraseIdx j }).perform h e

/-- Every store of hart `h` is performed, in order; none if a home is not free yet, or no event of the hart may take place. -/
def State.drain (s : State) (h : Nat) : Option State :=
  let es := (s.hart h).sbuf
  let go (t : Option State) (e : StoreEnt) : Option State :=
    match t with
    | none => none
    | some t =>
      if t.homeFree (Asker.storeOf h) h es e && !t.pushedBefore h e.born e.base e.bytes.length e.so then some (t.perform h e) else none
  if es != [] && s.scopeHeld h then none
  else (es.foldl go (some s)).map fun t => (t.modHart h fun x => { x with sbuf := [] }).settleOlder h

/-- Earlier stores of hart `h` come before what follows, for the agents of scope `sc` (R125): they are performed, or are let
wait while nothing in the scope moves. -/
def State.ordered (s : State) (h sc : Nat) : Option State :=
  if sc == 0 then some s
  else if (s.hart h).sbuf == [] then some (if 4 ≤ sc then s.settleOlder h else s)
  else if sc < 5 && !s.othersOwe h then
    some (if sc < 4 then s.owe h sc fun d => !isHost d.base else (s.owe h sc fun d => !isHost d.base).settleOlder h)
  else s.drain h

/-- The instruction goes on once the hart's earlier stores have been performed, and its row activations sensed, and is held
until then; it does not where a store was lost (R229). -/
def drainedBy (hold : HoldKind) (s : State) (k : State → Out) : Out :=
  if s.rowsBefore s.cx.hart s.steps false then holdAt hold s
  else
    match s.drain s.cx.hart with
    | some t => if t.me.st == s.me.st then k t else .next t
    | none => holdAt hold s
def drained (s : State) (k : State → Out) : Out := drainedBy .again s k

/-- The same within a scope. -/
def orderedIn (sc : Nat) (s : State) (k : State → Out) : Out :=
  if sc != 0 && s.rowsBefore s.cx.hart s.steps false then holdAt .again s
  else
    match s.ordered s.cx.hart sc with
    | some t => if t.me.st == s.me.st then k t else .next t
    | none => holdAt .again s

/-! ## Reads -/

/-- One byte as hart `h` reads it: its own latest unperformed store of the byte, or the home's byte (R228). -/
def State.viewByte (s : State) (h : Nat) (enc : Option (BitVec 12)) (a : Nat) : Byte :=
  (s.hart h).sbuf.foldl (fun b e =>
    if e.overlaps a 1 then
      let m := e.mask.getD (a - e.base) 0xFF
      (b &&& ~~~m) ||| (e.bytes.getD (a - e.base) 0 &&& m)
    else b) (s.readKey (s.slotKey enc) a)
def State.view (s : State) (h : Nat) (enc : Option (BitVec 12)) (a n : Nat) : List Byte :=
  (List.range n).map fun i => s.viewByte h enc (a + i)

/-- The scope of an acquire annotation; 0 without one. -/
def acqScope (ord : OrderCode) (sc : ScopeCode) : Nat := if ord.getLsbD 0 then sc.toNat else 0
/-- The scope of a release annotation; 0 without one. -/
def relScope (ord : OrderCode) (sc : ScopeCode) : Nat := if ord.getLsbD 1 then sc.toNat else 0

/-- Earlier stores have to be performed before this read (R120): strongly ordered accesses, registers and host memory. -/
def State.readsAfter (s : State) (h : Nat) (p : Place) : Bool :=
  (s.hart h).sbuf.any fun e => (p.so && e.so) || isReg p.key || isHost p.key
/-- The scope in which an acquire of scope `acq` comes after the hart's earlier releases: the smaller of the two (R120). -/
def State.acquireAfter (s : State) (h acq : Nat) : Nat := min acq ((s.hart h).sbuf.foldl (fun m e => max m e.sc) 0)

/-- A request of hart `h` to host memory, for its current instruction or for its stream. -/
def State.request (s : State) (h : Nat) (st : Option Nat) (pa n : Nat) (va : Word) : State :=
  { s with hostOut := s.hostOut ++ [{ h := h, stream := st, pa := pa, n := n, va := va, issued := s.tick }] }

/-- What the host answers to the requests of at most `u` bytes that an access of `n` bytes of the current instruction sends,
one after the other (R228, R394). -/
def hostRead (h key n u : Nat) (va : Word) (s : State) : Look (List Byte) :=
  (Look.each (fun i s =>
    match (s.hart h).todo with
    | .read ok bs :: _ =>
      let s := s.did h (.read ok bs)
      if ok then .ok bs s else .trap Cause.permission va s
    | _ =>
      if (s.requestCut h key).isSome then .gone (s.lose h va (s.hart h).pc true)
      else .host none (s.request h none (key + u * i) (min u (n - u * i)) (va + w64 (u * i)))) (List.range ((n + u - 1) / u)) s).bind
    fun bs s => .ok bs.flatten s

/-- The bytes that hart `h` reads at a place in the package, for its instruction or its stream `st`, with their ECC check (R82,
R379): a register or memory, where `own` its unperformed stores are seen; `rmw` for the read of a read-modify-write. -/
def readLocal (own rmw : Bool) (h : Nat) (st : Option Nat) (p : Place) (n : Nat) (va : Word) (s : State) : Look (List Byte) :=
  if isReg p.key && !isBoot p.key then .ok (toBytes 8 (regRead s (p.key % 2 ^ 48)).toNat) s
  else if isVault p.key && !s.bankFree p.key (s.readCame h st p.key) then .wait (.bank (s.readCame h st p.key) p.key) s
  else if isSpad p.key && !p.granted && !s.padTurn (Asker.reads h st) (s.readAsk h st p.key n (!rmw) p.vec) then
    .wait (.pad (s.readAsk h st p.key n (!rmw) p.vec)) s
  else if s.eccBad p.key n then .trap Cause.ecc va (((s.countBad p.key).wake p.key n).touch p.key n)
  else .ok (if own then s.view h p.enc p.key n else s.readBytes p.enc p.key n) ((s.wake p.key n).touch p.key n)

/-- The request of the access has reached its owner: it waits at the bank of `key` (R229). -/
def State.arrivedAt (s : State) (h : Nat) (st : Option Nat) (key : Nat) : Bool :=
  match s.heldFor h st with
  | some (.bank _ p) => p == key
  | some (.pad w) => isSpad key && w.core == padCore key
  | _ => false

/-- A read that goes to another agent's home and back; what the owner answers is lost with its reply (R229). -/
def overLink {α : Type} (h : Nat) (st : Option Nat) (key : Nat) (va : Word) (s : State) (act : Look α) : Look α :=
  if (s.requestCut h key).isSome && !s.arrivedAt h st key then .gone (s.lose h va (s.hart h).pc true)
  else if (s.replyCut h key).isSome then
    match act with
    | .ok _ t | .trap _ _ t => .gone (t.lose h va (s.hart h).pc false)
    | x => x
  else act

/-- What has to come before a read of hart `h` at a place: the state once it has, none while it has not, and whether the hart
goes on (R120, R229); `acq` is the scope of an acquire. -/
def readFirst (h : Nat) (p : Place) (n : Nat) (acq : Nat) (s : State) : Look Unit :=
  if (p.so && s.rowsBefore h s.steps true) || s.pushedBefore h s.steps p.key n p.so then .wait .again s
  else
    match (if s.readsAfter h p then s.drain h else s.ordered h (s.acquireAfter h acq)) with
    | none => .wait .again s
    | some t => if (t.hart h).st != (s.hart h).st then .gone t else .ok () t

/-- The bytes that an access of hart `h` reads at a place, after the stores that come before it. -/
def readPlace (h : Nat) (p : Place) (n : Nat) (acq : Nat) (va : Word) (s : State) : Look (List Byte) :=
  (readFirst h p n acq s).bind fun _ s =>
    if isHost p.key then hostRead h p.key n 8 va s
    else readOnce h va (fun s => overLink h none p.key va s (readLocal true false h none p n va s)) s

/-- A checked read of `n` aligned bytes by hart `h`. -/
def loadBytes (h : Nat) (va : Word) (n align : Nat) (acq : Nat) (s : State) : Look (List Byte) :=
  (checked h .load va n align s).bind fun p s => readPlace h p n acq va s

/-! ## Stores -/

/-- Adds stores to the buffer of hart `h` (R228). -/
def State.buffer (s : State) (h : Nat) (es : List StoreEnt) : State :=
  s.modHart h fun x => { x with sbuf := x.sbuf ++ es }

/-- The store of bytes at a place, with the scope of its release; more than 8 bytes to host memory go as requests of 8
(R228). -/
def State.entries (s : State) (h : Nat) (p : Place) (bs : List Byte) (sc : Nat) (va : Word) : List StoreEnt :=
  let x := s.hart h
  let e : StoreEnt :=
    { base := p.key, bytes := bs, enc := p.enc, so := p.so, sc := sc, va := va, pc := x.pc, mode := x.mode, born := s.steps }
  if isHost p.key && bs.length == 16 then
    [{ e with bytes := bs.take 8 }, { e with base := p.key + 8, bytes := bs.drop 8, va := va + 8 }]
  else [e]

/-! ## Read-modify-writes -/

/-- Earlier stores of the hart that have to be performed before an RMW of `n` bytes (R120). -/
def State.rmwAfter (s : State) (h : Nat) (p : Place) (n : Nat) : Bool :=
  (s.hart h).sbuf.any fun e => (p.so && e.so) || e.overlaps p.key n || isHost p.key

/-- The scope of the release half of an RMW: a compare that fails writes nothing, and orders nothing (R234). What the host will
find is not known beforehand, so there a compare orders as if it succeeded (log 34). -/
def rmwRelease (h : Nat) (p : Place) (n rel : Nat) (f : List Byte → Option (List Byte)) (s : State) : Nat :=
  if isHost p.key || (f (s.view h p.enc p.key n)).isSome then rel else 0

/-- What an RMW does at its home: `full` says, from the bytes read, that it has to wait there, and `post` is what the home does
beside the write (R235). -/
structure AtHome where
  full : List Byte → State → Bool := fun _ _ => false
  post : List Byte → State → State := fun _ s => s

/-- One RMW of hart `h` at a checked place, performed at its home (R232), in host memory by one AtomicOp (R236): `f` gives the
bytes to write, if any. -/
def rmwAt (h : Nat) (p : Place) (va : Word) (n : Nat) (ord : OrderCode) (sc : ScopeCode)
    (f : List Byte → Option (List Byte)) (home : AtHome) (s : State) : Look (List Byte) :=
  let rel := rmwRelease h p n (relScope ord sc) f s
  if (p.so && s.rowsBefore h s.steps true) || (rel != 0 && s.rowsBefore h s.steps false) || s.pushedBefore h s.steps p.key n p.so
  then .wait .again s
  else
    match (if s.rmwAfter h p n then s.drain h else s.ordered h (max rel (s.acquireAfter h (acqScope ord sc)))) with
    | none => .wait .again s
    | some t =>
      if (t.hart h).st != (s.hart h).st then .gone t
      else if isHost p.key then hostRead h p.key n n va t
      else
        overLink h none p.key va t ((readLocal true true h none p n va t).bind fun bs s =>
          if home.full bs t then .wait .trigger t
          else
            match f bs with
            | none => .ok bs s
            | some new => .ok bs (home.post bs ((s.mend p.key n).writeBytes p.enc p.key new)))

/-- A checked RMW; host memory takes only the AtomicOps of R236, and a refused one counts as no access (R111). -/
def rmw (h : Nat) (va : Word) (n : Nat) (ord : OrderCode) (sc : ScopeCode) (hostOk : Bool)
    (f : List Byte → Option (List Byte)) (s : State) : Look (List Byte) :=
  (checked h .atomic va n n s).bind fun p t =>
    if isHost p.key && !hostOk then .trap Cause.permission va s else rmwAt h p va n ord sc f {} t

end Sys2Proof.Machine
end

