-- ==== Sys2Proof/Machine/Sluice.lean ====
section
/-! DEFINITION. The sluice: mailbox entries, admission, the spillway, diversion, the pin table (spec/18 R325 to R332, R343,
R351; spec/05 R108). -/

namespace Sys2Proof.Machine

/-! ## Pins (R108) -/

/-- The 64 KiB pages that the entries of a cluster's pin table name. -/
def Cluster.pinEntries (x : Cluster) : List (Option Nat × BitVec 16 × Nat) :=
  (x.pins.map fun p => (p.part, p.space, p.page)).eraseDups
/-- Pins of the pages fit among the 256 entries. -/
def State.pinRoom (s : State) (g : Nat) (part : Option Nat) (space : BitVec 16) (pages : List Nat) : Bool :=
  decide (((s.cluster g).pinEntries ++ pages.map fun p => (part, space, p)).eraseDups.length ≤ 256)
/-- An operation whose pages need a new entry while the pin table is full waits before it translates (R108). -/
def State.pinGate {α : Type} (s : State) (g : Nat) (w : Who) (x : Look α) (pages : α → List Nat) : Bool :=
  match x with
  | .ok a _ => s.pinRoom g w.part w.pspace (pages a)
  | _ => decide ((s.cluster g).pinEntries.length < 256)
def State.pin (s : State) (g : Nat) (p : Pin) : State := s.modCluster g fun x => { x with pins := x.pins ++ [p] }
def State.unpin (s : State) (g : Nat) (p : Pin → Bool) : State :=
  s.modCluster g fun x => { x with pins := x.pins.filter fun q => !p q }

/-! ## Entries (R327, R328) -/

namespace Mailbox

def tag (b : Mailbox) : Nat := fld b.w0 56 8
def anytag (b : Mailbox) : Bool := bit b.w0 55
def cap (b : Mailbox) : Nat := 2 ^ fld b.w0 44 4
def ring (b : Mailbox) : Nat := fld b.w0 6 11 * 64
def handler (b : Mailbox) : Word := evenWord b.w1
def spill (b : Mailbox) : Word := b.w2 &&& ~~~(0x3F : Word)
def spcap (b : Mailbox) : Nat := fld b.w3 32 32
/-- The entry is in use and well formed (R328). -/
def valid (b : Mailbox) : Bool :=
  bit b.w0 0 && fld b.w0 48 5 == 0 && fld b.w0 17 27 == 0 && fld b.w0 1 5 == 0 && fld b.w0 44 4 ≤ 10
    && b.ring + 64 * b.cap ≤ spadSize && !bit b.w1 0 && fld b.w2 0 6 == 0 && fld b.w3 0 32 == 0
    && (b.spcap == 0 || canonical b.w2)
def empty (b : Mailbox) : Bool := b.ringCount + b.spillCount == 0

/-- A re-read entry: whole where the mailbox is empty; else tag, anytag, prio and handler now, the rest later (R327). -/
def reread (b : Mailbox) (ws : List Word) (ptroot : Word) (space : BitVec 16) : Mailbox :=
  let w (i : Nat) : Word := ws.getD i 0
  let top : Word := 0xFFE0_0000_0000_0000
  if b.empty then
    { b with w0 := w 0, w1 := w 1, w2 := w 2, w3 := w 3, next := none, ringHead := 0, spillHead := 0
             ptroot := ptroot, pspace := space }
  else { b with w0 := (w 0 &&& top) ||| (b.w0 &&& ~~~top), w1 := (w 1 &&& ~~~(1 : Word)) ||| (b.w1 &&& 1), next := some (ws ++ [ptroot, space.setWidth 64]) }

/-- A mailbox that has become empty takes up the entry that waits for it. -/
def settle (b : Mailbox) : Mailbox :=
  match b.next with
  | some ws => if b.empty then b.reread ws (ws.getD 4 0) ((ws.getD 5 0).setWidth 16) else b
  | none => b

/-- A message has left the spillway: the flood episode ends at half of spcap (R331). -/
def spillFell (b : Mailbox) : Mailbox :=
  if 0 < b.spcap && 2 * b.spillCount ≤ b.spcap then { b with flood := false } else b
/-- Without a spillway it ends once the ring has room. -/
def ringFell (b : Mailbox) : Mailbox :=
  if b.spcap == 0 && b.ringCount < b.cap then { b with flood := false } else b

end Mailbox

def State.mb (s : State) (h x : Nat) : Mailbox := Tab.get {} (s.hart h).mbs x
def State.modMb (s : State) (h x : Nat) (f : Mailbox → Mailbox) : State :=
  s.modHart h fun k => { k with mbs := Tab.put k.mbs x (f (Tab.get {} k.mbs x)) }

/-- Location of slot `j` of a ring, and of a free-running head's slot. -/
def State.ringLoc (s : State) (h x j : Nat) : Nat :=
  let b := s.mb h x
  spadLoc (coreOf h) (b.ring + 64 * (j % b.cap))

/-! ## Messages as stored (R325, R326, R329) -/

/-- The header as delivered. -/
def Msg.delivered (m : Msg) : Word :=
  let base := m.hdr.toNat / 2 ^ 21 * 2 ^ 21 + m.origin % 4 * 2 ^ 18
    + (if m.origin == 1 then 0 else m.sender.toNat * 8)
  w64 (match m.err with
    | some r => base + 2 ^ 20 + r % 8
    | none => base + b2n m.handler)
/-- The eight words of a slot. -/
def Msg.slot (m : Msg) : List Word := m.delivered :: (List.range 7).map fun i => m.pay.getD i 0
/-- A message read back from a slot. -/
def msgOfSlot (ws : List Word) (counts : Bool) (core launch : Nat) (part : Option Nat) : Msg :=
  let w := ws.getD 0 0
  let ov := bit w 0 && !bit w 20
  { hdr := w64 (w.toNat / 2 ^ 21 * 2 ^ 21), pay := (ws.drop 1).take (if ov then 7 else Hdr.len w)
    origin := fld w 18 2, sender := BitVec.ofNat 15 (fld w 3 15), handler := ov
    counts := counts, qcore := core, launch := launch, part := part }

/-- The sluice writes scratchpad words (class 4 of R43). -/
def State.putSpad (s : State) (a : Nat) (bs : List Byte) : State :=
  ((((s.renew a bs.length).wake a bs.length).mend a bs.length).writeBytes none a bs)

/-- Message `i`, or one of the spillway, may be written to the ring slot at `a` now: no request is before it at its banks
(R43). -/
def State.slotAsk (s : State) (a : Nat) (old : Option PadWait) : PadWait :=
  (s.ask (padCore a) (spadWords (a % 2 ^ 17) 64) false 4).kept old
def State.slotTurn (s : State) (a : Nat) (old : Option PadWait) : Bool := s.padTurn (· == .sluice) (s.slotAsk a old)

/-! ## The spillway (R329) -/

/-- The sluice translates in the partition of the hart and the space of the MBTAB write. -/
def State.spillWho (s : State) (h x : Nat) : Who :=
  let b := s.mb h x
  { h := h, mode := .kernel, part := (s.hart h).part, ptroot := b.ptroot, pspace := b.pspace, since := b.bank
    unit := some (clusterOf h), stops := false }
/-- The address of the spillway's next slot. -/
def Mailbox.spillNext (b : Mailbox) : Word := b.spill + w64 (64 * ((b.spillHead + b.spillCount) % b.spcap))

/-- What the spillway's next slot translates to: a vault place with rd and wr that can be pinned, as a counted access (R111); a
wait at a bank; or else no place. An entry that cannot be read is reported all the same (R82, R93). -/
def State.spillAt (s : State) (h x : Nat) : Look Place :=
  let b := s.mb h x
  let full (s : State) : Look Place := .trap Cause.permission b.spillNext s
  if b.spcap ≤ b.spillCount || !s.boot.full then full s
  else
    let w := s.spillWho h x
    (translate w b.spillNext s).bind fun (e, entry, level) s =>
      let pa := fld e 16 36 * 65536 + b.spillNext.toNat % leafSize level
      if !isVault pa || !s.permitted w .atomic e pa
          || !s.pinRoom (clusterOf h) (s.hart h).part b.pspace [pa / 65536] then full s
      else if !s.bankFree pa (w.came pa s.tick) then waitBank w pa s
      else if s.countWaits w b.spillNext e entry level then waitBank w entry s
      else
        .ok { key := pa, enc := if bit e 8 then some (e.extractLsb' 52 12) else none }
          (s.countAccess w b.spillNext e entry level)

/-- The ring of a hart that is saved, or about to be, takes nothing (R343). -/
def State.ringClosed (s : State) (h : Nat) : Bool := (s.hart h).st == .saved || s.withheld h

/-- The slot of the ring that the oldest spillway message moves to, if there is one for it (R329). -/
def State.spillInto (s : State) (h x : Nat) : Option (Nat × Nat × Option (BitVec 12) × List (Nat × Option (BitVec 12))) :=
  let b := s.mb h x
  match b.pins with
  | (pa, enc) :: rest =>
    if b.spillCount == 0 || b.cap ≤ b.ringCount || s.ringClosed h then none
    else some (s.ringLoc h x (b.ringHead + b.ringCount), pa, enc, rest)
  | [] => none

/-- The oldest spillway message moves to the ring tail (R329); none while it has no place to go, its bank is held, or it is not
its turn at the banks of the ring. -/
def State.spillMove (s : State) (h x : Nat) : Option State :=
  let b := s.mb h x
  match s.spillInto h x with
  | none => none
  | some (a, pa, enc, rest) =>
    if !s.bankFree pa (waitCame b.bank pa s.tick) || !s.slotTurn a b.pad then none
    else
      let bs := s.readBytes enc pa 64
      let s := (s.unitTouch h pa 64).putSpad a bs
      let s := s.modMb h x fun b =>
        { b with ringCount := b.ringCount + 1, spillCount := b.spillCount - 1
                 spillHead := b.spillHead + 1, pins := rest, bank := none, pad := none }.spillFell
      some (if rest.any (fun q => q.1 / 65536 == pa / 65536) then s
        else s.unpin (clusterOf h) fun p => p.holder == .mailbox h x && p.page == pa / 65536)
/-- A move that has to wait takes its place at the bank, or at the banks of the ring (R43, R70). -/
def State.spillWait (s : State) (h x : Nat) : State :=
  match s.spillInto h x with
  | none => s
  | some (a, pa, _, _) =>
    let b := s.mb h x
    if !s.bankFree pa (waitCame b.bank pa s.tick) then
      s.modMb h x fun b => { b with bank := some (waitCame b.bank pa s.tick, pa) }
    else s.modMb h x fun b => { b with pad := some (s.slotAsk a b.pad) }

/-- Moves as many as fit. -/
def State.spillMoves (h x : Nat) : Nat → State → State
  | 0, s => s
  | n + 1, s =>
    match s.spillMove h x with
    | some t => State.spillMoves h x n t
    | none => s

/-! ## Destinations and fates -/

/-- Where a message is bound: the host, a peer package, an event flag, an owner core, or a mailbox. -/
inductive Dest where
  | host
  | peer
  | event (h : Nat)
  | gather (c : Nat)
  | scatter (c : Nat)
  | mailbox (h x : Nat)
deriving DecidableEq, Repr, Inhabited

/-- A diverted message goes to the mailbox of PMERR, whose package field is ignored (R332). -/
def State.dest (s : State) (m : Msg) : Dest :=
  match m.err, m.part with
  | some _, some p => let e := (s.part p).pmerr; .mailbox (Hdr.hart e) (Hdr.mb e)
  | _, _ =>
    let w := m.hdr
    if Hdr.pkg w == Hdr.host then .host
    else if Hdr.pkg w != s.pkgnum.toNat then .peer
    else if Hdr.cls w == 15 && Hdr.len w == 0 then .event (Hdr.hart w)
    else if Hdr.tag w == 0xF8 then .gather (Hdr.core w)
    else if Hdr.tag w == 0xF9 then .scatter (Hdr.core w)
    else .mailbox (Hdr.hart w) (Hdr.mb w)

/-- The core at the end of a message's route, or the bridgehead's number above all cores. -/
def State.routeEnd (s : State) (m : Msg) : Nat :=
  match s.dest m with
  | .host => Config.nCores
  | .peer => Config.nCores + 1
  | .event h | .mailbox h _ => coreOf h
  | .gather c | .scatter c => c

/-- Where a message enters the fabric: one that its sluice diverts there, one that is refused at the unit that would send it. -/
def State.msgFrom (_s : State) (m : Msg) : Nat :=
  match m.err with
  | none | some 3 => m.die.getD (dieOf m.sender.toNat)
  | some _ => dieOf (Hdr.hart m.hdr)
/-- The way that its class goes round the ring (R386), and the die where it leaves it. -/
def State.msgWay (s : State) (m : Msg) : Nat := (Tab.get (0 : BitVec 3) s.rtcfg (Hdr.cls m.hdr)).toNat / 2
def State.msgTo (s : State) (m : Msg) : Nat :=
  match s.dest m with
  | .host => hostDie (s.msgFrom m)
  | .peer => s.msgFrom m
  | _ => s.routeEnd m / 1024

/-- The links on a message's way (R384 to R387, R391). The way inside the package of what enters from outside is not given. -/
def State.msgRoute (s : State) (m : Msg) : List Nat :=
  if m.origin == 1 || m.origin == 2 then []
  else
    ringLinks (s.msgWay m) (s.msgFrom m) (s.msgTo m) ++
      (match s.dest m with
       | .host => [8 + s.msgTo m]
       | .peer => s.peerLinks (s.msgFrom m) (Hdr.pkg m.hdr)
       | _ => [])
/-- A failed link that the message has not passed (R390). -/
def State.cutMsg (s : State) (m : Msg) : Option Nat := s.cutLink ((s.msgRoute m).drop m.hops)
/-- The message has passed every link of its way. -/
def State.through (s : State) (m : Msg) : Bool := decide ((s.msgRoute m).length ≤ m.hops)

/-- Messages of the host and of peers are held at their bridgehead while their partition is being swapped or is out (R377). -/
def State.swapHeld (s : State) (m : Msg) : Bool :=
  match m.part with
  | some p => (m.origin == 1 || m.origin == 2) && (s.part p).swSt != .resident
  | none => false

/-- Earlier message `d` comes before `m` at the bridgehead where both enter: it is bound for the same partition, in whose order
of arrival they are admitted, or it is held there and stalls its class (R331, R377). -/
def State.entersBefore (s : State) (d m : Msg) : Bool :=
  (m.origin == 1 || m.origin == 2) && d.origin == m.origin && d.err.isNone && m.err.isNone && Hdr.cls d.hdr == Hdr.cls m.hdr
    && (d.part == m.part || s.swapHeld d)
/-- The retire message of a launch comes after every message of it (R347); `via` is 3 of such a one. -/
def Msg.retireAfter (d m : Msg) : Bool := m.via == 3 && d.launch == m.launch

/-- Message `i` has reached its destination: it has passed the links of its way, nothing of its class and sender to the same place
is before it (R330), none is before it at its bridgehead (R377), and no other message of its class waits there (R331). -/
def State.arrived (s : State) (i : Nat) (m : Msg) : Bool :=
  s.through m && !s.swapHeld m
    && !(s.net.take i).any (fun d => s.entersBefore d m || d.retireAfter m)
    && (s.net.take i).all (fun d => !(d.origin == m.origin && d.sender == m.sender && Hdr.cls d.hdr == Hdr.cls m.hdr
          && s.routeEnd d == s.routeEnd m))
    && (s.net.zipIdx.all fun dk => dk.2 == i
          || !(dk.1.waiting && Hdr.cls dk.1.hdr == Hdr.cls m.hdr && s.routeEnd dk.1 == s.routeEnd m))

def State.unsend (s : State) (i : Nat) : State := { s with net := s.net.eraseIdx i }

/-- A waiting SENDW receives its fate (R337). -/
def State.fate (s : State) (m : Msg) (v : Word) : State :=
  match m.waiter with
  | none => s
  | some h =>
    match (s.hart h).hold with
    | some ⟨.sendw _, _, _, _⟩ => s.release h [.scalar 0 v]
    | _ => s

/-- Mailbox x of hart h is the error mailbox of the partition that holds its cluster (R332). -/
def State.errorBox (s : State) (h x : Nat) : Bool :=
  match s.partOf (clusterOf h) with
  | none => false
  | some p => let e := (s.part p).pmerr; Hdr.hart e == h && Hdr.mb e == x

/-- Message `i` waits; the monitor is told once of a misused error mailbox (R332). -/
def State.misused (s : State) (i : Nat) (m : Msg) (reason h : Nat) : State :=
  if m.waiting then s
  else
    let s := s.machineCheck 4 reason h m.hdr 0
    { s with net := s.net.set i { m with waiting := true } }

/-- Message `i` waits for mailbox x: the first one starts a flood episode and sends its flood event (R331). -/
def State.floodWait (s : State) (i : Nat) (m : Msg) (h x : Nat) : State :=
  let first := !(s.mb h x).flood
  let s := { s with net := s.net.set i { m with waiting := true } }
  if !first then s
  else
    let s := s.modMb h x fun b => { b with flood := true }
    if m.err.isSome || s.errorBox h x then s.machineCheck 4 4 h m.hdr 0
    else
      match s.partOf (clusterOf h) with
      | none => s.machineCheck 4 4 h m.hdr 0
      | some p =>
        let s := s.modPart p fun k => { k with pmflood := satInc k.pmflood }
        { s with net := s.net ++
            [{ hdr := withLen m.hdr 0, origin := m.origin, sender := m.sender, err := some 4, part := some p }] }

/-- The mailbox has taken message `i`. -/
def State.taken (s : State) (i : Nat) (m : Msg) (h x : Nat) (fate : Word) : State :=
  let s := (s.unsend i).modMb h x fun b => { b with counts := b.counts ++ [m.counts] }
  let s := if (s.hart h).u.mben.getLsbD x then s.modHart h fun k => { k with event := true } else s
  s.fate m fate

/-- Message `i` leaves for the error mailbox of the partition of its destination. -/
def State.divertMsg (s : State) (i : Nat) (m : Msg) (reason h : Nat) : State :=
  ((s.unsend i).divertTo m reason (s.partOf (clusterOf h))).fate m (BitVec.allOnes 64)

/-- Admission of message `i` at mailbox x of hart h (R329): to the ring, to the spillway, diverted, or left waiting. -/
def State.accept (s : State) (i : Nat) (m : Msg) (h x : Nat) : State :=
  let b := s.mb h x
  let isErr := m.err.isSome || s.errorBox h x
  let outside := match m.err, m.part with | some _, some p => !s.inSet (some p) (clusterOf h) | _, _ => false
  if outside || !b.valid then if isErr then s.misused i m 2 h else s.divertMsg i m 2 h
  else if !b.anytag && Hdr.tag m.hdr != b.tag then if isErr then s.misused i m 1 h else s.divertMsg i m 1 h
  else
    let s := State.spillMoves h x b.spillCount s
    let b := s.mb h x
    if !s.ringClosed h && b.ringCount < b.cap then
      let a := s.ringLoc h x (b.ringHead + b.ringCount)
      if b.spillCount != 0 then s.spillWait h x
      else if !s.slotTurn a m.pads.head? then { s with net := s.net.set i { m with pads := [s.slotAsk a m.pads.head?] } }
      else
        let s := s.putSpad a (bytesOf m.slot)
        (s.modMb h x fun b => { b with ringCount := b.ringCount + 1 }).taken i m h x 1
    else
      match s.spillAt h x with
      | .wait (.bank t p) _ => s.modMb h x fun b => { b with bank := some (t, p) }
      | .ok p t =>
        let t := (t.unitTouch h p.key 64).mend p.key 64
        let s := t.writeBytes p.enc p.key (bytesOf m.slot)
        let s := if b.pins.any (fun q => q.1 / 65536 == p.key / 65536) then s
          else s.pin (clusterOf h) ⟨(s.hart h).part, b.pspace, p.key / 65536, .mailbox h x⟩
        (s.modMb h x fun b => { b with spillCount := b.spillCount + 1, pins := b.pins ++ [(p.key, p.enc)], bank := none }).taken i m h x 2
      | .trap _ _ t | .park _ _ _ t => if m.waiting then s else t.floodWait i m h x
      | _ => s

/-- A change of a hart that is swapped out, or that its message finds resident: what the sluice keeps of it is saved with the
partition, and it stands as a saved one (R88, R343). -/
def State.atHart (s : State) (h : Nat) (p : Option Nat) (f : State → State) : State :=
  match p.bind fun p => (Tab.find? (s.part p).swapped.harts h).map fun x => (p, x) with
  | none => f s
  | some (p, x) =>
    let t := f (s.setHart h { x with st := .saved })
    (t.modPart p fun q => { q with swapped := { q.swapped with harts := Tab.put q.swapped.harts h { t.hart h with st := x.st } } }).setHart h
      (s.hart h)

/-- The hart is back from a save: of a mailbox without a spillway whose ring has room the flood episode ends at once (R331).
-/
def State.mailboxesBack (s : State) (h : Nat) : State :=
  (List.range 8).foldl (fun s x => s.modMb h x Mailbox.ringFell) s

/-! ## A hart's mailboxes end (R351, R372) -/

/-- The words of the oldest message of a mailbox. -/
def State.headWords (s : State) (h x : Nat) : List Word :=
  wordsOf (s.readBytes none (s.ringLoc h x (s.mb h x).ringHead) 64) 8

/-- Every queued message of mailbox x, oldest first, with whether it counts. -/
def State.queued (s : State) (h x : Nat) : List (List Word × Bool) :=
  let b := s.mb h x
  let ring := (List.range b.ringCount).map fun j => wordsOf (s.readBytes none (s.ringLoc h x (b.ringHead + j)) 64) 8
  let spill := b.pins.map fun q => wordsOf (s.readBytes q.2 q.1 64) 8
  (ring ++ spill).zipIdx.map fun wi => (wi.1, b.counts.getD wi.2 false)

/-- The first message in the hart's spillways that its bank does not let be read yet, and since when it has waited there
(R78). -/
def State.mailBlock (s : State) (h : Nat) : Option (Nat × Nat × Nat) :=
  (s.hart h).mbs.findSome? fun kb => kb.2.pins.findSome? fun q =>
    let t := waitCame kb.2.bank q.1 s.tick
    if s.bankFree q.1 t then none else some (kb.1, t, q.1)

/-- Queued messages of the hart are diverted in queue order with reason 2, and its entries become invalid. A spillway
word that cannot be corrected is reported and goes along. -/
def State.dropMailboxes (s : State) (h : Nat) : State :=
  let l := (s.hart h).launch
  let p := s.partOf (clusterOf h)
  let s := (List.range 8).foldl (fun s x =>
    let s := (s.mb h x).pins.foldl (fun s q => s.unitTouch h q.1 64) s
    (s.queued h x).foldl (fun s wc => s.divertTo (msgOfSlot wc.1 wc.2 (coreOf h) l (s.hart h).part) 2 p) s) s
  let s := s.unpin (clusterOf h) fun q => match q.holder with | .mailbox g _ => g == h | _ => false
  s.modHart h fun k => { k with mbs := [], h := {} }

end Sys2Proof.Machine
end

