-- ==== Sys2Proof/Machine/Messages.lean ====
section
/-! DEFINITION. SEND, SENDW, HRET, the write of MBTAB, and the steps that admit, move, dispatch and perform messages
(spec/18 R327 to R343, spec/24 R399, spec/19 R358). -/

namespace Sys2Proof.Machine

/-! ## SEND and SENDW (R337) -/

/-- The scalar file of a register number (R29, R30). -/
def fileOf (r : Nat) : Nat := if r < 4 then 0 else if r < 12 then 1 else 2

/-- Levels of a launch record, the scope of level k, and that of the outermost one (R345, R346). -/
def Launch.nlev (l : Launch) : Nat := fld (l.words.getD 2 0) 60 4
def Launch.scope (l : Launch) (k : Nat) : Nat := fld (l.words.getD (8 + k) 0) 50 3
def Launch.outerScope (l : Launch) : Nat := l.scope (l.nlev - 1)

/-- The scope that a send releases at: the package's, or the system's for the host or a peer (R129). -/
def State.sendScope (s : State) (hdr : Word) : Nat := if Hdr.pkg hdr == s.pkgnum.toNat then 4 else 5

/-- A message of the current hart. -/
def State.ownMsg (s : State) (hdr : Word) (pay : List Word) (wait : Bool) : Msg :=
  let h := s.cx.hart
  let l := s.me.launch
  { hdr := hdr, pay := pay, origin := 0, sender := BitVec.ofNat 15 h, waiter := if wait then some h else none
    sendw := wait, qcore := coreOf h, launch := l, part := s.me.part
    counts := s.counted l hdr }

/-- The bytes of a packet: its route header and its body (R383). -/
def Msg.bytes (m : Msg) : Nat := 16 + 8 * (1 + Hdr.len m.hdr) + (if m.handler then 8 else 0)
/-- The buffer of a class at the crossing from the mesh of die `a` to its ring stop has no room for `m` (R388). -/
def State.stopFull (s : State) (m : Msg) : Bool :=
  let here := s.net.filter fun d => d.hops == 0 && s.msgRoute d != [] && s.msgFrom d == s.msgFrom m && Hdr.cls d.hdr == Hdr.cls m.hdr
  s.msgRoute m != [] && decide (2048 < (here.map Msg.bytes).sum + m.bytes)

/-- The port does not inject while the class is stalled on the route: one waits at the destination, or the class's buffer at the
ring stop is full; or while an earlier message of the hart to the same core on another class awaits its admission (R330, R331,
R388; log 8). -/
def State.stalled (s : State) (m : Msg) : Bool :=
  s.stopFull m || s.net.any fun d =>
    s.routeEnd d == s.routeEnd m
      && ((d.waiting && Hdr.cls d.hdr == Hdr.cls m.hdr)
          || (d.origin == 0 && d.err.isNone && d.sender == m.sender && Hdr.cls d.hdr != Hdr.cls m.hdr))

/-- Injection (R331, R358). -/
def State.inject (s : State) (m : Msg) : State :=
  let s := if m.counts then s.qAdd m.qcore m.launch 1 else s
  { s with net := s.net ++ [m] }

/-- The common part of SEND and SENDW: the checks, the release, the injection. -/
def sendWith (wait : Bool) (o : RR) (s : State) (k : State → Out) : Out :=
  let hdr := s.rd o.a
  let len := Hdr.len hdr
  let d := o.d.toNat
  let pay := (List.range len).map fun i => s.me.reg (d + i)
  let last := d + len - 1
  let regsOk := len == 0 || (decide (last < 76) && fileOf d == fileOf last)
  if !regsOk || s.sendRefused s.me.part (dieOf s.cx.hart) hdr pay then trap Cause.messageFormat hdr s
  else
    orderedIn (s.sendScope hdr) s fun s =>
      let m := s.ownMsg hdr pay wait
      if s.stalled m then holdAt .inject s else k (s.inject m)

def execSend (o : RR) (s : State) : Out := sendWith false o s finish
def execSendw (o : RR) (s : State) : Out := sendWith true o s fun s => holdAt (.sendw 0) s

/-! ## HRET (R336): the count of a tracked message is a release (R358) -/

def execHret (s : State) : Out :=
  serial s fun s =>
    let x := s.me
    if !x.h.running then illegal s
    else
      let done (s : State) : Out :=
        goto x.h.hpc (s.modMe fun x => { x with h := { x.h with running := false, tracked := false } })
      if x.h.tracked then orderedIn (s.launch x.launch).outerScope s fun s => done (s.qAdd (coreOf s.cx.hart) x.launch (-1)) else done s

/-! ## MBTAB (R327) -/

/-- The sluice re-reads all eight entries; a table in the hole reads as invalid entries. -/
def State.rereadTable (s : State) (h : Nat) : State :=
  let x := s.hart h
  let base := x.u.mbtab.toNat * 256
  (List.range 8).foldl (fun s i =>
    let ws := if base < spadSize then wordsOf (s.view h none (spadLoc (coreOf h) (base + 32 * i)) 32) 4 else [0, 0, 0, 0]
    s.modMb h i fun b => b.reread ws x.t.ptroot x.t.pspace) s

def execMbtabWrite (k : CsrKind) (d : RegNo) (s : State) : Out :=
  csrGate 0x024 s fun s =>
    let v := csrNew k (s.me.u.mbtab.setWidth 64 <<< 8) (s.rd d)
    let s := s.modMe fun x => { x with u := { x.u with mbtab := v.extractLsb' 8 9 } }
    serialDone (s.rereadTable s.cx.hart)

/-! ## Arrival -/

/-- A message that comes in from a hart of a peer package, or with j = 1 from the host: header v, payload `bytes`, sender w.
-/
def outsideMsg (x : EvArgs) : Msg :=
  { hdr := w64 (x.v.toNat / 2 ^ 21 * 2 ^ 21), pay := wordsOf x.bytes (Hdr.len x.v), origin := if x.j == 1 then 1 else 2
    sender := BitVec.ofNat 15 x.w }

/-- A message of a peer comes in over a trained port, one of the host over its link (R326, R377; log 9), for a cluster of a
live partition. -/
def State.outsideSends (s : State) (m : Msg) : State :=
  let g := Hdr.hart m.hdr / 256
  let p := match s.partOf g with
    | some p => some p
    | none => (List.range Config.nParts).find? fun p => (s.part p).holds g
  if (if m.origin == 1 then !s.boot.hostLink else s.trained == []) || Hdr.pkg m.hdr != s.pkgnum.toNat || p.isNone then s
  else { s with net := s.net ++ [{ m with part := p }] }

/-- The report of a peer's sluice or host port (R337). -/
def fateOf (v : Word) : Word := match v.toNat % 3 with | 0 => 1 | 1 => 2 | _ => BitVec.allOnes 64

/-- MESSAGE_ADMIT (i = message): the sluice decides the arriving message (R329). A message for a peer leaves the package,
and the peer's report (v) goes to a waiting SENDW. With ok set, a message of the host or a peer comes in instead. -/
def execMessageAdmit (s : State) : Out :=
  if s.ev.ok then .next (s.outsideSends (outsideMsg s.ev))
  else
    match s.net[s.ev.i]? with
    | none => .next s
    | some m =>
      if !s.arrived s.ev.i m then .next s
      else
        match s.dest m with
        | .mailbox h x => .next (s.atHart h m.part fun s => s.accept s.ev.i m h x)
        | .peer => .next ((s.unsend s.ev.i).fate m (fateOf s.ev.v))
        | _ => .next s

/-- SPILLWAY_MOVE (i = hart, j = mailbox). -/
def execSpillwayMove (s : State) : Out :=
  if Config.nHarts ≤ s.ev.i || 8 ≤ s.ev.j then .fault .noSuchUnit
  else
    match s.spillMove s.ev.i s.ev.j with
    | some t => .next t
    | none => .next (s.spillWait s.ev.i s.ev.j)

/-- EVENT_MESSAGE (i = message): the event flag of the destination is set (R338). A SENDW of an event message receives a
report whose value spec/ does not state. -/
def execEventMessage (s : State) : Out :=
  match s.net[s.ev.i]? with
  | none => .next s
  | some m =>
    match s.dest m with
    | .event h =>
      if !s.arrived s.ev.i m then .next s
      else
        let s := (s.unsend s.ev.i).atHart h m.part fun s => s.modHart h fun x => { x with event := true }
        .next (s.fate m (Config.freeWord s.steps))
    | _ => .next s

/-! ## Dispatch (R334, R335) -/

/-- The hart is open for dispatch. -/
def Hart.openFor (x : Hart) : Bool :=
  x.t.ie && !x.t.utrap && !x.h.running && x.st == .active && x.boundary
    && (match x.hold with | some k => !k.isResume | none => true)

/-- The header of the oldest message of a mailbox whose ring holds it. -/
def State.oldestHdr (s : State) (h x : Nat) : Option Word :=
  if 0 < (s.mb h x).ringCount then (s.headWords h x)[0]? else none

/-- The route class of the oldest message of a mailbox, if it may be dispatched. -/
def State.candidate (s : State) (h x : Nat) : Option Nat :=
  let k := s.hart h
  match s.oldestHdr h x with
  | some hdr => if k.u.mben.getLsbD x && !k.u.classmask.getLsbD (Hdr.cls hdr) then some (Hdr.cls hdr) else none
  | none => none

/-- The mailbox to dispatch from: the highest class, round robin after the last one. -/
def State.choose (s : State) (h : Nat) : Option Nat :=
  let order := (List.range 8).map fun i => ((s.hart h).h.last + 1 + i) % 8
  let cand := order.filterMap fun x => (s.candidate h x).map fun c => (x, c)
  let top := cand.foldl (fun m c => max m c.2) 0
  (cand.find? fun c => c.2 == top).map (·.1)

/-- The hart enters the handler of the oldest message of mailbox x, which its ring holds. The first uncorrectable word of the
slot is kept for the handler's first chain (R379). -/
def State.dispatch (s : State) (h x : Nat) : State :=
  let s := (s.take h).unwait h false
  let b := s.mb h x
  let a := s.ringLoc h x b.ringHead
  let s := s.wake a 64
  let bad := ((List.range 8).find? fun i => s.eccBad (a + 8 * i) 8).map fun i =>
    w64 (0xA0 * 2 ^ 56 + (a + 8 * i - Config.spadKey))
  let ws := s.headWords h x
  let hdr := ws.getD 0 0
  let ov := bit hdr 0 && !bit hdr 20
  let len := Hdr.len hdr
  let s := s.modMb h x fun b =>
    { b with ringCount := b.ringCount - 1, ringHead := b.ringHead + 1, counts := b.counts.drop 1 }.ringFell.settle
  s.modHart h fun k =>
    let k := (List.range 8).foldl (fun k i =>
      k.setReg (4 + i) (if i ≤ len || (ov && i == 7) then ws.getD i 0 else 0)) k
    { k with
      h := { running := true, hpc := k.pc, mb := x, tracked := b.counts.getD 0 false, last := x, bad := bad }
      pc := if ov then evenWord (ws.getD 7 0) else b.handler, span := {}, waited := 0 }

/-- The first enabled mailbox whose oldest message is in its spillway: that moves to the ring before the hart's next message is
chosen (R329, R334). -/
def State.spilled (s : State) (h : Nat) : Option Nat :=
  (List.range 8).find? fun x =>
    let b := s.mb h x
    b.ringCount == 0 && b.spillCount != 0 && (s.hart h).u.mben.getLsbD x

/-- DISPATCH (i = hart). -/
def execDispatch (s : State) : Out :=
  let h := s.ev.i
  if Config.nHarts ≤ h then .fault .noSuchUnit
  else if !(s.hart h).openFor || s.withheld h || s.scopeHeld h then .next s
  else
    match s.spilled h with
    | some x => .next ((s.spillMove h x).getD (s.spillWait h x))
    | none => .next (match s.choose h with | none => s | some x => s.dispatch h x)

/-! ## Active messages (R340, R341) -/

/-- The status of a check of an owner-side word or of the destination: the negated cause code. -/
def activeCheck (s : State) (p : Option Nat) (c : Nat) (off n : Nat) : Option Nat :=
  if off % 8 != 0 then some Cause.misaligned
  else if spadSize < off % 2 ^ 17 + n || 2 ^ 17 ≤ off then some Cause.straddle
  else if !s.inSet p (c / 64) then some Cause.permission
  else if s.eccBad (spadLoc c off) n then some Cause.ecc
  else none
/-- The destination of a gather: a coordinate-absolute address of the partition's clusters. -/
def gatherDest (s : State) (p : Option Nat) (va : Word) (n : Nat) : Option Nat :=
  if fld va 56 8 != 0xA0 || fld va 30 26 != 0 then some Cause.space
  else if va.toNat % 8 != 0 then some Cause.misaligned
  else if spadSize < fld va 0 17 + n then some Cause.straddle
  else if !s.inSet p (coreOfBits (fld va 0 30) / 64) then some Cause.permission
  else none

/-- The end of an active message: the reply, or the diversion of a failed one without a reply header. A SENDW of one that
is not diverted receives a report whose value spec/ does not state. -/
def activeEnd (s : State) (i : Nat) (m : Msg) (core : Nat) (status : Word) : Out :=
  let reply := m.pay.getD 0 0
  let t := s.unsend i
  let t :=
    if reply != 0 then
      t.deviceSend { hdr := withLen (w64 (reply.toNat / 2 ^ 21 * 2 ^ 21)) 1, pay := [status], origin := 3
                     sender := BitVec.ofNat 15 (core * 4), part := m.part }
    else if status.slt 0 then t.divertTo { m with counts := false, die := some (core / 1024) } 3 m.part else t
  .next (t.fate m (if reply == 0 && status.slt 0 then BitVec.allOnes 64 else Config.freeWord s.steps))

/-- A release or a send has gone ahead of earlier stores for the agents of core `c`: no event of an active message takes place
there before those are performed (R129, R341). -/
def State.coreHeld (s : State) (c : Nat) : Bool :=
  s.harts.any fun kx => kx.2.sbuf.any fun e => e.due != 0 && sameScope e.due kx.1 (4 * c)

/-- An active message takes its turn at the banks that it needs (R43, R44), or waits there. -/
def State.activeTurn (s : State) (i : Nat) (m : Msg) (asks : List PadWait) (k : State → Out) : Out :=
  let asks := asks.map fun w => w.kept (m.pads.find? fun o => o.core == w.core && o.words == w.words)
  if asks.all (s.padTurn (· == .sluice)) then k s
  else .next { s with net := s.net.set i { m with pads := asks } }

/-- The 8-byte words of `n` bytes at each offset of a scratchpad. -/
def wordsAt (offs : List Nat) (n : Nat) : List Nat := (offs.flatMap fun o => spadWords o n).eraseDups

def negCode (c : Nat) : Word := wInt (-(c : Int))

/-- ACTIVE_GATHER (i = message). -/
def execActiveGather (s : State) : Out :=
  match s.net[s.ev.i]? with
  | none => .next s
  | some m =>
    match s.dest m with
    | .gather c =>
      if !s.arrived s.ev.i m || s.coreHeld c then .next s
      else
        let w := m.pay.getD 2 0
        let n := fld w 32 16
        let l := fld w 0 32
        let offs := (List.range n).map fun k => (m.pay.getD (3 + k) 0).toNat
        let d := m.pay.getD 1 0
        let bad := (offs.filterMap fun o => activeCheck s m.part c o l) ++ (gatherDest s m.part d (n * l)).toList
        match bad with
        | e :: _ => activeEnd s s.ev.i m c (negCode e)
        | [] =>
          let base := Config.spadKey + fld d 0 30
          s.activeTurn s.ev.i m
            [s.ask c (wordsAt offs l) true 5, s.ask (padCore base) (wordsAt [base % 2 ^ 17] (n * l)) false 5] fun s =>
          let t := offs.zipIdx.foldl (fun t ok =>
            (t.wake (spadLoc c ok.1) l).putSpad (base + ok.2 * l) (t.readBytes none (spadLoc c ok.1) l)) s
          activeEnd t s.ev.i m c 1
    | _ => .next s

/-- The pairs of a scatter: offset and value. -/
def pairsOf : List Word → List (Nat × Word)
  | o :: v :: t => (o.toNat, v) :: pairsOf t
  | _ => []

/-- ACTIVE_SCATTER (i = message). -/
def execActiveScatter (s : State) : Out :=
  match s.net[s.ev.i]? with
  | none => .next s
  | some m =>
    match s.dest m with
    | .scatter c =>
      if !s.arrived s.ev.i m || s.coreHeld c then .next s
      else
        let ps := pairsOf (m.pay.drop 1)
        let bad := ps.filterMap fun p =>
          match activeCheck s m.part c p.1 8 with
          | some e => if e == Cause.ecc then none else some e
          | none => none
        match bad with
        | e :: _ => activeEnd s s.ev.i m c (negCode e)
        | [] =>
          s.activeTurn s.ev.i m [s.ask c (wordsAt (ps.map (·.1)) 8) false 5] fun s =>
          let t := ps.foldl (fun t p => t.putSpad (spadLoc c p.1) (toBytes 8 p.2.toNat)) s
          activeEnd t s.ev.i m c 1
    | _ => .next s

/-! ## Host queues (R342, R399) -/

def HostQ.full (q : HostQ) : Bool := !q.en || 2 ^ q.lgsize ≤ (q.tail - q.head).toNat

/-- The partition whose host queues take a message. The spec names no queue for a sender of no partition (a hart of the
monitor, the notices of R375 and R378): the model takes those of partition 0 (DESIGN CHOICE; log 35). -/
def Msg.hostPart (m : Msg) : Nat := m.part.getD 0

/-- Message `i` waits at the bridgehead: the first one starts the queue's flood episode (R331, R342). -/
def State.hostWait (s : State) (i : Nat) (m : Msg) : State :=
  let p := m.hostPart
  let k := Hdr.mb m.hdr
  let q := Tab.get ({} : HostQ) (s.part p).hqs k
  let s := { s with net := s.net.set i { m with waiting := true } }
  if q.flood then s
  else
    let s := s.modPart p fun x =>
      { x with hqs := Tab.put x.hqs k { q with flood := true }, pmflood := satInc x.pmflood }
    { s with net := s.net ++
        [{ hdr := withLen m.hdr 0, origin := m.origin, sender := m.sender, err := some 4, part := some p }] }

/-- HOST_QUEUE_WRITE (i = message): the queue ignores a handler override (R335); the reduced service writes none (R411). -/
def execHostQueueWrite (s : State) : Out :=
  match s.net[s.ev.i]? with
  | none => .next s
  | some m =>
    match s.dest m with
    | .host =>
      let p := m.hostPart
      let k := Hdr.mb m.hdr
      let q := Tab.get ({} : HostQ) (s.part p).hqs k
      if !s.arrived s.ev.i m || !s.boot.full then .next s
      else if q.full then .next (s.hostWait s.ev.i m)
      else
        let a := 8 * 2 ^ 48 + q.base + 128 * (q.tail.toNat % 2 ^ q.lgsize)
        let slot := { m with handler := false, pay := m.pay.take (Hdr.len m.hdr) }.slot
        let s := (s.wrWords a slot).wr8 (a + 64) (w64 q.tail.toNat)
        let s := s.modPart p fun x => { x with hqs := Tab.put x.hqs k { q with tail := q.tail + 1 } }
        .next ((s.unsend s.ev.i).fate m 2)
    | _ => .next s

end Sys2Proof.Machine
end

