-- ==== Sys2Proof/Machine/Barriers.lean ====
section
/-! DEFINITION. Barriers, all-reductions and quiescence (spec/19 R346, R355, R356, R358, R359). -/

namespace Sys2Proof.Machine

/-! ## Levels (R345, R346) -/

def Launch.domain (l : Launch) (k : Nat) : Nat := fld (l.words.getD (8 + k) 0) 53 3
def Launch.count (l : Launch) (k : Nat) : Nat := fld (l.words.getD (8 + k) 0) 0 32
/-- Level L is a fabric level: other packages take part. -/
def Launch.fabric (l : Launch) (k : Nat) : Bool := l.domain k == 7
/-- Harts of an instance of a domain: hart, core, tile, group, cluster, die, package. -/
def domainHarts : Nat → Nat
  | 0 => 1
  | 1 => 4
  | 2 => 16
  | 3 => 64
  | 4 => 256
  | 5 => 4096
  | _ => 32768
/-- Harts of the domain instance that an instance of level L lies in. -/
def Launch.extent (l : Launch) (k : Nat) : Nat :=
  if k + 1 < l.nlev then domainHarts (l.domain (k + 1)) else Config.nHarts

/-- The launch-placed harts of an instance of level L that have not halted (R355). -/
def State.participants (s : State) (launch level : Nat) (inst : List Nat) : List Nat :=
  (s.harts.filter fun kx =>
    kx.2.launch == launch && !kx.2.spawned && kx.2.st != .free && kx.2.idx.drop (level + 1) == inst).map (·.1)

/-! ## Reduction (R356) -/

/-- One lane of an all-reduction; FFLAGS is unchanged. -/
def aredLane (op : Nat) (t : TypeCode) (x y : Nat) : Nat :=
  let w := WF.width t
  let f := fmtOf t
  match op with
  | 0 => if WF.isFloat t then (fAdd f x y).1 else wrapInt w (laneInt t x + laneInt t y)
  | 1 => if WF.isFloat t then (fMin f x y).1 else if laneInt t y < laneInt t x then y else x
  | 2 => if WF.isFloat t then (fMax f x y).1 else if laneInt t x < laneInt t y then y else x
  | _ => x ||| y
/-- One word of lanes. -/
def aredWord (op : Nat) (t : TypeCode) (x y : Word) : Word :=
  let w := WF.width t
  w64 (packNat w ((List.range (64 / w)).map fun i => aredLane op t (x.toNat / 2 ^ (w * i) % 2 ^ w) (y.toNat / 2 ^ (w * i) % 2 ^ w)))
def aredWords (op : Nat) (t : TypeCode) (xs ys : List Word) : List Word := List.zipWith (aredWord op t) xs ys

/-- Neighbours that lie in one instance of a domain are folded from the left. -/
def mergeRuns (f : List Word → List Word → List Word) : List (Nat × List Word) → List (Nat × List Word)
  | [] => []
  | x :: t => (t.foldl (fun (acc : List (Nat × List Word)) y =>
      match acc with
      | (j, v) :: r => if j == y.1 then (j, f v y.2) :: r else y :: acc
      | [] => [y]) [x]).reverse

/-- The fold over the physical domains, innermost first, each in ascending index. -/
def domainFold (f : List Word → List Word → List Word) (vs : List (Nat × List Word)) : List Word :=
  let r := [4, 4, 4, 4, 16, 8].foldl (fun vs k => mergeRuns f (vs.map fun iv => (iv.1 / k, iv.2))) vs
  (r.map (·.2)).headD []

/-- Insertion by hart number. -/
def insertHart (a : Nat × List Word) : List (Nat × List Word) → List (Nat × List Word)
  | [] => [a]
  | b :: t => if a.1 < b.1 then a :: b :: t else b :: insertHart a t

/-- The result of an episode; across a fabric the packages' values are folded by prank. -/
def State.aredResult (s : State) (e : Episode) : List Word :=
  let l := s.launch e.launch
  let f := aredWords e.op e.t
  let own := domainFold f ((e.arrived.map fun a => (a.1, a.2.2)).foldl (fun r a => insertHart a r) [])
  if l.fabric e.level then
    let prank := fld (l.words.getD 2 0) 8 10
    let vals := (List.range (l.count e.level)).map fun p =>
      if p == prank then own else (List.range e.w).map fun w => Config.peerWord s.steps p w
    match vals with
    | [] => own
    | v :: vs => vs.foldl f v
  else own

/-! ## Episodes (R355) -/

/-- A participant's BAR or ARED completes: at once if the hart is held there, or when it runs it again. -/
def State.barDone (s : State) (n h : Nat) : State :=
  match (s.hart h).hold with
  | some ⟨.barrier m, _, _, _⟩ =>
    if m == n then (s.release h [.scalar 0 1]).modHart h fun x => { x with arrived := x.arrived.filter (· != n) } else s
  | _ => s

/-- The episode completes: the buffers receive the result, and every participant completes. -/
def State.completeEpisode (s : State) (p : Nat) (e : Episode) : State :=
  let same (d : Episode) : Bool := d.n == e.n && d.launch == e.launch && d.inst == e.inst && d.level == e.level
  let s := s.modPart p fun x => { x with episodes := x.episodes.filter fun d => !same d }
  let s :=
    if e.ared then
      let r := s.aredResult e
      e.arrived.foldl (fun s a =>
        let ws := if e.mixed then (List.range a.2.2.length).map fun i => Config.peerWord s.steps a.1 i else r
        s.putSpad a.2.1 (bytesOf ws)) s
    else s
  e.arrived.foldl (fun s a => s.barDone e.n a.1) s

/-- Every participant has arrived, and the peers of a fabric level are ready. -/
def State.episodeFull (s : State) (e : Episode) : Bool :=
  (s.participants e.launch e.level e.inst).all (fun h => e.arrived.any (·.1 == h))
    && (!(s.launch e.launch).fabric e.level || Config.peersReady s.steps)

/-- Completes the episodes of a launch that a halt has filled; one without arrivals left is closed. -/
def State.settleBarriers (s : State) (p launch : Nat) : State :=
  (s.part p).episodes.foldl (fun s e =>
    if e.launch == launch && s.episodeFull e then s.completeEpisode p e else s) s

/-- The halted hart leaves every barrier of its launch (R349). -/
def State.leaveBarriers (s : State) (p h launch : Nat) : State :=
  if (s.part p).episodes == [] then s
  else
    let s := s.modPart p fun x =>
      { x with episodes := (x.episodes.map fun e => { e with arrived := e.arrived.filter (·.1 != h) }).filter (·.arrived != []) }
    s.settleBarriers p launch

/-- An arrival at barrier n of level L. -/
structure Arrival where
  n : Nat
  level : Nat
  ared : Bool
  op : Nat
  t : TypeCode
  w : Nat
  loc : Nat
  words : List Word

/-- The scope that an arrival releases at: its level's; an ARED whose buffer the hart has stored to goes after those stores,
so that the result is not overwritten. -/
def Arrival.scope (a : Arrival) (s : State) : Nat :=
  if s.me.sbuf.any fun e => e.overlaps a.loc (8 * a.words.length) then 5 else (s.launch s.me.launch).scope a.level

/-- The arrival of the current hart, or its refusal (R355). -/
def arrive (a : Arrival) (s : State) : Out :=
  let h := s.cx.hart
  let x := s.me
  let p := x.barriers
  let es := (s.part p).episodes
  let mine := es.find? fun e => e.n == a.n && e.launch == x.launch && x.idx.drop (e.level + 1) == e.inst
  if x.spawned then finish (s.deferC0 (-3))
  else if x.arrived.contains a.n then
    match es.find? fun e => e.n == a.n && e.arrived.any (·.1 == h) with
    | some e =>
      if s.episodeFull e then
        match holdAt (.barrier a.n) s with
        | .next t => .next (t.completeEpisode p e)
        | o => o
      else holdAt (.barrier a.n) s
    | none => finish ((s.modMe fun x => { x with arrived := x.arrived.filter (· != a.n) }).deferC0 1)
  else if es.any fun e => e.n == a.n && e.launch != x.launch then finish (s.deferC0 (-2))
  else
    let e : Episode := match mine with
      | some e => e
      | none => { n := a.n, launch := x.launch, level := a.level, inst := x.idx.drop (a.level + 1), ared := a.ared
                  op := a.op, t := a.t, w := a.w }
    if e.level != a.level || e.ared != a.ared then finish (s.deferC0 (-1))
    else
      orderedIn (a.scope s) s fun s =>
        let mixed := e.mixed || !(e.op == a.op && e.t == a.t && e.w == a.w)
        let e' := { e with arrived := e.arrived ++ [(h, a.loc, a.words)], mixed := mixed }
        let s := s.modPart p fun x =>
          { x with episodes := x.episodes.filter (fun d => !(d == e)) ++ [e'] }
        let s := s.modMe fun x => { x with arrived := x.arrived ++ [a.n] }
        match holdAt (.barrier a.n) s with
        | .next t => .next (if t.episodeFull e' then t.completeEpisode p e' else t)
        | o => o

/-- The level has to exist in the launch (R355). -/
def levelOk (l : Nat) (s : State) (k : State → Out) : Out :=
  if (s.launch s.me.launch).nlev ≤ l then illegal s else k s

def execBar (n : BitVec 4) (l : BitVec 3) (s : State) : Out :=
  levelOk l.toNat s (arrive
    { n := n.toNat, level := l.toNat, ared := false, op := 0, t := 0, w := 0, loc := 0, words := [] })

/-- ARED: the buffer lies in the own core's scratchpad (R356). -/
def execAred (o : AredOp) (s : State) : Out :=
  let h := s.cx.hart
  let va := s.rd o.a
  let w := o.w1.toNat + 1
  levelOk o.l.toNat s fun s =>
    match classify h va with
    | .coord x =>
      if va.toNat % 8 != 0 then trap Cause.misaligned va s
      else if spadSize < x % 2 ^ 17 + 8 * w then trap Cause.straddle va s
      else if coreOfBits x != coreOf h then trap Cause.permission va s
      else
        let loc := Config.spadKey + x
        (readPlace h ({ key := loc } : Place) (8 * w) 0 va s).out .load fun bs s =>
          arrive { n := o.n.toNat, level := o.l.toNat, ared := true, op := o.op.toNat, t := o.t, w := w
                   loc := loc, words := wordsOf bs w } s
    | _ => trap Cause.space va s

/-! ## Quiescence (R358, R359) -/

/-- QADD; a negative value is a release. -/
def execQadd (v : RegOrImm) (s : State) : Out :=
  let x := s.rv v
  let go (s : State) : Out := finish (s.qAdd (coreOf s.cx.hart) s.me.launch x.toInt)
  if x.slt 0 then orderedIn (s.launch s.me.launch).outerScope s go else go s

/-- QWAIT L: the outermost level without an operand. -/
def execQwait (l : Option (BitVec 3)) (s : State) : Out :=
  let level := match l with | some l => l.toNat | none => (s.launch s.me.launch).nlev - 1
  levelOk level s fun s =>
    holdAt (.qwait level) (s.modPart s.me.barriers fun x =>
      { x with qwaits := x.qwaits.filter (·.h != s.cx.hart) ++ [{ h := s.cx.hart, level := level }] })

/-- A hart that is halted, or in QWAIT, its registration kept by a save, or held in WFE or BAR, which ARED is not, with nothing
dispatchable. -/
def State.quiet (s : State) (h : Nat) : Bool :=
  let x := s.hart h
  let idle := !(x.openFor && (s.choose h).isSome)
  match x.st, x.hold with
  | .free, _ => true
  | .active, some ⟨.qwait _, _, _, _⟩ => true
  | .saved, _ => (s.part x.barriers).qwaits.any (·.h == h)
  | .active, some ⟨.wfe, _, _, _⟩ => idle && !x.event
  | .active, some ⟨.barrier n, _, _, _⟩ =>
    idle && !(s.part x.barriers).episodes.any fun e => e.n == n && e.ared && e.arrived.any (·.1 == h)
  | _, _ => false

/-- QUIESCENCE_COLLECTION (i = hart): one of the two collections for the QWAIT of hart i (R359). -/
def execQuiescenceCollection (s : State) : Out :=
  let h := s.ev.i
  if Config.nHarts ≤ h then .fault .noSuchUnit
  else
    let p := (s.hart h).barriers
    match (s.hart h).hold with
    | some ⟨.qwait _, _, _, _⟩ =>
      match (s.part p).qwaits.find? (·.h == h) with
      | none => .next s
      | some q =>
        let l := (s.hart h).launch
        let ext := (s.launch l).extent q.level
        let counts := (s.cores.filter fun kc => kc.1 * 4 / ext == h / ext).map fun kc => Tab.get (0, 0) kc.2.qcount l
        let zero := (counts.map (·.1)).sum == 0
        let set (first : Option (List (Int × Nat))) (s : State) : State :=
          s.modPart p fun x => { x with qwaits := x.qwaits.map fun d => if d.h == h then { d with first := first } else d }
        match q.first with
        | none => .next (set (if zero then some counts else none) s)
        | some c0 =>
          let harts := s.harts.filter fun kx => kx.2.launch == l && kx.1 / ext == h / ext
          let peers := !(s.launch l).fabric q.level || Config.peersReady s.steps
          if zero && c0 == counts && harts.all (fun kx => s.quiet kx.1) && peers then
            let s := s.modPart p fun x => { x with qwaits := x.qwaits.filter (·.h != h) }
            .next (s.release h [.scalar 0 1])
          else .next (set none s)
    | _ => .next s

end Sys2Proof.Machine
end

