-- ==== Sys2Proof/Machine/VecRegs.lean ====
section
/-! DEFINITION. Vector, mask and stream operands: what a source reads, what a destination takes, predicates (spec/02 R34 to
R40, spec/08 R182, spec/12 R244, R245, R267 to R269). -/

namespace Sys2Proof.Machine

/-! ## Streams (R267, R269) -/

def Stream.total (t : Stream) : Nat := t.counts.foldl (· * ·) 1
/-- The address of element `e` : dimension 0 varies fastest. -/
def elementOff : List Nat → List Word → Nat → Word
  | c :: cs, d :: ds, e => w64 (e % c) * d + elementOff cs ds (e / c)
  | _, _, _ => 0
def Stream.addr (t : Stream) (e : Nat) : Word := t.base + elementOff t.counts t.strides e

def State.stream (s : State) (h n : Nat) : Stream := Tab.get {} (s.hart h).streams n
def State.modStream (s : State) (h n : Nat) (f : Stream → Stream) : State :=
  s.modHart h fun x => { x with streams := Tab.put x.streams n (f (Tab.get {} x.streams n)) }

/-- The read of an element of stream `n` at its checked place: what comes from host memory arrives in eight requests, one after
the other (R228, R394). -/
def readElement (h n : Nat) (p : Place) (va : Word) (s : State) : Look (List Byte) :=
  (readFirst h p 64 0 s).bind fun _ s =>
    if isHost p.key then
      let t := s.stream h n
      if t.got.any (!·.1) then .trap Cause.permission va (s.modStream h n fun t => { t with look := none, got := [] })
      else if t.got.length == 8 then .ok (t.got.flatMap (·.2)) s
      else if s.hostOut.any fun o => o.h == h && o.stream == some n then .host (some n) s
      else if (s.requestCut h p.key).isSome then .gone (s.lose h va (s.hart h).pc true)
      else .host (some n) (s.request h (some n) (p.key + 8 * t.got.length) 8 (va + w64 (8 * t.got.length)))
    else overLink h (some n) p.key va s (readLocal true false h (some n) { p with vec := true } 64 va s)

/-- Fetches the next element into the buffer of a read stream (R269): a pop past the last element raises
STREAM_UNBOUND. -/
def fetchElement (h n : Nat) (s : State) : Look VWord :=
  let t := s.stream h n
  let e := t.pos + t.buf.length
  if t.total ≤ e then .trap Cause.streamUnbound (w64 n) s
  else
    let look : Look Place :=
      match t.look with
      | some p => .ok p s
      | none =>
        (access (s.who h) .load (t.addr e) 64 64 s).bind fun p s => .ok p (s.modStream h n fun t => { t with look := some p })
    look.bind fun p s => (readElement h n p (t.addr e) s).bind fun bs s =>
      let v := vOfBytes bs
      .ok v (s.modStream h n fun t => { t with buf := t.buf ++ [{ data := v }], look := none, got := [], wait := none })

/-! ## Sources -/

/-- v0 to v31 as committed. -/
def State.vreg (s : State) (h r : Nat) : VWord :=
  let x := s.hart h
  if r < 16 then Tab.get 0 x.v r
  else
    match (if r < 24 then x.slotA else x.slotB) with
    | some o => s.octReg (coreOf h) o (r % 8)
    | none => 0

/-- The register may be named: an own one, or one of a slot that is held and was not filled in this span (R34, R266). -/
def Hart.named (x : Hart) (r : Nat) : Bool :=
  r < 16 || (if r < 24 then x.slotA.isSome && !x.freshA else x.slotB.isSome && !x.freshB)

/-- One source operand; `used` are the sources of the instruction before it, whose pops come first. -/
def vread1 (h : Nat) (used : List RegNo) (r : RegNo) (s : State) : Look VWord :=
  let i := r.toNat
  if i < 32 then
    if (s.hart h).named i then .ok (s.vreg h i) s else .trap Cause.vregNotHeld (w64 i) s
  else
    let n := i - 32
    let t := s.stream h n
    if !t.bound || t.wr then .trap Cause.streamUnbound (w64 n) s
    else
      match t.buf[used.count r]? with
      | some e => .ok e.data s
      | none => fetchElement h n s

def vreadList (h : Nat) : List RegNo → List RegNo → State → Look (List VWord)
  | _, [], s => .ok [] s
  | used, r :: rs, s =>
    (vread1 h used r s).bind fun v s => (vreadList h (used ++ [r]) rs s).bind fun vs s => .ok (v :: vs) s

/-- The pops of the sources, once the instruction executes (R181, R182). -/
def State.pops (s : State) (h : Nat) (rs : List RegNo) : State :=
  rs.foldl (fun s r =>
    if r.toNat < 32 then s
    else s.modStream h (r.toNat - 32) fun t => { t with buf := t.buf.drop 1, pos := t.pos + 1 }) s

/-- The instruction goes on with its vector sources. -/
def vsrcs (rs : List RegNo) (s : State) (k : List VWord → State → Out) : Out :=
  (vreadList s.cx.hart [] rs s).out .load k

/-! ## Destinations -/

/-- Pushes of a stream that the open span has deferred. -/
def Hart.pushes (x : Hart) (n : Nat) : Nat :=
  (x.span.pend.filter fun p => match p with | .push m _ => m == n | _ => false).length

/-- The destination is checked (R34, R40, R269), and answers the deferred write that it takes. A push is held while four
elements wait to be written, those that the open span has deferred among them (R40, R182). -/
def vdst (d : RegNo) (s : State) (k : (VWord → Pend) → State → Out) : Out :=
  let h := s.cx.hart
  let i := d.toNat
  if i < 32 then
    if s.me.named i then k (fun v => .vec i v) s else trap Cause.vregNotHeld (w64 i) s
  else
    let n := i - 32
    let t := s.stream h n
    let e := t.pos + s.me.pushes n
    if !t.bound || !t.wr || t.total ≤ e then trap Cause.streamUnbound (w64 n) s
    else if 4 ≤ t.buf.length + s.me.pushes n then holdAt (.streamFull n) s
    else
      (checked h .store (t.addr e) 64 64 s).out .store fun p s =>
        k (fun v => .push n { data := v, key := p.key, enc := p.enc, so := p.so, va := t.addr e, born := s.steps }) s

/-- What the inactive lanes of destination D keep: its old value, and for a pushed element a value that spec/ does not
state (R244; log 4). -/
def State.oldDst (s : State) (d : RegNo) : VWord :=
  if d.toNat < 32 then s.vreg s.cx.hart d.toNat else Config.freeVec s.steps

/-! ## Predicates (R244) -/

/-- Bit `i` of the predicate: select 0 leaves every lane active. -/
def State.active (s : State) (m : BitVec 3) (i : Nat) : Bool := m == 0 || (Tab.get 0 s.me.m m.toNat).getLsbD i
def State.mask (s : State) (m : BitVec 3) : Word := Tab.get 0 s.me.m m.toNat

/-- The lanes of a result: the new ones where active, the old ones elsewhere. -/
def State.merge (s : State) (w : Nat) (m : BitVec 3) (d : RegNo) (new : List Nat) : VWord :=
  let old := s.oldDst d
  packLanes w (new.zipIdx.map fun xi => if s.active m xi.2 then xi.1 else lane w old xi.2)

/-- The flags of the active lanes. -/
def State.laneFlags (s : State) (m : BitVec 3) (fs : List Flags) : Flags :=
  fs.zipIdx.foldl (fun acc fi => if s.active m fi.2 then acc ||| fi.1 else acc) 0
/-- The deferred write of flags, if any (R61). -/
def flagPend (f : Flags) : List Pend := if f == 0 then [] else [.flags f]

/-! ## Operand forms (R245) -/

/-- A lane-wise operand: the lanes of a register, or one immediate in every lane. -/
def immLanes (t : TypeCode) (v : Word) : VWord :=
  packLanes (WF.width t) (List.replicate (lanesOf t) (v.toNat % 2 ^ WF.width t))

/-- The registers that x and y are read from: A and B, A, or D and A. -/
def vSources (d a : RegNo) : Src3 → List RegNo
  | .none => [d, a]
  | .reg b => [a, b]
  | .imm _ => [a]
/-- x and y from the values read. -/
def vXy (t : TypeCode) (y : Src3) (vs : List VWord) : VWord × VWord :=
  match y with
  | .imm v => (vs.getD 0 0, immLanes t v)
  | _ => (vs.getD 0 0, vs.getD 1 0)

/-- The end of a vector instruction: its sources are popped, its results deferred. -/
def vfinish (rs : List RegNo) (ps : List Pend) (s : State) : Out := finish ((s.pops s.cx.hart rs).defer ps)

/-- The deferred writes of lane results under a predicate, with their flags (R244). -/
def lanePends (w : Nat) (m : BitVec 3) (d : RegNo) (put : VWord → Pend) (rs : List Flagged) (s : State) : List Pend :=
  put (s.merge w m d (rs.map (·.1))) :: flagPend (s.laneFlags m (rs.map (·.2)))

/-- A lane-wise instruction of two operands. -/
def laneOp (f : Nat → Nat → Flagged) (o : VOp) (s : State) : Out :=
  vsrcs (vSources o.d o.a o.y) s fun vs s =>
    vdst o.d s fun put s =>
      let w := WF.width o.t
      let (x, y) := vXy o.t o.y vs
      let rs := (List.range (lanesOf o.t)).map fun i => f (lane w x i) (lane w y i)
      vfinish (vSources o.d o.a o.y) (lanePends w o.m o.d put rs s) s

/-- A lane-wise instruction of three operands: the third is the old lane of D. -/
def laneOp3 (f : Nat → Nat → Nat → Flagged) (o : VOp) (s : State) : Out :=
  let srcs := vSources o.d o.a o.y ++ [o.d]
  vsrcs srcs s fun vs s =>
    vdst o.d s fun put s =>
      let w := WF.width o.t
      let (x, y) := vXy o.t o.y vs
      let d := vs.getLastD 0
      let rs := (List.range (lanesOf o.t)).map fun i => f (lane w x i) (lane w y i) (lane w d i)
      vfinish srcs (lanePends w o.m o.d put rs s) s

/-- A lane-wise unary instruction. -/
def laneUn (f : Nat → Flagged) (o : VUn) (s : State) : Out :=
  vsrcs [o.a] s fun vs s =>
    vdst o.d s fun put s =>
      let w := WF.width o.t
      let x := vs.getD 0 0
      let rs := (List.range (lanesOf o.t)).map fun i => f (lane w x i)
      vfinish [o.a] (lanePends w o.m o.d put rs s) s

end Sys2Proof.Machine
end

