-- ==== Sys2Proof/Machine/Octets.lean ====
section
/-! DEFINITION. The octet pool and the stream registers: VCLAIM, VGIVE, VTAKE, SBIND, SUNBIND and the steps that grant
claims, fetch and write elements (spec/02 R35 to R37, spec/12 R266 to R269). -/

namespace Sys2Proof.Machine

/-! ## Octets (R35, R36) -/

def State.octet (s : State) (c o : Nat) : Octet := Tab.get {} (s.core c).octets o
def State.setOctet (s : State) (c o : Nat) (x : Octet) : State :=
  s.modCore c fun k => { k with octets := Tab.put k.octets o x }
/-- An octet enters Free with its contents cleared (R36), and is no gift any more. -/
def State.freeOctet (s : State) (c o : Nat) : State :=
  (s.setOctet c o {}).modCore c fun k => { k with gifts := k.gifts.filter (· != o) }
def State.freeOctets (s : State) (c : Nat) : List Nat :=
  (List.range 4).filter fun o => (s.octet c o).st == .free
/-- The gifts pending to a hart, oldest first. -/
def State.giftsTo (s : State) (h : Nat) : List Nat :=
  (s.core (coreOf h)).gifts.filter fun o =>
    match (s.octet (coreOf h) o).st with | .given _ g => g == h | _ => false

def Hart.holdsOctet (x : Hart) : Bool := x.slotA.isSome || x.slotB.isSome
def Hart.putSlot (x : Hart) (b : Bool) (o : Option Nat) : Hart := if b then { x with slotB := o } else { x with slotA := o }

/-- VCLAIM joins the claim queue and is held until OCTET_GRANT (R266). -/
def execVclaim (two : Bool) (s : State) : Out :=
  let h := s.cx.hart
  let n := if two then 2 else 1
  if s.me.holdsOctet then trap Cause.claimWhileHolding 0 s
  else holdAt (.claim n) (s.modCore (coreOf h) fun k => { k with claims := k.claims ++ [{ h := h, n := n }] })

/-- The deferred writes of the registers of a slot reach it now. -/
def State.flushSlot (s : State) (slotB : Bool) : State :=
  let h := s.cx.hart
  let lo := if slotB then 24 else 16
  let mine (p : Pend) : Bool := match p with | .vec r _ => lo ≤ r && r < lo + 8 | _ => false
  let ps := s.me.span.pend
  ((ps.filter mine).foldl (State.land h) s).modHart h fun x =>
    { x with span := { x.span with pend := ps.filter fun p => !mine p } }

def execVgive (slotB : Bool) (rcv : Option (BitVec 2)) (s : State) : Out :=
  let h := s.cx.hart
  let c := coreOf h
  let r := if slotB then 24 else 16
  if !s.me.named r then trap Cause.vregNotHeld (w64 r) s
  else
    match (if slotB then s.me.slotB else s.me.slotA) with
    | none => trap Cause.vregNotHeld (w64 r) s
    | some o =>
      let s := (s.flushSlot slotB).modMe fun x => x.putSlot slotB none
      match rcv with
      | none => finish ((s.freeOctet c o).deferC0 0)
      | some g =>
        let g := c * 4 + g.toNat
        if (s.hart g).st == .free then finish ((s.freeOctet c o).deferC0 0)
        else
          let s := s.setOctet c o { s.octet c o with st := .given h g }
          let s := s.modCore c fun k => { k with gifts := k.gifts ++ [o] }
          finish ((s.modHart g fun x => { x with event := true }).deferC0 1)

def execVtake (s : State) : Out :=
  let h := s.cx.hart
  let c := coreOf h
  match s.giftsTo h with
  | [] => finish (s.deferC0 0)
  | o :: _ =>
    if s.me.slotA.isSome && s.me.slotB.isSome then finish (s.deferC0 (BitVec.allOnes 64))
    else
      let b := s.me.slotA.isSome
      let s := (s.setOctet c o { s.octet c o with st := .held h }).modCore c fun k =>
        { k with gifts := k.gifts.filter (· != o) }
      let s := s.modMe fun x => x.putSlot b (some o)
      finish ((s.modMe fun x => if b then { x with freshB := true } else { x with freshA := true }).deferC0 1)

/-- The restored octet `o` of a resumed hart holds its saved contents (R37). -/
def State.restoreOctet (s : State) (h o : Nat) (st : OctetSt) (data : List VWord) : State :=
  s.setOctet (coreOf h) o { st := st, data := data }

/-- The granted octets of a resume: held ones return to their slots, the others are gifts again (R37). -/
def State.grantResumed (s : State) (h : Nat) (os : List Nat) : State :=
  let x := s.hart h
  let nHeld := x.savedOctets.length
  let held := (os.take nHeld).zip x.savedOctets
  let gifts := (os.drop nHeld).zip x.savedGifts
  let s := held.foldl (fun s od => s.restoreOctet h od.1 (.held h) od.2) s
  let s := gifts.foldl (fun s od => s.restoreOctet h od.1 (.given h h) od.2) s
  let s := s.modCore (coreOf h) fun k => { k with gifts := gifts.map (·.1) ++ k.gifts }
  let slots := (x.savedSlots.zip (os.take nHeld))
  s.modHart h fun x =>
    let x := slots.foldl (fun x bo => x.putSlot bo.1 (some bo.2)) x
    { x with savedOctets := [], savedGifts := [], savedSlots := [] }

/-- A resumed hart becomes ready once neither a claim nor a lease of its resume is outstanding (R37, R292). -/
def State.resumeReady (s : State) (h : Nat) : State :=
  let x := s.hart h
  if x.savedOctets == [] && x.savedGifts == [] && x.savedLease.isNone then s.modHart h fun x => { x with hold := none }
  else s

/-- OCTET_GRANT (i = core): the head claim is granted whole once enough octets are free (R35). -/
def execOctetGrant (s : State) : Out :=
  let c := s.ev.i
  if Config.nCores ≤ c then .fault .noSuchUnit
  else
    match (s.core c).claims with
    | [] => .next s
    | q :: rest =>
      let os := (s.freeOctets c).take q.n
      if os.length < q.n then .next s
      else
        let s := s.modCore c fun k => { k with claims := rest }
        if q.resumed then .next ((s.grantResumed q.h os).resumeReady q.h)
        else
          let s := os.foldl (fun s o => s.setOctet c o { st := .held q.h }) s
          let s := s.modHart q.h fun x =>
            { x with slotA := os[0]?, slotB := os[1]?, freshA := true, freshB := true }
          .next (s.release q.h [])

/-! ## Streams (R267 to R269) -/

/-- A descriptor of 64 bytes, if it keeps R267. -/
def streamOf (wr : Bool) (bs : List Byte) : Option Stream :=
  let num (a n : Nat) : Nat := ofBytes ((bs.drop a).take n)
  let base := num 0 8
  let ndim := num 8 1
  let counts := (List.range 4).map fun i => if i < ndim then num (16 + 4 * i) 4 else 1
  let strides := (List.range 4).map fun i => if i < ndim then w64 (num (32 + 8 * i) 8) else 0
  if base % 64 == 0 && 1 ≤ ndim && ndim ≤ 4 && num 9 7 == 0 && counts.all (1 ≤ ·) && strides.all (·.toNat % 64 == 0)
  then some { bound := true, wr := wr, base := w64 base, ndim := ndim, counts := counts, strides := strides }
  else none

/-- The pushes to stream `n` that the open span has deferred enter its buffer now. -/
def State.flushPushes (s : State) (n : Nat) : State :=
  let h := s.cx.hart
  let mine (p : Pend) : Bool := match p with | .push m _ => m == n | _ => false
  let ps := s.me.span.pend
  ((ps.filter mine).foldl (State.land h) s).modHart h fun x =>
    { x with span := { x.span with pend := ps.filter fun p => !mine p } }

/-- The stores of an element that stream `n` writes: one for each 8-byte word, unordered among themselves (R115, R139). -/
def StreamEl.stores (e : StreamEl) (n : Nat) (x : Hart) : List StoreEnt :=
  (List.range 8).map fun i =>
    { base := e.key + 8 * i, bytes := ((vBytes e.data).drop (8 * i)).take 8, enc := e.enc, so := e.so, va := e.va + w64 (8 * i)
      pc := x.pc, mode := x.mode, born := e.born, vec := true, whole := true, stream := some n }

def Pend.isPush (n : Nat) : Pend → Bool
  | .push m _ => m == n
  | _ => false

/-- The oldest pushed element of a stream leaves its buffer. While a push is held, those that its span has deferred before it
keep arriving (R182; log 11). -/
def State.oldestPush (s : State) (h n : Nat) : Option (StreamEl × State) :=
  let x := s.hart h
  match (s.stream h n).buf with
  | e :: rest => some (e, s.modStream h n fun t => { t with buf := rest })
  | [] =>
    if x.hold.any (·.kind == .streamFull n) then
      match x.span.pend.find? (Pend.isPush n) with
      | some (.push _ e) =>
        let s := s.modHart h fun x => { x with span := { x.span with pend := x.span.pend.eraseP (Pend.isPush n) } }
        some (e, s.modStream h n fun t => { t with pos := t.pos + 1 })
      | _ => none
    else none

/-- The oldest pushed element of a write stream becomes stores of the hart, at its place in program order, once those of the
element before it have been performed. -/
def State.writeElement (s : State) (h n : Nat) : Option State :=
  let t := s.stream h n
  if !t.bound || !t.wr || (s.hart h).sbuf.any (·.stream == some n) then none
  else
    (s.oldestPush h n).map fun (e, s) =>
      s.modHart h fun x =>
        { x with sbuf := x.sbuf.filter (·.born < e.born) ++ e.stores n x ++ x.sbuf.filter fun d => !decide (d.born < e.born) }

/-- Every pushed element is written; none if one has to wait. -/
def State.writeElements (h n : Nat) : Nat → State → Option State
  | 0, s => s.drain h
  | k + 1, s =>
    if (s.stream h n).buf == [] then s.drain h
    else (s.drain h).bind fun s => (s.writeElement h n).bind (State.writeElements h n k)

/-- A stream that fetches no longer: what it has asked of the host is not waited for. -/
def State.clearStream (s : State) (h n : Nat) : State :=
  { s with hostOut := s.hostOut.filter fun o => !(o.h == h && o.stream == some n) }.modStream h n fun _ => {}

/-- The stream is released: a write stream once its elements are written, a read stream at once (R268). Elements that the open
span has pushed are written before (DESIGN CHOICE: R182 pushes them at the end of the span, R268 wants every pushed element
written first; log 11). -/
def unbind (n : Nat) (s : State) (k : State → Out) : Out :=
  let h := s.cx.hart
  if !(s.stream h n).bound then k s
  else if (s.stream h n).wr then
    let s := s.flushPushes n
    match State.writeElements h n (s.stream h n).buf.length s with
    | none => holdAt .again s
    | some t => if t.me.st == s.me.st then k (t.clearStream h n) else .next t
  else k (s.clearStream h n)

/-- SBIND: its check comes before the implicit SUNBIND, and a trap or a wait of the read of the descriptor leaves the stream as it
was before it (DEDUCED; log 11). -/
def execSbind (o : SBindOp) (s : State) : Out :=
  let n := o.n.toNat
  let h := s.cx.hart
  let va := s.rd o.a + o.off
  (checked h .load va 64 64 s).out .load fun p s =>
    unbind n s fun t =>
      match readPlace h p 64 0 va t with
      | .trap c a _ => trap c a s
      | .park r l a _ => parkAt r l Acc.load.code a s
      | .wait k _ => holdAccess k s
      | .host st u => askHost st (({ s with hostOut := u.hostOut } : State).modMe fun x => { x with done := u.me.done })
      | .gone t => .next t
      | .ok bs t =>
        match streamOf o.wr bs with
        | none => finish (t.deferC0 0)
        | some st => finish ((t.modStream h n fun _ => st).deferC0 1)
def execSunbind (n : BitVec 3) (s : State) : Out := unbind n.toNat s finish

/-- A stream fetches ahead; one that fails delivers nothing, and what has to wait has its place at the banks (R43, R70). -/
def State.fetchAhead (s : State) (h n : Nat) : State :=
  match fetchElement h n s with
  | .ok _ t | .gone t | .host _ t => t
  | .wait .again _ | .trap .. | .park .. => s
  | .wait k t => t.modStream h n fun x => { x with wait := some k }

/-- STREAM_FETCH (i = hart, j = stream): up to four elements are fetched ahead (R269), unless another hart's release holds the
scope of this one. -/
def execStreamFetch (s : State) : Out :=
  let h := s.ev.i
  let n := s.ev.j
  let t := s.stream h n
  if Config.nHarts ≤ h || 8 ≤ n then .fault .noSuchUnit
  else if !t.bound || t.wr || 4 ≤ t.buf.length || (s.hart h).st == .free || (s.hart h).st == .saved then .next s
  else if s.scopeHeld h || s.withheld h then .next s
  else .next (s.fetchAhead h n)

/-- STREAM_WRITE (i = hart, j = stream): the oldest pushed element goes on its way (R139, R269). -/
def execStreamWrite (s : State) : Out :=
  if Config.nHarts ≤ s.ev.i || 8 ≤ s.ev.j then .fault .noSuchUnit
  else
    match s.writeElement s.ev.i s.ev.j with
    | some t => .next t
    | none => .next s

end Sys2Proof.Machine
end

