-- ==== Sys2Proof/Machine/Homes.lean ====
section
/-! DEFINITION. The steps that perform issued stores at their homes, and the end of WAITT (spec/04 R78, spec/06 R122 to R126,
spec/02 R43 to R45, spec/09 R221, spec/10 R228, R229). Stores to control registers have the steps of Machine/RegSteps.lean. -/

namespace Sys2Proof.Machine

def State.modEntry (s : State) (h j : Nat) (f : StoreEnt → StoreEnt) : State :=
  s.modHart h fun x => { x with sbuf := x.sbuf.modify j f }

/-- An entry (i = hart, j = entry) that may be performed. -/
def entryStep (s : State) (k : Nat → Nat → StoreEnt → State) : Out :=
  let h := s.ev.i
  let j := s.ev.j
  if Config.nHarts ≤ h then .fault .noSuchUnit
  else
    match (s.hart h).sbuf[j]? with
    | none => .next s
    | some e => .next (if s.storeMay h j then k h j e else s)

/-- A scratchpad of another core. -/
def StoreEnt.remote (e : StoreEnt) (h : Nat) : Bool := isSpad e.base && padCore e.base != coreOf h
/-- A store to a control register. -/
def StoreEnt.toReg (e : StoreEnt) : Bool := isReg e.base && !isBoot e.base

/-- A store reaches its home, and waits there from now on (R43, R70). -/
def State.arrive (s : State) (h j : Nat) : State :=
  s.modEntry h j fun e =>
    if e.sent then e
    else { e with sent := true, came := s.tick, seen := if isSpad e.base then (s.core (padCore e.base)).grants else [] }

/-- The entries that are granted with entry `j`: itself, and of a vector store its lanes on the same scratchpad. -/
def State.together (s : State) (h j : Nat) (e : StoreEnt) : List (StoreEnt × Nat) :=
  (s.hart h).sbuf.zipIdx.filter fun d => d.2 == j || e.mate d.1
/-- Entry `j` can be performed now as far as its home is concerned. -/
def State.entryFree (s : State) (h j : Nat) (e : StoreEnt) : Bool :=
  s.homeFree (fun a => (s.together h j e).any fun d => a == .store h d.2) h (s.hart h).sbuf e

/-- STORE_PERFORM: a store to the boot SRAM, host memory or an available vault bank is performed; any other reaches its home,
where it waits for its bank. -/
def execStorePerform (s : State) : Out :=
  entryStep s fun h j e =>
    if e.toReg then s
    else if !isSpad e.base && s.entryFree h j e then s.performEntry h j e
    else s.arrive h j

/-- The write of a unit that stands `i`-th among those that wait may be made: what reached its bank before has been served. -/
def State.devFree (s : State) (i : Nat) (d : DevWrite) : Bool :=
  s.bankOpen d.pa d.since && !s.harts.any (fun kx => kx.2.waitsAt d.pa d.since)
    && (s.devPend.take i).all fun x => !sameBank x.pa d.pa

/-- A waiting write of a unit is made; a merge into an uncorrectable codeword is reported (R82). -/
def State.devServe (s : State) (i : Nat) (d : DevWrite) : State :=
  let t := { s with devPend := s.devPend.eraseIdx i }.devPut d.pa d.bytes
  match d.agent with
  | some h =>
    if s.eccBad d.pa d.bytes.length then t.machineCheck 2 (d.pa / 1024 % 8) h (w64 (d.pa / 8192 * 8192)) (w64 d.pa) else t
  | none =>
    if s.eccBad d.pa d.bytes.length then t.postCheck 2 (d.pa / 1024 % 8) 0 (w64 (d.pa / 8192 * 8192)) (w64 d.pa) else t

/-- VAULT_ACCESS: a store that waits at a vault is served once its bank is available (R78); with `ok` set a write of one of
the device's units (i = its place among those that wait). -/
def execVaultAccess (s : State) : Out :=
  if s.ev.ok then
    match s.devPend[s.ev.i]? with
    | none => .next s
    | some d => .next (if s.devFree s.ev.i d then s.devServe s.ev.i d else s)
  else
    entryStep s fun h j e =>
      if e.sent && isVault e.base && s.entryFree h j e then s.performEntry h j e else s

/-! ## Grants at a scratchpad (R42 to R45) -/

/-- Entry `j` and what goes with it are performed. -/
def State.grant (s : State) (h j : Nat) (e : StoreEnt) : State :=
  (s.together h j e).zipIdx.foldl (fun t di => t.performEntry h (di.1.2 - di.2) di.1.1) s

/-- Entry `j` is granted all its banks now: it and what goes with it may be performed, and no request is before it at any of
them. -/
def State.granted (s : State) (h j : Nat) (e : StoreEnt) : Bool :=
  s.entryFree h j e && (s.together h j e).all fun d => s.storeMay h d.2

/-- An access of a peer's copy engine comes in over a trained port: the endpoint is an absolute coordinate address, checked here
(R16, R17, R319), in a cluster of a resident partition (DESIGN CHOICE: R18 speaks of the issuer's partition, which lies in the
other package; log 9). One that fails is refused. -/
def State.peerAsks (s : State) (va : Word) (n : Nat) (data : Option (List Byte)) : State :=
  let x := fld va 0 30
  if s.trained == [] || !s.boot.full || n == 0 || 4096 < n then s
  else if fld va 56 8 != 0xA0 || fld va 30 26 != 0 || spadSize < x % 2 ^ 17 + n || (s.partOf (coreOfBits x / 64)).isNone then
    { s with answers := s.answers ++ [.unsupported] }
  else { s with peerPend := s.peerPend ++ [{ key := Config.spadKey + x, data := data, n := n }] }

/-- Request `i` of a peer is performed in class 5 in its turn, or waits (R43 to R45). A part of an uncorrectable word is reported,
and the bytes of one that is read carry the mark (R379). -/
def State.peerServe (s : State) (i : Nat) (x : PeerReq) : State :=
  let a := x.key
  let n := x.n
  let w := (s.ask (padCore a) (spadWords (a % 2 ^ 17) n) x.data.isNone 5).kept x.pad
  if !s.padTurn (· == .peer i) w then { s with peerPend := s.peerPend.set i { x with pad := some w } }
  else
    let s := { s with peerPend := s.peerPend.eraseIdx i }
    let s := if x.data.isSome then s.renew a n else s
    let bad := (List.range n).filter fun k => s.eccBad (a + k) 1
    let s := if bad != [] then s.machineCheck 3 0 0 (w64 (0xA0 * 2 ^ 56 + (a - Config.spadKey))) 0 else s
    let t := s.wake a n
    match x.data with
    | none => { t with answers := t.answers ++ [.read (t.readBytes none a n) bad] }
    | some bs =>
      let t := (t.mend a n).writeBytes none a bs
      { t with answers := t.answers ++ [.done] }

/-- REMOTE_ACCESS: the port of the owner core executes a store that has reached it (R229), in its turn. With `ok` set it is an
access of a peer package: request i of those that wait, or, with w not 0, one that comes in for w bytes at v, a write if it
brings bytes. -/
def execRemoteAccess (s : State) : Out :=
  if s.ev.ok then
    if s.ev.w != 0 then
      .next (if s.ev.bytes == [] then s.peerAsks s.ev.v s.ev.w none
        else if s.ev.bytes.length == s.ev.w then s.peerAsks s.ev.v s.ev.w (some s.ev.bytes) else s)
    else
      match s.peerPend[s.ev.i]? with
      | none => .next s
      | some x => .next (s.peerServe s.ev.i x)
  else entryStep s fun h j e => if e.sent && e.remote h && s.granted h j e then s.grant h j e else s

/-- SCRATCHPAD_GRANT (i = core, j = bank): the first of the bank's requests is served, if it is a store that is granted its
other banks too; a read, a chunk or a message is served when its own step comes. -/
def execScratchpadGrant (s : State) : Out :=
  let c := s.ev.i
  let b := s.ev.j
  if Config.nCores ≤ c || 16 ≤ b then .fault .noSuchUnit
  else
    match (s.bankReqs c).filter (·.uses b) with
    | [] => .next s
    | r :: rs =>
      match (rs.foldl (fun w x => if x.before w then x else w) r).asker with
      | .store h j =>
        match (s.hart h).sbuf[j]? with
        | none => .next s
        | some e => .next (if s.granted h j e then s.grant h j e else s)
      | _ => .next s

/-- WAITT_EXPIRY (i = hart): the partition's TICK has reached the operand (R221). -/
def execWaittExpiry (s : State) : Out :=
  let h := s.ev.i
  let x := s.hart h
  if Config.nHarts ≤ h then .fault .noSuchUnit
  else
    match x.hold with
    | some ⟨.waitt v, _, _, _⟩ =>
      .next (if x.st == .active && v.toNat ≤ (s.partTick x.part).toNat then s.release h [] else s)
    | _ => .next s

end Sys2Proof.Machine
end

