-- ==== Sys2Proof/Machine/Rings.lean ====
section
/-! DEFINITION. Rings of a group: the configuration word, where slots lie, the counters, and the ring instructions
(spec/02 R48 to R56, spec/10 R240, R241). -/

namespace Sys2Proof.Machine

namespace RingCfg

/-- The fields of a ring's configuration word (R49). -/
def mode (w : Word) : Nat := fld w 62 2
def owner (w : Word) : Nat := fld w 58 4
def lgslots (w : Word) : Nat := fld w 55 3
def slots (w : Word) : Nat := 2 ^ lgslots w
def database (w : Word) : Nat := fld w 45 10 * 128
def sidebase (w : Word) : Nat := fld w 32 13 * 16

/-- Data and side region of each core lie in the scratchpad and do not overlap (R50). -/
def valid (w : Word) : Bool :=
  if mode w == 0 then true
  else
    let d := slots w * (if mode w == 1 then 8192 else 512)
    let z := slots w * (if mode w == 1 then 256 else 16)
    decide (database w + d ≤ spadSize) && decide (sidebase w + z ≤ spadSize)
      && (decide (database w + d ≤ sidebase w) || decide (sidebase w + z ≤ database w))

/-- The location of byte `x` of the data of slot `j`, in group `g` (R51, R52). -/
def dataLoc (g : Nat) (w : Word) (j x : Nat) : Nat :=
  if mode w == 1 then spadLoc (g * 16 + owner w) (database w + j * 8192 + x)
  else spadLoc (g * 16 + x / 128 % 16) (database w + j * 512 + x / 2048 * 128 + x % 128)
/-- The location of side byte `y` of slot `j` (R51, R52). -/
def sideAt (g : Nat) (w : Word) (j y : Nat) : Nat :=
  if mode w == 1 then spadLoc (g * 16 + owner w) (sidebase w + j * 256 + y)
  else spadLoc (g * 16 + y / 16) (sidebase w + j * 16 + y % 16)

end RingCfg

def State.ring (s : State) (g q : Nat) : Ring := Tab.get {} (s.group g).rings q
def State.setRing (s : State) (g q : Nat) (r : Ring) : State :=
  s.modGroup g fun x => { x with rings := Tab.put x.rings q r }
def Ring.count (r : Ring) : Nat := (r.tail - r.head).toNat
/-- The slot of a free-running counter (R54). -/
def Ring.slot (r : Ring) (c : BitVec 16) : Nat := c.toNat % RingCfg.slots r.cfg
/-- The stamp of a slot (R53). -/
def State.stamp (s : State) (g : Nat) (r : Ring) (j : Nat) : Nat :=
  ofBytes (s.readBytes none (RingCfg.sideAt g r.cfg j 128) 2)

/-- The location of the stamp of the slot of counter `c`. -/
def Ring.stampLoc (r : Ring) (g : Nat) (c : BitVec 16) : Nat := RingCfg.sideAt g r.cfg (r.slot c) 128
/-- What follows comes after the hart's earlier stores within scope `sc`; where one of them shares a byte with the stamps at
`locs` it is performed before (R120, R122). -/
def stampsAfter (sc : Nat) (locs : List Nat) (s : State) (k : State → Out) : Out :=
  if s.me.sbuf.any fun e => locs.any fun a => e.overlaps a 2 then drained s k else orderedIn sc s k

/-- Writes the stamps of the `n` slots from `tail` on (R54). -/
def State.stampSlots (s : State) (g : Nat) (r : Ring) : Nat → State
  | 0 => s
  | n + 1 =>
    let t := s.stampSlots g r n
    let k : BitVec 16 := BitVec.ofNat 16 n
    let a := r.stampLoc g (r.tail + k)
    ((t.wake a 2).mend a 2).writeBytes none a (toBytes 2 (r.seq + k).toNat)

def allOnes : Word := BitVec.allOnes 64

/-- RINGCFG (R241). Array commands take their operands within one step, so none is between begun and taken (R55). -/
def execRingcfg (q : RingNo) (a : RegNo) (s : State) : Out :=
  let w := s.rd a
  let g := groupOf s.cx.hart
  if !RingCfg.valid w || RingCfg.mode w == 3 || RingCfg.lgslots w == 7 || fld w 16 16 != 0 then finish (s.deferC0 0)
  else
    let r : Ring := { cfg := w, head := 0, tail := 0, seq := w.setWidth 16 }
    finish ((s.setRing g q.toNat r).deferC0 1)

/-- RINGADV publishes n slots; it is a release (R135, R241). -/
def execRingadv (q : RingNo) (n : BitVec 7) (s : State) : Out :=
  let g := groupOf s.cx.hart
  let r := s.ring g q.toNat
  if RingCfg.mode r.cfg == 0 then finish (s.deferC0 (-2))
  else if RingCfg.slots r.cfg < r.count + n.toNat then finish (s.deferC0 allOnes)
  else
    stampsAfter 2 ((List.range n.toNat).map fun i => r.stampLoc g (r.tail + BitVec.ofNat 16 i)) s fun s =>
      let s := s.stampSlots g r n.toNat
      let s := s.setRing g q.toNat { r with tail := r.tail + n.setWidth 16, seq := r.seq + n.setWidth 16 }
      finish (s.deferC0 (w64 (r.tail.toNat + r.seq.toNat * 2 ^ 16)))

/-- RINGPOP frees n slots; it is an acquire, and comes after the hart's earlier releases (R120, R135, R241). -/
def execRingpop (q : RingNo) (n : BitVec 7) (s : State) : Out :=
  let g := groupOf s.cx.hart
  let r := s.ring g q.toNat
  if RingCfg.mode r.cfg == 0 then finish (s.deferC0 (-2))
  else if r.count < n.toNat then finish (s.deferC0 allOnes)
  else
    stampsAfter (s.acquireAfter s.cx.hart 2) [r.stampLoc g r.head] s fun s =>
      let v := r.head.toNat + s.stamp g r (r.slot r.head) * 2 ^ 16
      finish (((s.wake (r.stampLoc g r.head) 2).setRing g q.toNat { r with head := r.head + n.setWidth 16 }).deferC0 (w64 v))

def execRingq (q : RingNo) (s : State) : Out :=
  let r := s.ring (groupOf s.cx.hart) q.toNat
  finish (s.deferC0 (w64 (r.seq.toNat * 2 ^ 48 + r.tail.toNat * 2 ^ 32 + r.head.toNat * 2 ^ 16
    + RingCfg.mode r.cfg * 2 ^ 14 + RingCfg.lgslots r.cfg * 2 ^ 11)))

end Sys2Proof.Machine
end

