-- ==== Sys2Proof/Machine/Lease.lean ====
section
/-! DEFINITION. Leases and accumulator banks: MXLEASE, MXFREE, MXLSET, what ends a lease, what frees a bank (spec/15 R291 to
R293, R304 to R306). -/

namespace Sys2Proof.Machine

/-- The group of a hart's current array (R291). -/
def State.curGroup (s : State) (h : Nat) : Nat := clusterOf h * 4 + (s.hart h).array % 4
/-- Hart h holds the lease of group g, with its run. -/
def State.leaseRun (s : State) (g h : Nat) : Option Nat :=
  match (s.group g).holder with
  | some (k, r) => if k == h then some r else none
  | none => none
/-- The array of the cluster whose lease hart h holds. -/
def State.leased (s : State) (h : Nat) : Option Nat :=
  (List.range 4).find? fun a => (s.leaseRun (clusterOf h * 4 + a) h).isSome

/-- The head of the lease queue is granted while the array has no holder (R292). -/
def State.grantLease (s : State) (g : Nat) : State :=
  let x := s.group g
  match x.holder, x.lq with
  | none, q :: rest =>
    let s := s.modGroup g fun x => { x with holder := some (q.h, q.n), lq := rest }
    if q.resumed then
      (s.modHart q.h fun k => { k with savedLease := none }).resumeReady q.h
    else (s.modHart q.h fun k => { k with array := g % 4 }).release q.h [.scalar 0 1]
  | _, _ => s
def State.endLease (s : State) (g : Nat) : State := (s.modGroup g fun x => { x with holder := none }).grantLease g

def execMxlease (arr : Option (BitVec 2)) (n : BitVec 7) (s : State) : Out :=
  let h := s.cx.hart
  let a := match arr with | some k => k.toNat | none => groupOf h % 4
  let g := clusterOf h * 4 + a
  let x := s.group g
  if (s.leased h).isSome then finish (s.deferC0 (BitVec.allOnes 64))
  else if x.holder.isNone && x.lq == [] then
    let s := s.modGroup g fun x => { x with holder := some (h, n.toNat) }
    finish ((s.modMe fun k => { k with array := a }).deferC0 1)
  else
    holdAt (.lease g n.toNat) (s.modGroup g fun x => { x with lq := x.lq ++ [{ h := h, n := n.toNat }] })

/-! ## Banks (R293) -/

def State.abank (s : State) (g b : Nat) : Bank := Tab.get {} (s.group g).banks b
def State.setAbank (s : State) (g b : Nat) (x : Bank) : State :=
  s.modGroup g fun k => { k with banks := Tab.put k.banks b x }
/-- A bank enters free, cleared to +0. -/
def State.freeBank (s : State) (g b : Nat) : State := s.setAbank g b {}
/-- Every release takes effect that no command of its hart on its bank stands before (R293). -/
def State.settleQueue (s : State) (g : Nat) : State :=
  let cmds := (s.group g).cmds
  let ripe (ci : Cmd × Nat) : Bool :=
    ci.1.kind == .release
      && !(cmds.take ci.2).any fun d => d.kind != .release && d.h == ci.1.h && d.bank == ci.1.bank
  let s := s.modGroup g fun x => { x with cmds := (cmds.zipIdx.filter fun ci => !ripe ci).map (·.1) }
  (cmds.zipIdx.filter ripe).foldl (fun s ci =>
    if (s.abank g ci.1.bank).tag == .owned ci.1.h then s.freeBank g ci.1.bank else s) s
/-- The release of a bank that hart h owns takes its place behind the commands of h on it, unless it stands there already. -/
def State.queueRelease (s : State) (g b h : Nat) : State :=
  let own := (s.group g).cmds.filter fun c => c.h == h && c.bank == b
  if own.getLast?.any (·.kind == .release) then s
  else (s.modGroup g fun x => { x with cmds := x.cmds ++ [{ kind := .release, h := h, bank := b }] }).settleQueue g

/-- Ends the lease that hart h holds, if any. -/
def State.dropLease (s : State) (h : Nat) : State :=
  match s.leased h with
  | some a => s.endLease (clusterOf h * 4 + a)
  | none => s

def execMxfree (banks : BitVec 2) (s : State) : Out :=
  let h := s.cx.hart
  let g := s.curGroup h
  let s := s.dropLease h
  let s := if banks.getLsbD 0 then s.queueRelease g 0 h else s
  finish (if banks.getLsbD 1 then s.queueRelease g 1 h else s)

/-- HALT ends the lease and releases every bank of the hart behind its commands (R305). -/
def State.haltMatrix (s : State) (h : Nat) : State :=
  let s := s.dropLease h
  (List.range 4).foldl (fun s a =>
    let g := clusterOf h * 4 + a
    (s.queueRelease g 0 h).queueRelease g 1 h) s

/-- MXLSET (R306). -/
def execMxlset (d : RegNo) (v : RegOrImm) (s : State) : Out :=
  let old := s.me.mxl
  let w := s.rv v
  let new : BitVec 10 := BitVec.ofNat 10 (fld w 8 2 * 256 + fld w 0 6)
  finish ((s.modMe fun x => { x with mxl := new }).deferReg d (old.setWidth 64))

end Sys2Proof.Machine
end

