-- ==== Sys2Proof/Machine/Rows.lean ====
section
/-! DEFINITION. Row slots and vault banks over time: ROWACT, ROWTAKE, ROWCLOSE, ROWQ and the steps of row and refresh timing
(spec/04 R71 to R86, spec/15 R309 to R311). -/

namespace Sys2Proof.Machine

/-! ## Sensing (R74, R75, R86) -/

/-- Every interval of 18 ticks that holds tick `t` holds fewer than eight of the senses (R75). -/
def roomAt (senses : List Nat) (t : Nat) : Bool :=
  (List.range 18).all fun d => decide ((senses.filter fun u => decide (t ≤ u + d) && decide (u + d < t + 18)).length < 8)
/-- The earliest tick from `t` on at which the activation limit leaves room. -/
def limited (senses : List Nat) : Nat → Nat → Nat
  | 0, t => t
  | n + 1, t => if roomAt senses t then t else limited senses n (t + 1)

/-- When the bank can be sensed for a request that arrived at `t`: released and precharged, cool, not busy. -/
def State.senseFrom (s : State) (v b t : Nat) : Nat :=
  max (max t (s.bankReady v b)) (max (s.bankCool v b) (s.bank v b).busyUntil)

/-- A row that waits to be sensed: the tick from which its bank allows it, its arrival, and its slot. -/
structure RowWait where
  start : Nat
  came : Nat
  g : Nat
  k : Nat
deriving DecidableEq, Repr, Inhabited

/-- The rows of a vault that wait to be sensed. -/
def State.rowWaits (s : State) (v : Nat) : List RowWait :=
  (List.range 4).flatMap fun i => (s.group (v * 4 + i)).slots.filterMap fun kx =>
    kx.2.want.map fun w => ⟨s.senseFrom v (bankOf kx.2.row) w.1, w.1, v * 4 + i, kx.1⟩

/-- The tick at which a waiting row is sensed after the given senses, and whether the activation limit defers it. -/
def RowWait.tick (senses : List Nat) (w : RowWait) : Nat := limited senses 4000 w.start
def RowWait.first (senses : List Nat) (x y : RowWait) : RowWait :=
  let a := x.tick senses
  let b := y.tick senses
  if b < a || (a == b && y.came < x.came) then y else x

/-- The senses that the waiting rows will make, in order of time and, at one tick, of arrival (R75). -/
def sensePlan : Nat → List Nat → List RowWait → List (RowWait × Nat)
  | 0, _, _ => []
  | _, _, [] => []
  | n + 1, senses, w :: ws =>
    let f := ws.foldl (RowWait.first senses) w
    let a := f.tick senses
    (f, a) :: sensePlan n (a :: senses) ((w :: ws).filter (· != f))
def State.plan (s : State) (v : Nat) (ws : List RowWait) : List (RowWait × Nat) := sensePlan ws.length (s.cluster v).senses ws

/-- The cells of a row: data at 0 to 8,191, the tag area and stamp at 8,192 to 8,321. -/
def State.rowCells (s : State) (row : Nat) : List Host.Cell :=
  (s.mem.filter fun c => row ≤ c.1 && c.1 < row + 8192).map (fun c => (c.1 - row, c.2))
  ++ (s.mem.filter fun c => sideLoc row 0 ≤ c.1 && c.1 < sideLoc row 130).map (fun c => (c.1 - sideLoc row 0 + 8192, c.2))
/-- The key material of the row's 64-byte units, numbered from its start; the tag area's two units are 128 and 129. -/
def State.rowUnits (s : State) (row : Nat) : Tab (BitVec 512) :=
  (s.encUnits.filter fun u => row / 64 ≤ u.1 && u.1 < row / 64 + 128).map (fun u => (u.1 - row / 64, u.2))
  ++ (s.encUnits.filter fun u => sideLoc row 0 / 64 ≤ u.1 && u.1 < sideLoc row 0 / 64 + 2).map
      (fun u => (u.1 - sideLoc row 0 / 64 + 128, u.2))

/-- The cells of a row as an activation finds them: of a store that only a narrower release has ordered it may find the bytes
from before (R87). -/
def State.sensedCells (s : State) (row : Nat) : List Host.Cell × State :=
  if s.older == [] then (s.rowCells row, s)
  else
    let (n, s) := s.draw
    let old := (s.older.zipIdx.filter fun xk => Config.rowOlder n xk.2).flatMap fun xk => xk.1.2
    let old := old.filter fun c => row ≤ c.1 && c.1 < row + 8192 && Mem.get s.mem c.1 == c.2.2
    (old.foldr (fun c m => Mem.put m (c.1 - row) c.2.1) (s.rowCells row), s)

/-- The vault senses the row of slot k at tick `a`: the row is read as a whole, and the hart's ready tick answered, of a
hart of no partition in package ticks (DESIGN CHOICE; log 35). -/
def State.senseAt (s : State) (g k a : Nat) : State :=
  let x := s.slot g k
  let v := g / 4
  match x.want with
  | none => s
  | some (_, h, id) =>
    let s := s.settleBank v (bankOf x.row)
    let ready := match x.part with | some p => a + 14 - (s.part p).tickOff | none => a + 14
    let (cells, s) := s.sensedCells x.row
    let s := s.setSlot g k { x with a := a, want := none, sensed := cells, units := s.rowUnits x.row, ready := ready }
    let old := (s.rowWaits v).foldl (fun m w => min m w.came) s.tick
    let s := s.modCluster v fun c => { c with senses := a :: c.senses.filter fun u => old < u + 18 }
    match (s.hart h).span.pend.find? fun p => p == .wait id with
    | some _ => s.resolve h id [.scalar x.dest (w64 ready)]
    | none => s

/-- VACT counts a deferred activation, and a deferred refresh (R75, R76, R91). -/
def State.countDeferred (s : State) (v : Nat) (late : Bool) : State :=
  if late then s.modCluster v fun c =>
    { c with vact := w64 (min (fld c.vact 32 32 + 1) (2 ^ 32 - 1) * 2 ^ 32 + fld c.vact 16 16 * 2 ^ 16) }
  else s
def State.countRefresh (s : State) (v : Nat) (late : Bool) : State :=
  if late then s.modCluster v fun c =>
    { c with vact := w64 (fld c.vact 32 32 * 2 ^ 32 + min (fld c.vact 16 16 + 1) 0xFFFF * 2 ^ 16) }
  else s

/-- The planned sense of slot k. -/
def State.senseOf (s : State) (g k : Nat) : Option (RowWait × Nat) :=
  (s.plan (g / 4) (s.rowWaits (g / 4))).find? fun p => p.1.g == g && p.1.k == k
/-- One planned sense takes place. -/
def State.senseRow (s : State) (p : RowWait × Nat) : State :=
  (s.senseAt p.1.g p.1.k p.2).countDeferred (p.1.g / 4) (decide (p.1.start < p.2))
/-- An access that came earlier has to go first at the bank that a slot's row waits for (R79). -/
def State.earlierWait (s : State) (g k : Nat) : Bool :=
  let x := s.slot g k
  match x.want with
  | some (t, _) => s.waitsBefore x.row t
  | none => false
/-- The hart whose row slot k waits for lies in the scope of a package release that another hart has let go ahead (R87). -/
def State.rowHeld (s : State) (g k : Nat) : Bool :=
  match (s.slot g k).want with
  | some (_, h, _) => s.packageHeld h
  | none => false
/-- The rows of a vault whose ticks have come are sensed, but for those that an earlier access or a release keeps waiting. -/
def State.senseDue (s : State) (v : Nat) : State :=
  let ws := (s.rowWaits v).filter fun w => !s.earlierWait w.g w.k && !s.rowHeld w.g w.k
  ((s.plan v ws).filter fun p => decide (p.2 ≤ s.tick)).foldl State.senseRow s

/-! ## Closing (R73, R79) -/

/-- A slot is closed: it is free at once, and its bank is released no earlier than A + 28. An activation that is not sensed
yet is first given its tick. -/
def State.closeSlot (s : State) (g k : Nat) : State :=
  let s := s.senseDue (g / 4)
  let s := match s.senseOf g k with | some p => s.senseRow p | none => s
  let s := s.settleBank (g / 4) (bankOf (s.slot g k).row)
  let x := s.slot g k
  let s := s.setSlot g k { va := x.va }
  if x.holds then
    let t := max s.tick (x.a + 28)
    s.closeBank (g / 4) (bankOf x.row) t [x.ending g k t]
  else s

/-! ## The instructions -/

/-- Row and compute instructions need the lease of the current array (R291). -/
def needLease (s : State) (k : Nat → State → Out) : Out :=
  let h := s.cx.hart
  let g := s.curGroup h
  if (s.leaseRun g h).isSome then k g s else trap Cause.leaseNotHeld (w64 (g % 4)) s

/-- The row that ROWACT names, in the order of R309. An address in no region is refused as one outside the vault, with PERMISSION
(DESIGN CHOICE: R23 and R100 would give SPACE_INVALID; log 35). -/
def rowPlace (g : Nat) (ea : Word) (s : State) : Look Place :=
  let h := s.cx.hart
  let w := s.who h
  let check (e : Word) (pa : Nat) (s : State) (k : State → Look Place) : Look Place :=
    if !isVault pa || vaultOf pa != g / 4 || !s.permitted w .rowact e pa then .trap Cause.permission ea s else k s
  if !canonical ea then .trap Cause.space ea s
  else if ea.toNat % 8192 != 0 then .trap Cause.misaligned ea s
  else if !s.boot.full then .trap Cause.permission ea s
  else
    (translate w ea s).bind fun (e, entry, level) s =>
      let pa := fld e 16 36 * 65536 + ea.toNat % leafSize level
      check e pa s fun s => if s.countWaits w ea e entry level then waitBank w entry s else
        .ok { key := pa, enc := if bit e 8 then some (e.extractLsb' 52 12) else none, so := bit e 7 }
          (s.countAccess w ea e entry level)

/-- The vault's answer: the old row of the slot is closed, a held bank refuses, an accepted activation waits to be sensed
(R73, R77). -/
def activate (g k : Nat) (d : RegNo) (ea : Word) (p : Place) (s : State) : Out :=
  let h := s.cx.hart
  let v := g / 4
  let s := s.senseDue v
  if s.earlierWait g k || s.rowHeld g k then holdAt .again s
  else
    let s := match (s.slot g k).at s.tick with
      | .free | .expired => s
      | _ => s.closeSlot g k
    if (s.bankSlots v (bankOf p.key)).any fun x => x.holdsAt s.tick then trap Cause.rowBankBusy ea s
    else
      let s := match (s.slot g k).at s.tick with | .expired => s.closeSlot g k | _ => s
      let (id, s) := s.draw
      let s := s.setSlot g k
        { st := .activating, row := p.key, enc := p.enc.isSome, key := p.enc.getD 0, holds := true, so := p.so, born := s.steps
          part := s.me.part, page := p.key / 65536, want := some (s.tick, h, id), va := ea, dest := d.toNat }
      let s := s.pin v ⟨s.me.part, s.me.t.pspace, p.key / 65536, .row g k⟩
      finish (s.defer [.wait id])

/-- Stores of the hart that come before its read of the row (R120, R140). -/
def State.rowAfter (s : State) (p : Place) : Bool := s.me.sbuf.any fun e => e.overlaps p.key 8192 || (e.so && p.so)

def execRowact (o : RowAct) (s : State) : Out :=
  let h := s.cx.hart
  let ea := s.rd o.a + o.off
  needLease s fun g s =>
    if !s.pinGate (g / 4) (s.who h) (rowPlace g ea s) fun p => [p.key / 65536] then holdAt .again s
    else
      (rowPlace g ea s).out .rowact fun p s =>
        if s.pushedBefore h s.steps p.key 8192 p.so || (p.so && s.rowsBefore h s.steps true) then holdAt .again s
        else if s.rowAfter p then drained s (activate g o.k.toNat o.d ea p)
        else activate g o.k.toNat o.d ea p s

/-- A byte of the sensed row or tag area as key material `q` delivers it (R83). -/
def deliver (x : RowSlot) (q : Option (BitVec 512)) (a : Nat) : Byte :=
  let u := Tab.find? x.units (a / 64)
  if u == q then Mem.get x.sensed a
  else
    let loc := if a < 8192 then x.row + a else sideLoc x.row (a - 8192)
    let bs := (List.range 64).map fun i => (Mem.get x.sensed (a / 64 * 64 + i)).toNat
    BitVec.ofNat 8 ((recode u q (tweakOf loc) bs).getD (a % 64) 0)

/-- Codewords of a row, numbered 0 to 8, that a list of bad or corrected codewords names (R69). -/
def rowCodewords (row : Nat) (l : List Nat) : List Nat :=
  (List.range 9).filter fun i => l.contains (if i < 8 then row / 1024 + i else 2 ^ 40 + row / 8192)

/-- The culvert transfer into the latch with its ECC checks (R80, R81). -/
def State.takeRow (s : State) (g k h : Nat) : State :=
  let x := s.slot g k
  let q := s.slotKey (if x.enc then some x.key else none)
  let cells := ((List.range 8320).filterMap fun a =>
      let b := deliver x q a
      if b == 0 then none else some (a, b))
    ++ (x.sensed.filter fun c => 8320 ≤ c.1)
  let bad := rowCodewords x.row s.badCodewords
  let corr := rowCodewords x.row s.corrCodewords
  let s := s.setSlot g k { x with st := .taken, latch := cells, poison := bad, corrected := corr != [], latchOk := false, took := true }
  let s := bad.foldl (fun s i => (s.countBad x.row).machineCheck 2 i h (w64 x.row) x.va) s
  s.modCluster (g / 4) fun c =>
    { c with vecc := w64 (min (fld c.vecc 32 32 + corr.length) (2 ^ 32 - 1) * 2 ^ 32 + fld c.vecc 0 32) }

def execRowtake (k : BitVec 2) (s : State) : Out :=
  needLease s fun g s =>
    let s := s.senseDue (g / 4)
    let x := s.slot g k.toNat
    match x.at s.tick with
    | .activating => trap Cause.rowEarly x.va s
    | .ready => finish (s.takeRow g k.toNat s.cx.hart)
    | .taken => if x.holdsAt s.tick then finish (s.takeRow g k.toNat s.cx.hart) else trap Cause.rowExpired x.va s
    | .expired => trap Cause.rowExpired x.va s
    | .free => trap Cause.rowExpired (Config.freeWord s.steps) s

def execRowclose (k : BitVec 2) (s : State) : Out :=
  needLease s fun g s =>
    if (s.slot g k.toNat).st == .free then finish s
    else
      let s := s.senseDue (g / 4)
      if s.earlierWait g k.toNat || s.rowHeld g k.toNat then holdAt .again s else finish (s.closeSlot g k.toNat)

def slotCode : SlotSt → Nat
  | .free => 0
  | .activating => 1
  | .ready => 2
  | .taken => 3
  | .expired => 4

/-- ROWQ (R311); the ready tick of a row that is not sensed yet is the one it would have now. -/
def execRowq (d : RegNo) (k : BitVec 2) (s : State) : Out :=
  let g := s.curGroup s.cx.hart
  let s := s.senseDue (g / 4)
  let x := s.slot g k.toNat
  let st := x.at s.tick
  let off := match x.part with | some p => (s.part p).tickOff | none => 0
  let told := match s.senseOf g k.toNat with | some p => p.2 + 14 - off | none => x.ready
  let ready := if st == .free || st == .expired then 0 else told
  let free := st == .free
  let v := (if free then 0 else x.row / 8192 % 2 ^ 26 * 2 ^ 32 + b2n x.enc * 2 ^ 16 + (if x.enc then x.key.toNat * 16 else 0)
    + b2n (x.poison != []) * 8) + slotCode st
  finish (s.defer [.scalar d.toNat (w64 ready), .scalar 0 (w64 v)])

/-! ## The steps -/

/-- Steps of a row slot (i = group, j = slot) and of a bank (i = cluster, j = bank). -/
def slotStep (s : State) (k : Nat → Nat → RowSlot → Out) : Out :=
  if Config.nGroups ≤ s.ev.i || 4 ≤ s.ev.j then .fault .noSuchUnit else k s.ev.i s.ev.j (s.slot s.ev.i s.ev.j)
def bankStep (s : State) (k : Nat → Nat → VBank → Out) : Out :=
  if Config.nClusters ≤ s.ev.i || 256 ≤ s.ev.j then .fault .noSuchUnit else k s.ev.i s.ev.j (s.bank s.ev.i s.ev.j)

/-- ACTIVATION_SENSE: the row is sensed once its tick has come and no earlier access waits for the bank (R74, R79). -/
def execActivationSense (s : State) : Out :=
  slotStep s fun g _ x => .next (if x.want.isSome then s.senseDue (g / 4) else s)
def execRowReady (s : State) : Out :=
  slotStep s fun g k x =>
    .next (if x.st == .activating && x.at s.tick == .ready then s.setSlot g k { x with st := .ready } else s)
/-- ROW_EXPIRY: the bank is released; an untaken row is Expired (R73). -/
def execRowExpiry (s : State) : Out :=
  slotStep s fun g k _ => .next ((s.expireSlot g k).settleBank (g / 4) (bankOf (s.slot g k).row))
def execLatchValid (s : State) : Out :=
  slotStep s fun g k x => .next (if x.st == .taken then s.setSlot g k { x with latchOk := true } else s)
/-- BANK_RELEASE: the pin of its row ends, and corrected codewords have been written back (R81, R108). -/
def execBankRelease (s : State) : Out := bankStep s fun v b _ => .next (s.settleBank v b)
def execPrechargeEnd (s : State) : Out :=
  bankStep s fun v b _ =>
    let s := s.settleBank v b
    let x := s.bank v b
    .next (if x.everOpened && !x.closing && x.release + 14 ≤ s.tick then
      s.modBank v b fun x => { x with everOpened := false } else s)
/-- REFRESH_DUE: once per interval; the refresh runs, or is pending while the bank is held, closing or busy (R76). VACT counts
one that a slot's hold defers. One that falls due while the bank precharges waits for that too, uncounted (DESIGN CHOICE; log
35). -/
def execRefreshDue (s : State) : Out :=
  bankStep s fun v b _ =>
    let s := (s.senseDue v).settleBank v b
    let x := s.bank v b
    if x.refreshed && s.tick < x.lastRefresh + 3900 then .next s
    else
      let held := (s.bankSlots v b).any fun y => y.want.isNone && y.holdsAt s.tick
      let wait := held || s.tick < s.bankReady v b || s.tick < x.busyUntil
      .next ((s.modBank v b fun x =>
        if wait then { x with refreshed := true, lastRefresh := s.tick, refreshPending := true }
        else { x with refreshed := true, lastRefresh := s.tick, blackoutEnd := s.tick + 160 }).countRefresh v held)
def execRefreshBlackoutEnd (s : State) : Out := bankStep s fun v b _ => .next (s.settleBank v b)

end Sys2Proof.Machine
end

