-- ==== Sys2Proof/Machine/Matrix.lean ====
section
/-! DEFINITION. Compute and bank commands of the matrix arrays: MXMUL, MXMULR, MXZERO, MXLDC, MXST and the execution of the
array queue (spec/15 R294 to R302, R307, R308; spec/03 R62 to R67). -/

namespace Sys2Proof.Machine

/-! ## Format state (R294, R298) -/

def fmtType (f : BitVec 8) : Nat := f.toNat % 16
def fmtSparse (f : BitVec 8) : Nat := f.toNat / 32 % 4
def fmtScaled (f : BitVec 8) : Bool := f.getLsbD 7
def isBook (ty : Nat) : Bool := ty == 12 || ty == 13
/-- K-chunks of a dense tile line (R66). -/
def chunksOf (ty : Nat) : Nat := if ty == 12 then 4 else if ty == 13 then 2 else 1
/-- Logical depth of a slot. -/
def depthOf (f : BitVec 8) : Nat := chunksOf (fmtType f) * 64 * 2 ^ fmtSparse f

/-! ## Tiles (R63 to R67) -/

/-- `w` bits from bit `p` of a byte function. -/
def bitsAt (f : Nat → Byte) (p w : Nat) : Nat :=
  ((f (p / 8)).toNat + 256 * (f (p / 8 + 1)).toNat) / 2 ^ (p % 8) % 2 ^ w
/-- Kept element `e` of line `i`: a bf16 pattern or a codebook code. -/
def kept (ty : Nat) (data : Nat → Byte) (i e : Nat) : Nat :=
  match ty with
  | 12 => bitsAt data (8 * 128 * i + 4 * e) 4
  | 13 => bitsAt data (8 * 96 * i + 6 * e) 6
  | _ => (data (128 * i + 2 * e)).toNat + 256 * (data (128 * i + 2 * e + 1)).toNat

/-- The pattern entry of group g of a slot (R67). -/
def patternAt (sparse : Nat) (side : Nat → Byte) (g : Nat) : Nat :=
  bitsAt (fun x => side (132 + x)) (if sparse == 1 then 4 * g else 2 * g) (if sparse == 1 then 4 else 2)
/-- Where logical position k of a slot is kept, if it is. -/
def position (sparse : Nat) (side : Nat → Byte) (k : Nat) : Option Nat :=
  let g := k / 4
  let j := k % 4
  match sparse with
  | 0 => some k
  | 1 =>
    let m := patternAt 1 side g
    if m.testBit j then some (2 * g + popN m j) else none
  | _ => if patternAt 2 side g == j then some g else none
where
  popN (m : Nat) : Nat → Nat
    | 0 => 0
    | n + 1 => popN m n + (if m.testBit n then 1 else 0)

/-- An operand slot as the array reads it: data and side bytes. -/
structure Operand where
  fmt : BitVec 8
  data : Nat → Byte
  side : Nat → Byte
  book : Nat → Byte

/-- The bf16 pattern of logical position k of line i, if kept (R64, R299). -/
def Operand.value (o : Operand) (i k : Nat) : Option Nat :=
  let ty := fmtType o.fmt
  (position (fmtSparse o.fmt) o.side k).map fun e =>
    let c := kept ty o.data i e
    if isBook ty then (o.book (2 * c)).toNat + 256 * (o.book (2 * c + 1)).toNat else c
/-- The scale of a line, 1.0 for an unscaled operand. -/
def Operand.scale (o : Operand) (i : Nat) : Nat :=
  if fmtScaled o.fmt then (o.side (2 * i)).toNat + 256 * (o.side (2 * i + 1)).toNat else 0x3F80
def Operand.stamp (o : Operand) : Nat := (o.side 128).toNat + 256 * (o.side 129).toNat
/-- A 2:4 entry of the slot does not have two bits set (R300). -/
def Operand.badPattern (o : Operand) : Bool :=
  fmtSparse o.fmt == 1 && (List.range (depthOf o.fmt / 4)).any fun g => position.popN (patternAt 1 o.side g) 4 != 2

/-! ## Arithmetic (R299) -/

/-- A bf16 pattern with subnormals flushed to zero of their sign, and whether it was flushed (R62). -/
def fz (x : Nat) : Nat × Bool :=
  if x / 2 ^ 7 % 2 ^ 8 == 0 && x % 2 ^ 7 != 0 then (x / 2 ^ 15 * 2 ^ 15, true) else (x, false)

/-- The exact sum of two values. -/
def Fp.addExact (x y : Fp) : Fp :=
  match x, y with
  | .nan _, _ | _, .nan _ => .nan false
  | .inf a, .inf b => if a == b then .inf a else .nan false
  | .inf a, _ => .inf a
  | _, .inf b => .inf b
  | .fin a m e, .fin b n k =>
    let q := min e k
    let v := sgn a (m * 2 ^ (e - q).toNat) + sgn b (n * 2 ^ (k - q).toNat)
    .fin (if v == 0 then a && b else v < 0) v.natAbs q

/-- Status bits of a command (R301). -/
structure Status where
  latch : Bool := false
  foreign : Bool := false
  spidx : Bool := false
  seqmis : Bool := false
  eccu : Bool := false
  eccc : Bool := false
  subn : Bool := false
  ovf : Bool := false
  nan : Bool := false
deriving DecidableEq, Repr, Inhabited

namespace Status
def word (t : Status) : Word :=
  w64 (b2n t.latch * 256 + b2n t.foreign * 128 + b2n t.spidx * 64 + b2n t.seqmis * 32 + b2n t.eccu * 16
    + b2n t.eccc * 8 + b2n t.subn * 4 + b2n t.ovf * 2 + b2n t.nan)
def fatal (t : Status) : Bool := t.latch || t.foreign || t.spidx || t.seqmis || t.eccu
end Status

/-- What the arithmetic of one element raises. -/
structure Raised where
  subn : Bool := false
  ovf : Bool := false
deriving DecidableEq, Repr, Inhabited

def Raised.or (a b : Raised) : Raised := ⟨a.subn || b.subn, a.ovf || b.ovf⟩
def raisedBy (f : Flags) : Raised := ⟨false, f &&& Flag.overflow != 0⟩

/-- prod(k) of R299. -/
def product (a b : Option Nat) : Fp × Raised :=
  match a, b with
  | some x, some y =>
    let (x, sx) := fz x
    let (y, sy) := fz y
    (((FFmt.read .bf16 x).mulExact (FFmt.read .bf16 y)).getD (.nan false), ⟨sx || sy, false⟩)
  | _, _ => (.fin false 0 0, {})

/-- One group of four products added into P. -/
def addGroup (p : Nat × Raised) (ps : List (Fp × Raised)) : Nat × Raised :=
  let sum := match ps.map (·.1) with
    | x :: xs => xs.foldl Fp.addExact x
    | [] => .fin false 0 0
  let (s, f1) := sum.round .f32 false
  let (r, f2) := fAdd .f32 p.1 s
  (r, ps.foldl (fun acc q => acc.or q.2) (p.2.or (raisedBy (f1 ||| f2))))

/-- The partial sum P of logical chunk m from the operands' values. -/
def partialSum (a b : Nat → Option Nat) : Nat × Raised :=
  (List.range 16).foldl (fun p g =>
    addGroup p ((List.range 4).map fun j => product (a (4 * g + j)) (b (4 * g + j)))) (0, {})

/-- The accumulation of P, scaled or not. -/
def accumulate (acc : Nat) (p : Nat × Raised) (scaled : Bool) (sa sb : Nat) : Nat × Raised :=
  if scaled then
    let (x, fa) := fz sa
    let (y, fb) := fz sb
    let (sc, f1) := fMul .f32 (x * 65536) (y * 65536)
    let (q, f2) := fMul .f32 p.1 sc
    let (r, f3) := fAdd .f32 acc q
    (r, p.2.or ⟨fa || fb, (raisedBy (f1 ||| f2 ||| f3)).ovf⟩)
  else
    let (r, f) := fAdd .f32 acc p.1
    (r, p.2.or (raisedBy f))

/-- One iteration for element (i, j): chunks in ascending order; `slotsA` and `slotsB` give operand and first logical
position within it of a chunk. -/
def element (depth : Nat) (opA opB : Nat → Operand × Nat) (i j : Nat) (acc : Nat) : Nat × Raised :=
  (List.range (depth / 64)).foldl (fun (st : Nat × Raised) m =>
    let (oa, ka) := opA m
    let (ob, kb) := opB m
    let p := partialSum (fun k => oa.value i (ka + k)) (fun k => ob.value j (kb + k))
    let (r, f) := accumulate st.1 p (fmtScaled oa.fmt || fmtScaled ob.fmt) (oa.scale i) (ob.scale j)
    (r, st.2.or f)) (acc, {})

/-! ## Issue (R295, R297, R301, R303, R307) -/

/-- The hart's check of a completion object or a codebook: regions 0x4 and 0x8 raise PERMISSION (R301). -/
def unitPlace (acc : Acc) (va : Word) (size align : Nat) (s : State) : Look Place :=
  match access (s.who s.cx.hart) acc va size align s with
  | .ok p t => if isReg p.key || isHost p.key then .trap Cause.permission va t else .ok p t
  | .trap c a t => .trap (if c == Cause.misaligned && va.toNat % align == 0 then Cause.permission else c) a t
  | x => x

/-- The codebook of an operand, where its type is one; a c6 table is 128-byte aligned (R295). -/
def bookPlace (fmt : BitVec 8) (va : Word) (s : State) : Look Place :=
  if !isBook (fmtType fmt) then .ok {} s
  else
    let n := if fmtType fmt == 13 then 128 else 32
    unitPlace .engRead va n n s

/-- The vault pages of a command's places. -/
def pagesOf (ps : List Place) : List Nat := (ps.filter fun p => isVault p.key).map fun p => p.key / 65536

/-- Entries of the queue that count towards its eight (R307). -/
def Group.queued (x : Group) : Nat := (x.cmds.filter fun c => c.kind != .release).length

/-- The pins of commands, from issue on (R301). -/
def State.pinCmds (s : State) (g : Nat) (cs : List Cmd) : State :=
  cs.foldl (fun s c => c.pages.foldl (fun s p =>
    s.pin (g / 4) ⟨(s.hart c.h).part, (s.hart c.h).t.pspace, p, .cmd g⟩) s) s

/-- As many commands as fit enter the queue; the rest wait with the hart. -/
def State.enqueue (s : State) (g : Nat) (cs : List Cmd) : List Cmd × State :=
  let room := 8 - (s.group g).queued
  (cs.drop room, s.modGroup g fun x => { x with cmds := x.cmds ++ cs.take room })

/-- The end of a compute instruction: the run is charged, the stamps advance (R292, R296). -/
def computeDone (g n na nb : Nat) (s : State) : Out :=
  let h := s.cx.hart
  let s := match s.leaseRun g h with
    | some r => if r - n == 0 then s.endLease g else s.modGroup g fun x => { x with holder := some (h, r - n) }
    | none => s
  finish (s.modMe fun x =>
    { x with u := { x.u with seqa := x.u.seqa + BitVec.ofNat 16 (n * na), seqb := x.u.seqb + BitVec.ofNat 16 (n * nb) } })

/-- Commands of a compute instruction enter the queue; the hart is held until the last one has. -/
def feed (g : Nat) (all : Nat) (na nb : Nat) (cs : List Cmd) (s : State) : Out :=
  let (rest, s) := s.enqueue g cs
  match rest with
  | [] => computeDone g all na nb s
  | _ => if rest.length == all then holdAt .arrayQueue s else holdAt (.arrayMid rest (all * 65536 + na) nb) s

/-- A compute instruction of `n` iterations whose commands `mk i` gives (R307); held ones go on with what is left. The
hart's earlier stores come before what the array reads (R131). -/
def compute (n na nb : Nat) (a : RegNo) (mk : Nat → Cmd) (s : State) : Out :=
  let h := s.cx.hart
  let g := s.curGroup h
  match s.me.hold with
  | some ⟨.arrayMid rest x nb, _, _, _⟩ => feed g (x / 65536) (x % 65536) nb rest s
  | _ =>
    match s.leaseRun g h with
    | none => trap Cause.leaseNotHeld (w64 (g % 4)) s
    | some r =>
      if r < n then trap Cause.leaseNotHeld (w64 (g % 4)) s
      else
        let u := s.me.u
        let places := (unitPlace .atomic (s.rd a) 16 16 s).bind fun po s =>
          (bookPlace u.fmta u.cbka s).bind fun pa s =>
            (bookPlace u.fmtb u.cbkb s).bind fun pb s => .ok (po, pa, pb) s
        let pages (p : Place × Place × Place) : List Nat :=
          pagesOf (p.1 :: ((if isBook (fmtType u.fmta) then [p.2.1] else []) ++ if isBook (fmtType u.fmtb) then [p.2.2] else []))
        if !s.pinGate (g / 4) (s.who h) places pages then holdAt .again s
        else
          let acc := match unitPlace .atomic (s.rd a) 16 16 s with | .ok .. => Acc.engRead | _ => .atomic
          places.out acc fun (po, pa, pb) s =>
            let cs := (List.range n).map fun i =>
              { mk i with
                h := h, fmta := u.fmta, fmtb := u.fmtb, cbka := pa.key, enca := pa.enc, cbkb := pb.key, encb := pb.enc
                na := na, nb := nb, expA := u.seqa + BitVec.ofNat 16 (i * na)
                expB := u.seqb + BitVec.ofNat 16 (i * nb), obj := po.key, enco := po.enc, pages := pages (po, pa, pb)
                launch := s.me.launch }
            drained s fun s => feed g n na nb cs (s.pinCmds g cs)

def State.iterations (s : State) (rep : Bool) : Nat := if rep then s.me.mxl.toNat % 64 + 1 else 1
/-- The bank of iteration i. -/
def State.iterBank (s : State) (b : Bool) (i : Nat) : Nat :=
  if s.me.mxl.getLsbD 8 then (b2n b + i) % 2 else b2n b

/-- Only dense bf16 runs on the array under the reduced service (R411). -/
def State.denseOnly (s : State) : Bool :=
  let bad (f : BitVec 8) : Bool := isBook (fmtType f) || fmtSparse f != 0
  !s.boot.full && (bad s.me.u.fmta || bad s.me.u.fmtb)

def execMxmul (o : MxMul) (s : State) : Out :=
  let u := s.me.u
  if s.denseOnly || (isBook (fmtType u.fmta) && isBook (fmtType u.fmtb)) then illegal s
  else
    let da := depthOf u.fmta
    let db := depthOf u.fmtb
    let l := max da db
    compute (s.iterations o.rep) (l / da) (l / db) o.a (fun i =>
      { kind := .mul, h := 0, bank := s.iterBank o.bank i, qa := o.qa.toNat, qb := o.qb.toNat, depth := l }) s

def execMxmulr (o : MxMulR) (s : State) : Out :=
  let u := s.me.u
  let l := depthOf u.fmta
  let w := l / 64
  let c := chunksOf (fmtType u.fmtb)
  let q := o.chunk.toNat
  if s.denseOnly || (isBook (fmtType u.fmta) && isBook (fmtType u.fmtb)) || fmtSparse u.fmtb != 0
      || c < w || q % w != 0 || c ≤ q then illegal s
  else
    compute (s.iterations o.rep) 1 0 o.a (fun i =>
      let ci := if s.me.mxl.getLsbD 9 then q + i * w else q
      { kind := .mulr, h := 0, bank := s.iterBank o.bank i, qa := o.qa.toNat, depth := l
        slot := (o.slot.toNat + ci / c) % 4, chunk := ci % c }) s

/-- MXZERO enters the queue; its c0 is a deferred result that the array answers (R308). -/
def execMxzero (bank : Bool) (s : State) : Out :=
  let h := s.cx.hart
  let g := s.curGroup h
  if 8 ≤ (s.group g).queued then holdAt .arrayQueue s
  else
    let (id, s) := s.draw
    let s := s.modGroup g fun x =>
      { x with cmds := x.cmds ++ [{ kind := .zero, h := h, bank := b2n bank, wait := id, launch := (s.hart h).launch }] }
    finish (s.defer [.wait id])

/-- MXLDC and MXST: the object, then the image offset, then the queue (R308); both are engine starts (R131, R312). -/
def bankCmd (kind : CmdKind) (o : MxBank) (s : State) : Out :=
  let h := s.cx.hart
  let g := s.curGroup h
  let b := s.rd o.b
  let place := unitPlace .atomic (s.rd o.a) 16 16 s
  if !s.pinGate (g / 4) (s.who h) place fun p => pagesOf [p] then holdAt .again s
  else
    place.out .atomic fun po s =>
      if b.toNat % 128 != 0 then trap Cause.misaligned b s
      else if spadSize < b.toNat + (if o.bf16 then 512 else 1024) then trap Cause.straddle b s
      else if 8 ≤ (s.group g).queued then holdAt .arrayQueue s
      else
        let c : Cmd :=
          { kind := kind, h := h, bank := b2n o.bank, obj := po.key, enco := po.enc, pages := pagesOf [po], off := b.toNat
            bf16 := o.bf16, launch := s.me.launch }
        drained s fun s => finish ((s.pinCmds g [c]).enqueue g [c]).2

def execMxst (o : MxBank) (s : State) : Out := bankCmd .store o s
def execMxldc (o : MxBank) (s : State) : Out := bankCmd .load o s

/-! ## Execution (R302, R307, R308) -/

/-- The operand in slot `c` (free-running) of a ring. -/
def State.ringOperand (s : State) (g : Nat) (fmt : BitVec 8) (r : Ring) (c : BitVec 16) (book : Nat → Byte) : Operand :=
  let j := r.slot c
  { fmt := fmt, data := fun x => s.readKey none (RingCfg.dataLoc g r.cfg j x)
    side := fun x => s.readKey none (RingCfg.sideAt g r.cfg j x), book := book }
/-- Bytes of the pattern of a compressed slot (R67). -/
def patternBytes (f : BitVec 8) : Nat :=
  match fmtSparse f with | 0 => 0 | 1 => depthOf f / 8 | _ => depthOf f / 16
/-- What a command reads of a slot, as parts of scratchpads: the lines, without the end that a c6 tile leaves unused (R66); of the
side bytes the scales and the stamp where it is scaled, and the pattern (R65, R67). -/
def slotParts (g : Nat) (fmt : BitVec 8) (r : Ring) (c : BitVec 16) : List (Nat × Nat) :=
  let j := r.slot c
  let side (w : Nat) : Bool := (fmtScaled fmt && w ≤ 16) || (patternBytes fmt != 0 && 16 ≤ w && 8 * w < 132 + patternBytes fmt)
  ((List.range (if fmtType fmt == 13 then 48 else 64)).map fun i => (RingCfg.dataLoc g r.cfg j (128 * i), 128))
    ++ ((List.range 32).filter side).map fun w => (RingCfg.sideAt g r.cfg j (8 * w), 8)
/-- The same of `n` slots from `c` on. -/
def slotsParts (g : Nat) (fmt : BitVec 8) (r : Ring) (c : BitVec 16) (n : Nat) : List (Nat × Nat) :=
  (List.range n).flatMap fun t => slotParts g fmt r (c + BitVec.ofNat 16 t)
/-- An uncorrectable word lies in what a command reads (R307). -/
def State.partsBad (s : State) (ps : List (Nat × Nat)) : Bool := ps.any fun p => s.eccBad p.1 p.2

/-- Reading slots, a codebook or an image wakes scratchpad banks (R20), and a vault serves its part (R70). -/
def State.wakeParts (s : State) (ps : List (Nat × Nat)) : State := ps.foldl (fun s p => s.wake p.1 p.2) s
def State.readBook (s : State) (fmt : BitVec 8) (key : Nat) : State :=
  let n := if fmtType fmt == 13 then 128 else 32
  if isBook (fmtType fmt) then (s.wake key n).touch key n else s

/-- The operand in a row latch from chunk q on. -/
def latchOperand (fmt : BitVec 8) (x : RowSlot) (book : Nat → Byte) : Operand :=
  { fmt := fmt, data := fun a => Mem.get x.latch a, side := fun a => Mem.get x.latch (8192 + a), book := book }

/-- The bytes of a codebook as the command reads them at its start. -/
def State.book (s : State) (fmt : BitVec 8) (key : Nat) (enc : Option (BitVec 12)) : Nat → Byte :=
  let n := if fmtType fmt == 13 then 128 else 32
  let bs := if isBook (fmtType fmt) then s.readBytes enc key n else []
  fun i => bs.getD i 0
def State.bookBad (s : State) (fmt : BitVec 8) (key : Nat) : Bool :=
  isBook (fmtType fmt) && s.eccBad key (if fmtType fmt == 13 then 128 else 32)

/-- The vault banks of a command's object and codebooks. -/
def Cmd.vaults (c : Cmd) : List Nat :=
  let mul := c.kind == .mul || c.kind == .mulr
  ((if c.kind == .zero || c.kind == .release then [] else [c.obj])
    ++ (if mul && isBook (fmtType c.fmta) then [c.cbka] else []) ++ (if mul && isBook (fmtType c.fmtb) then [c.cbkb] else [])).filter
      (isVault ·)

/-- The tag a command of hart h leaves on a bank, and whether the bank is foreign (R293). -/
def claimBank (b : Bank) (h : Nat) : Bank × Bool :=
  match b.tag with
  | .free => ({ b with tag := .owned h }, false)
  | .owned k | .spilled k => (b, b.tag == .spilled k || k != h)

/-- Bits are set in word 1 and word 0 counts down (R302); the command's pins end. -/
def State.countDown (s : State) (g : Nat) (c : Cmd) (st : Status) : State :=
  let old := s.readBytes c.enco c.obj 16
  let w0 := w64 (ofBytes (old.take 8))
  let w1 := w64 (ofBytes (old.drop 8))
  let count := fld w0 0 32
  let reload := fld w0 32 16
  let new0 := if count ≤ 1 then w64 (b2n (!bit w0 63) * 2 ^ 63 + reload * 2 ^ 32 + reload)
    else w64 (b2n (bit w0 63) * 2 ^ 63 + reload * 2 ^ 32 + count - 1)
  let s := s.perform c.h { base := c.obj, bytes := bytesOf [new0, w1 ||| st.word], enc := c.enco, va := w64 c.obj, pc := (s.hart c.h).pc }
  c.pages.foldl (fun s p => s.modCluster (g / 4) fun x =>
    { x with pins := x.pins.eraseP fun q => q.holder == .cmd g && q.page == p }) s

/-- The elements of a bank, row-major, and a bank from its elements. -/
def Bank.elem (b : Bank) (k : Nat) : Nat := (Tab.get 0 b.data k).toNat
def bankData (xs : List Nat) : Tab (BitVec 32) :=
  (xs.zipIdx.filter fun x => x.1 != 0).map fun x => (x.2, BitVec.ofNat 32 x.1)
def isNan32 (x : Nat) : Bool := (FFmt.read .f32 x).isNan

/-- The products of one command over every element of its bank. -/
def multiply (b : Bank) (depth : Nat) (opA opB : Nat → Operand × Nat) (st : Status) : Bank × Status :=
  let rs := (List.range 4096).map fun k => element depth opA opB (k / 64) (k % 64) (b.elem k)
  let f := rs.foldl (fun (acc : Raised) r => acc.or r.2) ({} : Raised)
  ({ b with data := bankData (rs.map (·.1)) }
  , { st with subn := st.subn || f.subn, ovf := st.ovf || f.ovf, nan := st.nan || rs.any fun r => isNan32 r.1 })

/-- The command at the head of the queue has completed. -/
def State.popCmd (s : State) (g : Nat) : State :=
  (s.modGroup g fun x => { x with cmds := x.cmds.drop 1, waits := [] }).settleQueue g

/-- Ends a command: the new bank unless a fatal bit is set, then the object. -/
def State.endCmd (s : State) (g : Nat) (c : Cmd) (claimed new : Bank) (st : Status) : State :=
  let s := s.setAbank g c.bank (if st.fatal then claimed else new)
  (s.countDown g c st).popCmd g

/-- MXMUL at the head of the queue; none while a ring lacks slots. -/
def runMul (g : Nat) (c : Cmd) (s : State) : Option State :=
  let qa := s.ring g c.qa
  let qb := s.ring g c.qb
  let same := c.qa == c.qb
  let live (r : Ring) : Nat := if RingCfg.mode r.cfg == 0 then 0 else r.count
  if (if same then live qa < c.na + c.nb else live qa < c.na || live qb < c.nb) then none
  else
    let startB := if same then qb.head + BitVec.ofNat 16 c.na else qb.head
    let (b, foreign) := claimBank (s.abank g c.bank) c.h
    let bookA := s.book c.fmta c.cbka c.enca
    let bookB := s.book c.fmtb c.cbkb c.encb
    let oa := (List.range c.na).map fun t => s.ringOperand g c.fmta qa (qa.head + BitVec.ofNat 16 t) bookA
    let ob := (List.range c.nb).map fun t => s.ringOperand g c.fmtb qb (startB + BitVec.ofNat 16 t) bookB
    let mis (os : List Operand) (e : BitVec 16) : Bool :=
      os.zipIdx.any fun x => fmtScaled x.1.fmt && x.1.stamp != (e + BitVec.ofNat 16 x.2).toNat
    let parts := slotsParts g c.fmta qa qa.head c.na ++ slotsParts g c.fmtb qb startB c.nb
    let st : Status :=
      { foreign := foreign, seqmis := mis oa c.expA || mis ob c.expB
        spidx := (oa ++ ob).any Operand.badPattern
        eccu := s.partsBad parts || s.bookBad c.fmta c.cbka || s.bookBad c.fmtb c.cbkb }
    let at' (os : List Operand) (d : Nat) (m : Nat) : Operand × Nat :=
      ((os[64 * m / d]?).getD ⟨8, fun _ => 0, fun _ => 0, fun _ => 0⟩, 64 * m % d)
    let (new, st) := if st.fatal then (b, st) else multiply b c.depth (at' oa (depthOf c.fmta)) (at' ob (depthOf c.fmtb)) st
    let s := ((s.wakeParts parts).readBook c.fmta c.cbka).readBook c.fmtb c.cbkb
    let s := s.setRing g c.qa { qa with head := qa.head + BitVec.ofNat 16 c.na }
    let rb := s.ring g c.qb
    let s := s.setRing g c.qb { rb with head := rb.head + BitVec.ofNat 16 c.nb }
    some (s.endCmd g c b new st)

/-- MXMULR at the head of the queue; none while the ring is empty or the latch is not valid yet (R80). -/
def runMulR (g : Nat) (c : Cmd) (s : State) : Option State :=
  let qa := s.ring g c.qa
  let x := s.slot g c.slot
  if RingCfg.mode qa.cfg == 0 || qa.count < 1 || (x.st == .taken && !x.latchOk) then none
  else
    let (b, foreign) := claimBank (s.abank g c.bank) c.h
    let oa := s.ringOperand g c.fmta qa qa.head (s.book c.fmta c.cbka c.enca)
    let ob := latchOperand c.fmtb x (s.book c.fmtb c.cbkb c.encb)
    let taken := x.st == .taken
    let poisoned := taken && x.poison.any fun i => if i < 8 then fmtType c.fmtb != 13 || i < 6 else fmtScaled c.fmtb
    let parts := slotParts g c.fmta qa qa.head
    let st : Status :=
      { foreign := foreign, latch := !taken || poisoned, eccc := taken && x.corrected
        eccu := poisoned || s.partsBad parts || s.bookBad c.fmta c.cbka || s.bookBad c.fmtb c.cbkb
        spidx := oa.badPattern
        seqmis := (fmtScaled c.fmta && oa.stamp != c.expA.toNat)
          || (taken && fmtScaled c.fmtb && ob.stamp != c.expB.toNat) }
    let (new, st) := if st.fatal then (b, st)
      else multiply b c.depth (fun m => (oa, 64 * m)) (fun m => (ob, 64 * (c.chunk + m))) st
    let s := if taken then s.setSlot g c.slot { x with corrected := false } else s
    let s := ((s.wakeParts parts).readBook c.fmta c.cbka).readBook c.fmtb c.cbkb
    let s := s.setRing g c.qa { qa with head := qa.head + 1 }
    some (s.endCmd g c b new st)

/-- The location of image byte x of MXLDC and MXST (R308). -/
def imageLoc (g off x : Nat) : Nat := spadLoc (g * 16 + x / 128 % 16) (off + x / 2048 * 128 + x % 128)

/-- The image of a bank. -/
def imageParts (g off : Nat) (bf16 : Bool) : List (Nat × Nat) :=
  (List.range (if bf16 then 64 else 128)).map fun i => (imageLoc g off (128 * i), 128)

def runLoad (g : Nat) (c : Cmd) (s : State) : State :=
  let (b, foreign) := claimBank (s.abank g c.bank) c.h
  let xs := (List.range 4096).map fun k => ofBytes (s.readBytes none (imageLoc g c.off (4 * k)) 4)
  let st : Status := { foreign := foreign, eccu := s.partsBad (imageParts g c.off false) }
  let st := if st.fatal then st else { st with nan := xs.any isNan32 }
  let s := s.wakeParts (imageParts g c.off false)
  s.endCmd g c b { b with data := bankData xs } st

def runStore (g : Nat) (c : Cmd) (s : State) : State :=
  let b := s.abank g c.bank
  if b.tag != .owned c.h then s.endCmd g c b b { foreign := true }
  else
    let rs := (List.range 4096).map fun k =>
      if c.bf16 then cvtFloatFloat .f32 .bf16 false (b.elem k) else (b.elem k, 0)
    let n := if c.bf16 then 2 else 4
    let st : Status :=
      { nan := (List.range 4096).any fun k => isNan32 (b.elem k), ovf := rs.any fun r => r.2 &&& Flag.overflow != 0 }
    let t := rs.zipIdx.foldl (fun s r => s.putSpad (imageLoc g c.off (n * r.2)) (toBytes n r.1.1)) s
    t.endCmd g c b b st

def runZero (g : Nat) (c : Cmd) (s : State) : State :=
  let (b, foreign) := claimBank (s.abank g c.bank) c.h
  let s := if foreign then s else s.setAbank g c.bank { b with data := [] }
  (s.popCmd g).resolve c.h c.wait [.scalar 0 (if foreign then BitVec.allOnes 64 else 1)]

/-- What a command reads or writes of scratchpads. -/
def State.cmdParts (s : State) (g : Nat) (c : Cmd) : List (Nat × Nat) :=
  let qa := s.ring g c.qa
  let qb := s.ring g c.qb
  match c.kind with
  | .zero | .release => []
  | .load => imageParts g c.off false
  | .store => imageParts g c.off c.bf16
  | .mul => slotsParts g c.fmta qa qa.head c.na ++ slotsParts g c.fmtb qb (if c.qa == c.qb then qb.head + BitVec.ofNat 16 c.na else qb.head) c.nb
  | .mulr => slotParts g c.fmta qa qa.head
/-- A request has waited seven cycles at a bank of the group's scratchpads that the command needs: the array is refused it (R45). -/
def State.arrayRefused (s : State) (g : Nat) (c : Cmd) : Bool :=
  let old := (List.range 16).flatMap fun i => (s.bankReqs (g * 16 + i)).filter fun r => decide (r.wait.since + 7 ≤ s.tick)
  old != [] && (s.cmdParts g c).any fun p => (spadBanks (p.1 % 2 ^ 17) p.2).any fun b =>
    old.any fun r => r.wait.core == padCore p.1 && r.uses b

/-- ARRAY_COMMAND (i = group): the command at the head of the queue executes once its operands are available. -/
def execArrayCommand (s : State) : Out :=
  let g := s.ev.i
  if Config.nGroups ≤ g then .fault .noSuchUnit
  else
    match (s.group g).cmds with
    | [] => .next s
    | c :: _ =>
      let waits := bankWaits (s.group g).waits s.tick c.vaults
      if s.scopeHeld c.h || (s.hart c.h).owes || s.arrayRefused g c then .next s
      else if !waits.all fun w => s.bankFree w.2 w.1 then .next (s.modGroup g fun x => { x with waits := waits })
      else
        match c.kind with
        | .release => .next (s.settleQueue g)
        | .zero => .next (runZero g c s)
        | .load => .next (runLoad g c s)
        | .store => .next (runStore g c s)
        | .mul => .next ((runMul g c s).getD s)
        | .mulr => .next ((runMulR g c s).getD s)

end Sys2Proof.Machine
end

