-- ==== Sys2Proof/Machine/Launch.lean ====
section
/-! DEFINITION. Launches: the checks of a record and its image, placement and start, HALT, SPAWN, LAUNCH, retirement,
retention, and the slots of launch queues (spec/19 R345 to R353, spec/08 R187 to R189, spec/24 R397, R398). -/

namespace Sys2Proof.Machine

/-! ## The record (R345 to R347) -/

def recWord (ws : List Word) (i : Nat) : Word := ws.getD i 0
/-- Domain, scope and count of level entry k. -/
def levDomain (ws : List Word) (k : Nat) : Nat := fld (recWord ws (8 + k)) 53 3
def levCount (ws : List Word) (k : Nat) : Nat := fld (recWord ws (8 + k)) 0 32
def recNlev (ws : List Word) : Nat := fld (recWord ws 2) 60 4
/-- The outermost level is a fabric level. -/
def recFabric (ws : List Word) : Bool := levDomain ws (recNlev ws - 1) == 7
/-- Levels within the package. -/
def innerLevels (ws : List Word) : Nat := if recFabric ws then recNlev ws - 1 else recNlev ws
def innerCounts (ws : List Word) : List Nat := (List.range (innerLevels ws)).map (levCount ws)
/-- Harts that the record asks for in this package. -/
def recHarts (ws : List Word) : Nat := (innerCounts ws).foldl (· * ·) 1

/-- A level entry keeps R346. An inner level lies within the package, so its capacity is counted there. -/
def levelWf (ws : List Word) (k : Nat) : Bool :=
  let e := recWord ws (8 + k)
  let d := levDomain ws k
  let c := levCount ws k
  let next := if k + 1 < recNlev ws then min (levDomain ws (k + 1)) 6 else 6
  fld e 56 8 == 0 && fld e 32 18 == 0 && fld e 50 3 ≤ 5
    && (if k == 0 then d == 0 else levDomain ws (k - 1) < d)
    && 1 ≤ c && (if d == 7 then c ≤ 256 else c ≤ 256 && c * domainHarts d ≤ domainHarts next)

/-- The record keeps R345 and R346 (status −3 otherwise). -/
def recordWf (ws : List Word) : Bool :=
  let w2 := recWord ws 2
  let w6 := recWord ws 6
  let n := recNlev ws
  fld w2 48 10 == 0 && fld w2 18 14 == 0 && !bit w2 7 && fld w6 48 15 == 0
    && (List.range 16).all (fun i => recWord ws (16 + i) == 0)
    && 1 ≤ n && n ≤ 8 && (if recFabric ws then fld w2 8 10 < levCount ws (n - 1) else fld w2 8 10 == 0)
    && fld (recWord ws 3) 0 21 == 0
    && (List.range 8).all (fun k => if k < n then levelWf ws k else recWord ws (8 + k) == 0)
    && (recWord ws 1).toNat % 8 == 0 && canonical (recWord ws 0) && canonical (recWord ws 1)
    && (!bit w6 63 || fld w6 32 16 != 0)

/-! ## Reads of the launch unit (R188) -/

/-- What a read through the launch's translation comes to: bytes, no right to read, a wait at a bank since a tick, or a request to
the host that has to be answered first. -/
inductive Rd (α : Type) where
  | ok (a : α)
  | bad
  | busy (since pa : Nat)
  | ask (pa n : Nat) (va : Word)

def Rd.bind {α β : Type} (x : Rd α) (f : α → Rd β) : Rd β :=
  match x with
  | .ok a => f a
  | .bad => .bad
  | .busy t p => .busy t p
  | .ask p n va => .ask p n va

def Rd.each {α β : Type} (f : α → Rd β) : List α → Rd (List β)
  | [] => .ok []
  | a :: as => (f a).bind fun b => (Rd.each f as).bind fun bs => .ok (b :: bs)

/-- The launch unit as it reads for a queue: it belongs to no cluster, and no translation cache is its (log 35). -/
def LaunchQ.reader (q : LaunchQ) (p : Nat) (ptroot : Word) : Who :=
  { mode := .user, part := some p, ptroot := ptroot, since := q.bank, unit := some Config.nClusters, stops := false }

/-- A page of the image or of the parameter block: its place, with the right that the read needs. -/
def State.imagePage (s : State) (w : Who) (acc : Acc) (va : Word) : Rd Place :=
  if !canonical va then .bad
  else
    match walkRoot s w va with
    | .busy pa => .busy (w.came pa s.tick) pa
    | .fault .. | .denied | .lost _ => .bad
    | .leaf e _ level =>
      let pa := fld e 16 36 * 65536 + va.toNat % leafSize level
      if bit e 11 || !(isVault pa || isHost pa) || !s.permitted w acc (e ||| 0x20) pa then .bad
      else .ok { key := pa, enc := if bit e 8 && isVault pa then some (e.extractLsb' 52 12) else none }

/-- Starts of the pieces of `n` bytes from `va` that lie in one block of `k` bytes, with their lengths. -/
def pieces (k : Nat) (va n : Nat) : List (Nat × Nat) :=
  if n == 0 then []
  else (List.range ((va + n - 1) / k - va / k + 1)).map fun i =>
    let a := max va ((va / k + i) * k)
    (a, min (va + n) ((va / k + i + 1) * k) - a)

/-- Every page of `n` bytes can be read. -/
def State.imagePages (s : State) (w : Who) (acc : Acc) (va : Word) (n : Nat) : Rd Unit :=
  (Rd.each (fun x => s.imagePage w acc (w64 x.1)) (pieces 65536 va.toNat n)).bind fun _ => .ok ()
/-- The bytes, read in pieces of 64; of host memory they are the host's answers. -/
def State.imageBytes (s : State) (got : List HostGot) (w : Who) (acc : Acc) (va : Word) (n : Nat) : Rd (List Byte) :=
  (Rd.each (fun x =>
    (s.imagePage w acc (w64 x.1)).bind fun q =>
      if isHost q.key then
        match got.find? fun a => a.pa == q.key && a.n == x.2 with
        | some a => if a.ok then .ok a.bytes else .bad
        | none => if (s.cutLink (hostLinks 0)).isSome then .bad else .ask q.key x.2 (w64 x.1)
      else if !s.bankFree q.key (w.came q.key s.tick) then .busy (w.came q.key s.tick) q.key
      else if s.eccBad q.key x.2 then .bad else .ok (s.readBytes q.enc q.key x.2)) (pieces 64 va.toNat n)).bind
    fun bs => .ok bs.flatten

/-! ## The image (R187 to R189) -/

structure Image where
  flags : Nat
  textoff : Nat
  textsize : Nat
  entry : Nat
  dataoff : Nat
  datasize : Nat
  spadbase : Nat
  zerosize : Nat
  gdataoff : Nat
  gdatasize : Nat
  pblocksize : Nat
  patchoff : Nat
  patchcount : Nat

/-- The header, if it keeps R187 and the rules of R188 that need no more than it. Its field gparam may hold any value (DESIGN
CHOICE: R187 gives it neither a range nor an alignment that R188 could test; log 35). -/
def imageOf (bs : List Byte) : Option Image :=
  let num (a n : Nat) : Nat := ofBytes ((bs.drop a).take n)
  let m : Image :=
    { flags := num 6 2, textoff := num 8 4, textsize := num 12 4, entry := num 16 4, dataoff := num 20 4
      datasize := num 24 4, spadbase := num 28 4, zerosize := num 32 4, gdataoff := num 36 4, gdatasize := num 40 4
      pblocksize := num 46 2, patchoff := num 48 4, patchcount := num 52 4 }
  let secs := [(m.textoff, m.textsize), (m.dataoff, m.datasize), (m.gdataoff, m.gdatasize), (m.patchoff, 8 * m.patchcount)].filter
    fun x => x.2 != 0
  let apart (a b : Nat × Nat) : Bool := a.1 + a.2 ≤ b.1 || b.1 + b.2 ≤ a.1
  let ok := num 0 4 == 0x4D494B4E && num 4 2 == 1 && m.flags < 2 && m.textoff % 64 == 0 && m.textsize % 2 == 0
    && 2 * m.entry < m.textsize && m.dataoff % 8 == 0 && m.spadbase % 128 == 0 && m.gdataoff % 8 == 0
    && m.patchoff % 8 == 0 && num 56 8 == 0 && secs.all (fun x => 64 ≤ x.1)
    && secs.zipIdx.all (fun x => secs.zipIdx.all fun y => x.2 == y.2 || apart x.1 y.1)
    && m.spadbase + m.datasize + m.zerosize ≤ spadSize
  if ok then some m else none

/-- A patch entry of a table, if its fields are valid (R189). -/
def patchOf (m : Image) (w : Word) : Option Patch :=
  let p : Patch := { shift := fld w 52 6, count := fld w 48 4, poff := fld w 32 16, word := fld w 0 32 }
  if fld w 58 6 == 0 && 1 ≤ p.count && p.count ≤ 4 && p.shift + 9 * p.count ≤ 64 && p.poff % 8 == 0
      && p.poff + 8 ≤ m.pblocksize && 2 * (p.word + p.count) ≤ m.textsize
  then some p else none

def isPi (bs : List Byte) : Bool := ofBytes bs / 2 ^ 9 == 0x38

/-- The check of the image of a record, with the reads of its pages and bytes: the launch it gives, or status −1. -/
def checkWith (pages : Acc → Word → Nat → Rd Unit) (bytes : Acc → Word → Nat → Rd (List Byte)) (part : Option Nat)
    (id : Nat) (ws : List Word) : Rd (Option Launch) :=
  let iv := recWord ws 0
  let at' (off : Nat) : Word := iv + w64 off
  if iv.toNat % 64 != 0 then .ok none
  else
    let fail {α : Type} (x : Rd α) (k : α → Rd (Option Launch)) : Rd (Option Launch) :=
      match x with
      | .ok a => k a
      | .bad => .ok none
      | .busy t p => .busy t p
      | .ask p n va => .ask p n va
    fail (bytes .load iv 64) fun hb =>
      match imageOf hb with
      | none => .ok none
      | some m =>
        fail (pages .fetch (at' m.textoff) m.textsize) fun _ =>
          fail (bytes .load (at' m.dataoff) m.datasize) fun data =>
            fail (bytes .load (at' m.patchoff) (8 * m.patchcount)) fun pb =>
              fail (pages .load (recWord ws 1) m.pblocksize) fun _ =>
                let ps := (wordsOf pb m.patchcount).map (patchOf m)
                if ps.any Option.isNone then .ok none
                else
                  let ps := ps.filterMap fun x => x
                  fail (Rd.each (fun (q : Patch) =>
                      Rd.each (fun i => bytes .fetch (at' (m.textoff + 2 * (q.word + i))) 2) (List.range q.count)) ps)
                    fun xs =>
                      if xs.all (fun x => x.all isPi) then
                        .ok (some
                          { id := id, part := part, words := ws, text := at' m.textoff, textsize := m.textsize
                            entry := m.entry, patches := ps, kernel := m.flags % 2 == 1, data := data
                            spadbase := m.spadbase, zerosize := m.zerosize })
                      else .ok none

def State.checkImage (s : State) (q : LaunchQ) (p id : Nat) (ws : List Word) : Rd (Option Launch) :=
  let w := q.reader p (recWord ws 5)
  checkWith (s.imagePages w) (s.imageBytes q.got w) (some p) id ws

/-! ### What the reads of an image leave (R70, R82, R91) -/

/-- The reads of the check, in order: each lies in one block of 64 bytes, and one of no bytes only translates its page. -/
def State.imageWork (s : State) (q : LaunchQ) (p : Nat) (ws : List Word) : List (Word × Nat) :=
  let iv := recWord ws 0
  let bytes (va : Word) (n : Nat) : List (Word × Nat) := (pieces 64 va.toNat n).map fun x => (w64 x.1, x.2)
  let pages (va : Word) (n : Nat) : List (Word × Nat) := (pieces 65536 va.toNat n).map fun x => (w64 x.1, 0)
  let got (va : Word) (n : Nat) : List Byte := match s.imageBytes q.got (q.reader p (recWord ws 5)) .load va n with | .ok bs => bs | _ => []
  let rest := match imageOf (got iv 64) with
    | none => []
    | some m =>
      let at' (off : Nat) : Word := iv + w64 off
      let ps := (wordsOf (got (at' m.patchoff) (8 * m.patchcount)) m.patchcount).filterMap (patchOf m)
      pages (at' m.textoff) m.textsize ++ bytes (at' m.dataoff) m.datasize ++ bytes (at' m.patchoff) (8 * m.patchcount)
        ++ pages (recWord ws 1) m.pblocksize
        ++ ps.flatMap fun q => (List.range q.count).map fun i => (at' (m.textoff + 2 * (q.word + i)), 2)
  if iv.toNat % 64 != 0 then [] else bytes iv 64 ++ rest

/-- The reads are made, up to the first that fails: their banks serve them, they are counted, and what cannot be corrected is
reported (R70, R82, R111). -/
def State.imageReads (s : State) (w : Who) : List (Word × Nat) → State
  | [] => s
  | (va, n) :: r =>
    let t := s.walked w va
    match walkRoot s w va, s.imagePage w .load va with
    | .leaf e entry level, .ok q =>
      if n == 0 then State.imageReads t w r
      else
        let u := (t.countAccess w va e entry level).unitTouch 0 q.key n
        if s.eccBad q.key n then u else State.imageReads u w r
    | .fault _ _ (some pa), _ => t.machineCheck 2 (pa / 1024 % 8) 0 (w64 (pa / 8192 * 8192)) va
    | _, _ => t
def State.imageRead (s : State) (q : LaunchQ) (p : Nat) (ws : List Word) : State :=
  s.imageReads (q.reader p (recWord ws 5)) (s.imageWork q p ws)

/-! ## The launch unit's queue -/

def State.modLq (s : State) (p k : Nat) (f : LaunchQ → LaunchQ) : State :=
  s.modPart p fun x => { x with lqs := Tab.put x.lqs k (f (Tab.get {} x.lqs k)) }
def State.lq (s : State) (p k : Nat) : LaunchQ := Tab.get {} (s.part p).lqs k

/-- The completion message of a launch (R347). -/
def State.launchDone (s : State) (part : Option Nat) (id : Nat) (ws : List Word) (status : Int) : State :=
  let done := recWord ws 3
  if done == 0 then s
  else s.deviceSend
    { hdr := withLen done 3, pay := [w64 id, wInt status, recWord ws 7], origin := 3, part := part, launch := id, via := 3 }

/-- The slot of number `n` at `a` has been decided: identifier, status and completion sequence are written, in that order, and the
head passes it (R397, R398). -/
def State.slotDecided (s : State) (p k : Nat) (n : BitVec 32) (a id : Nat) (status : Int) : State :=
  let put (o : Nat) (v : Word) (s : State) : State := s.devWriteFor 0 (a + o) (toBytes 8 v.toNat)
  let s := put 264 (w64 n.toNat) (put 272 (wInt status) (put 280 (w64 id) s))
  s.modLq p k fun q => { q with head := if q.head == n then n + 1 else q.head, tries := 0, retryAt := 0 }
/-- The record that the unit has taken is processed: its slot is decided. -/
def State.recordDone (s : State) (p k : Nat) (t : Taken) : State :=
  (s.modLq p k fun q => { q with taken := q.taken.drop 1, got := [], bank := none }).slotDecided p k t.n t.slot t.id 1

/-- The record has failed. -/
def State.launchFails (s : State) (p k : Nat) (t : Taken) (status : Int) : State :=
  (s.launchDone (some p) t.id t.words status).recordDone p k t

/-- The check asks the host for a part of the image, one at a time (R394). -/
def State.imageAsk (s : State) (p k pa n : Nat) (va : Word) : State :=
  if s.hostOut.any fun q => q.queue == some (p, k) then s
  else { s with hostOut := s.hostOut ++ [{ queue := some (p, k), pa := pa, n := n, va := va, issued := s.tick }] }

/-- LAUNCH_RECORD (i = partition, j = queue): the checks of R347, in order. -/
def execLaunchRecord (s : State) : Out :=
  let p := s.ev.i
  let k := s.ev.j
  if Config.nParts ≤ p || 8 ≤ k then .fault .noSuchUnit
  else
    match (s.lq p k).taken with
    | [] => .next s
    | t :: rest =>
      let ws := t.words
      if t.checked || !s.boot.full then .next s
      else if fld (recWord ws 2) 0 7 != p || !(s.part p).live then .next (s.launchFails p k t (-4))
      else if !recordWf ws then .next (s.launchFails p k t (-3))
      else
        let q := s.lq p k
        match s.checkImage q p t.id ws with
        | .busy since pa => .next (s.modLq p k fun q => { q with bank := some (since, pa) })
        | .ask pa n va => .next (s.imageAsk p k pa n va)
        | .bad | .ok none => .next ((s.imageRead q p ws).launchFails p k t (-1))
        | .ok (some l) =>
          let s := s.imageRead q p ws
          if 256 * (s.part p).clusters.length < recHarts ws then .next (s.launchFails p k t (-2))
          else
            let s := s.modLq p k fun q => { q with taken := { t with checked := true } :: rest }
            .next { s with launches := Tab.put s.launches t.id l }

/-! ## Placement (R346, R348, R349) -/

/-- The product of the counts below level k. -/
def stride (ws : List Word) (k : Nat) : Nat := (((innerCounts ws).take k)).foldl (· * ·) 1
/-- The index of rank r at level k. -/
def indexAt (ws : List Word) (r k : Nat) : Nat := r / stride ws k % levCount ws k
def recIdx (ws : List Word) (r : Nat) : List Nat :=
  (List.range (innerLevels ws)).map (indexAt ws r) ++ (if recFabric ws then [fld (recWord ws 2) 8 10] else [])

/-- The rank of R346 of the hart that is number r among the record's harts in this package. -/
def recRank (ws : List Word) (r : Nat) : Nat :=
  if recFabric ws then r + recHarts ws * fld (recWord ws 2) 8 10 else r

def pairwiseNe (l : List Nat) : Bool := l.eraseDups.length == l.length

/-- Harts that share their indices from level k up lie in one instance of its domain, and others in other instances. -/
def levelPlaced (ws : List Word) (hs : List Nat) (k : Nat) : Bool :=
  let n := stride ws k
  let units := hs.map (· / domainHarts (levDomain ws k))
  let heads := (List.range (hs.length / n)).map fun b => units.getD (n * b) 0
  units.zipIdx.all (fun u => u.1 == heads.getD (u.2 / n) 0) && pairwiseNe heads

/-- A core is reserved now; past its time it is not, though RETENTION_EXPIRY has not come yet (R350). -/
def State.reserved (s : State) (c : Nat) : Bool := (s.core c).resTag != 0 && decide (s.tick < (s.core c).resUntil)
/-- A core is reserved for the tag that a launch claims. -/
def State.claimed (s : State) (l : Launch) (c : Nat) : Bool :=
  s.reserved c && (s.core c).resTag == fld (recWord l.words 6) 16 16
/-- A core may take a hart of launch l: it is not reserved, or for this launch, or by it (R350). -/
def State.coreOpen (s : State) (l : Launch) (c : Nat) : Bool :=
  !s.reserved c || s.claimed l c || (s.core c).resLaunch == l.id

/-- The placement of harts for ranks 0, 1, … keeps R346 and R349. -/
def State.placeOk (s : State) (p : Option Nat) (l : Launch) (hs : List Nat) : Bool :=
  hs.length == recHarts l.words
    && (List.range (innerLevels l.words)).all (levelPlaced l.words hs)
    && hs.zipIdx.all fun hr =>
        let h := hr.1
        h < Config.nHarts && (s.hart h).st == .free && s.inSet p (clusterOf h) && s.coreOpen l (coreOf h)
          && (List.range (h % 4)).all fun i =>
              let g := coreOf h * 4 + i
              (s.hart g).st != .free || (hs.take hr.2).contains g

/-- The sum of the `n` largest of some numbers. -/
def topSum (n : Nat) (ws : List Nat) : Nat :=
  let rec insert (a : Nat) : List Nat → List Nat
    | [] => [a]
    | b :: t => if b < a then a :: b :: t else b :: insert a t
  ((ws.foldr insert []).take n).sum

/-- The instances of level k's domain that hold one instance of each level below for launch l (R346, R349), each with the number
of its harts that then lie on cores of the claimed tag, at most. -/
def State.roomy (s : State) (p : Option Nat) (l : Launch) : Nat → List (Nat × Nat)
  | 0 => ((List.range Config.nClusters).filter (s.inSet p)).flatMap fun g =>
      (((List.range 256).map fun i => 256 * g + i).filter fun h => (s.hart h).st == .free && s.coreOpen l (coreOf h)).map fun h =>
        (h, b2n (s.claimed l (coreOf h)))
  | k + 1 =>
    let of := (State.roomy s p l k).map fun u =>
      (u.1 * domainHarts (levDomain l.words k) / domainHarts (levDomain l.words (k + 1)), u.2)
    ((of.map (·.1)).eraseDups.map fun g => (g, (of.filter (·.1 == g)).map (·.2))).filterMap fun gw =>
      if levCount l.words k ≤ gw.2.length then some (gw.1, topSum (levCount l.words k) gw.2) else none
/-- Enough harts are free for the whole launch. -/
def State.roomFor (s : State) (p : Option Nat) (l : Launch) : Bool :=
  let n := innerLevels l.words - 1
  levCount l.words n ≤ (s.roomy p l n).length

/-- A launch at the head of a queue with a lower number goes first (R360). -/
def State.lowerFirst (s : State) (p k : Nat) : Bool :=
  (List.range k).any fun j => match (s.lq p j).taken with
    | t :: _ => t.checked && s.roomFor (some p) (s.launch t.id)
    | [] => false

/-- Reserved cores of the claimed tag come first (R350): the placement puts as many harts on them as any could. -/
def State.claimOk (s : State) (p : Option Nat) (l : Launch) (hs : List Nat) : Bool :=
  let n := innerLevels l.words - 1
  fld (recWord l.words 6) 16 16 == 0
    || (hs.filter fun h => s.claimed l (coreOf h)).length == topSum (levCount l.words n) ((s.roomy p l n).map (·.2))

/-- Every ring of the group is turned off where no core of it holds a hart or is reserved (R48). -/
def State.freshGroup (s : State) (g : Nat) : State :=
  let quiet := (List.range 16).all fun i =>
    let c := g * 16 + i
    !s.reserved c && (List.range 4).all fun j => (s.hart (c * 4 + j)).st == .free
  if quiet then s.modGroup g fun x => { x with rings := [] } else s

/-- The scratchpad banks of a core power down; once woken they read zero (R20). -/
def State.powerDown (s : State) (c : Nat) : State :=
  let s := { s with mem := Mem.wipe s.mem fun k => isSpad k && coreOfBits (k - Config.spadKey) == c }
  s.modCore c fun k => { k with powered := 0, badWords := [], corrWords := [], resTag := 0, resUntil := 0, resLaunch := 0 }

/-- The core receives the .data and zero fill of launch id before its first hart starts there (R188). -/
def State.coreData (s : State) (id c : Nat) : State :=
  let l := s.launch id
  if l.cores.contains c then s
  else
    (s.modLaunch id fun l => { l with cores := l.cores ++ [c] }).putSpad (spadLoc c l.spadbase)
      (l.data ++ List.replicate l.zerosize 0)

def launchMode (l : Launch) : Mode := if l.boot then .monitor else if l.kernel then .kernel else .user

/-- A hart of launch id starts (R33, R209, R291, R348). -/
def State.startHart (s : State) (id h : Nat) (spawned : Bool) (idx : List Nat) (a1 a2 pc : Word) : State :=
  let l := s.launch id
  let c := coreOf h
  let s := if (s.core c).resTag != 0 && !s.reserved c then s.powerDown c else s
  let s := (s.coreData id c).modCore c fun k => { k with powered := BitVec.allOnes 16, resTag := 0, resUntil := 0, resLaunch := 0 }
  s.setHart h
    { st := .active, pc := pc, mode := launchMode l, array := groupOf h % 4, prio := fld (recWord l.words 2) 58 2
      regs := [(12, recWord l.words 1), (13, a1), (14, a2), (15, w64 id)], launch := id, spawned := spawned, idx := idx
      part := l.part
      t := { tvec := evenWord (recWord l.words 4), ptroot := recWord l.words 5 &&& (0x000F_FFFF_FFFF_F000 : Word)
             pspace := (recWord l.words 6).setWidth 16 } }

def entryPc (l : Launch) : Word := l.text + w64 (2 * l.entry)

/-- Every hart of launch id starts, at the harts given for its ranks. -/
def State.placeHarts (s : State) (id : Nat) (hs : List Nat) : State :=
  let l := s.launch id
  let s := ((hs.map groupOf).eraseDups).foldl State.freshGroup s
  let s := s.modLaunch id fun l => { l with placed := true }
  hs.zipIdx.foldl (fun s hr =>
    let idx := recIdx l.words hr.2
    let a2 := w64 ((idx.zipIdx.map fun ik => ik.1 % 256 * 2 ^ (8 * ik.2)).sum)
    s.startHart id hr.1 false idx (w64 (recRank l.words hr.2)) a2 (entryPc l)) s

/-- LAUNCH_PLACE (i = partition, j = queue, harts = the launch unit's choice of free harts for ranks 0, 1, …, which R346 does
not fix, log 4): the harts start where it is a legal one. -/
def execLaunchPlace (s : State) : Out :=
  let p := s.ev.i
  let k := s.ev.j
  if Config.nParts ≤ p || 8 ≤ k then .fault .noSuchUnit
  else
    match (s.lq p k).taken with
    | [] => .next s
    | t :: _ =>
      let l := s.launch t.id
      let hs := s.ev.harts
      if !t.checked || !s.boot.full || (s.part p).swSt != .resident || s.lowerFirst p k || !s.placeOk (some p) l hs || !s.claimOk (some p) l hs then .next s
      else .next ((s.placeHarts t.id hs).recordDone p k t)

/-! ## Retirement (R347) -/

/-- No hart, transfer or array command of the launch is left. -/
def State.launchOver (s : State) (id : Nat) : Bool :=
  s.harts.all (fun kx => kx.2.st == .free || kx.2.launch != id)
    && s.cores.all (fun kc => kc.2.xfers.all fun kt => !(kt.2.live && kt.2.launch == id))
    && s.groups.all (fun kg => kg.2.cmds.all fun c => c.kind == .release || c.launch != id)
    && s.parts.all (fun kp =>
      kp.2.swapped.harts.all (fun kx => kx.2.st == .free || kx.2.launch != id)
        && kp.2.swapped.cores.all fun kc => kc.2.xfers.all fun kt => !(kt.2.live && kt.2.launch == id))

/-- LAUNCH_RETIRE (i = launch identifier). -/
def execLaunchRetire (s : State) : Out :=
  let id := s.ev.i
  let l := s.launch id
  if !l.placed || l.retired || !s.launchOver id then .next s
  else .next ((s.modLaunch id fun l => { l with retired := true }).launchDone l.part id l.words 1)

/-! ## Retention (R350) -/

/-- The core's last hart has halted: its banks power down, or are kept for a successor (R350). -/
def State.coreEmpty (s : State) (c : Nat) (l : Launch) : State :=
  let w6 := recWord l.words 6
  let ticks := match l.part with | some p => (s.part p).plret.toNat | none => 0
  if bit w6 63 && ticks != 0 then
    s.modCore c fun k => { k with resTag := fld w6 32 16, resUntil := s.tick + ticks, resLaunch := l.id }
  else s.powerDown c

/-- RETENTION_EXPIRY (i = core). -/
def execRetentionExpiry (s : State) : Out :=
  let c := s.ev.i
  if Config.nCores ≤ c then .fault .noSuchUnit
  else if (s.core c).resTag != 0 && (s.core c).resUntil ≤ s.tick then .next (s.powerDown c)
  else .next s

/-! ## HALT (R349, R351) -/

/-- The hart's octets return to the pool, and gifts that it has not taken are discarded (R35). -/
def State.dropOctets (s : State) (h : Nat) : State :=
  let x := s.hart h
  let os := x.slotA.toList ++ x.slotB.toList ++ s.giftsTo h
  (os.foldl (fun s o => s.freeOctet (coreOf h) o) s).modHart h fun x => { x with slotA := none, slotB := none }

/-- The elements of the hart's write streams, and then its stores, are performed. -/
def State.flushStreams (s : State) (h : Nat) : Option State :=
  (List.range 8).foldl (fun (t : Option State) n =>
    match t with
    | none => none
    | some t =>
      if (t.stream h n).bound && (t.stream h n).wr then State.writeElements h n (t.stream h n).buf.length t else some t)
    (s.drain h)

/-- The hart is on the free list; its FFLAGS stay as they are (R363). -/
def State.freeHart (s : State) (h : Nat) : State := s.setHart h { u := { fflags := (s.hart h).u.fflags } }

/-- The hart ends its lease, releases its banks and octets, and leaves its launch's barriers for good (R349). -/
def State.leaveAll (s : State) (h : Nat) : State :=
  let x := s.hart h
  let s := ((s.haltMatrix h).dropOctets h).modHart h fun k => { k with spawned := true }
  s.leaveBarriers x.barriers h x.launch

/-- The hart, whose stores have been performed, joins its core's free list; the core's last one empties it (R349, R350). -/
def State.endHart (s : State) (h : Nat) (l : Launch) : State :=
  let s := (s.dropMailboxes h).freeHart h
  if (List.range 4).all fun i => (s.hart (coreOf h * 4 + i)).st == .free then s.coreEmpty (coreOf h) l else s

/-- The lease, the banks, the octets and the barriers go before the stores are waited for (R349), and the messages in its spillways
are read once their banks are free (R78); what is done twice where the instruction is run again changes nothing. -/
def execHalt (s : State) : Out :=
  serial s fun s =>
    let h := s.cx.hart
    let l := s.launch s.me.launch
    let s := s.leaveAll h
    match s.flushStreams h with
    | none => holdAt .halting s
    | some t =>
      if t.me.st != s.me.st then .next t
      else
        match t.mailBlock h with
        | some (x, since, pa) => holdAt .halting (t.modMb h x fun b => { b with bank := some (since, pa) })
        | none => .next (t.endHart h l)

/-! ## SPAWN (R352) -/

/-- The lowest free hart of core c that a launch may take. -/
def State.freeHartOf (s : State) (l : Launch) (c : Nat) : Option Nat :=
  if s.coreOpen l c then ((List.range 4).map fun i => c * 4 + i).find? fun h => (s.hart h).st == .free else none

def execSpawn (o : SpawnOp) (s : State) : Out :=
  let h := s.cx.hart
  let b := s.rd o.b
  let pc := s.rd o.a
  match classify h b with
  | .coord x =>
    let c := coreOfBits x
    if bit pc 0 then trap Cause.misaligned pc s
    else if !s.inSet s.me.part (c / 64) then finish (s.deferReg o.d (BitVec.allOnes 64))
    else
      let id := s.me.launch
      match s.freeHartOf (s.launch id) c with
      | none => finish (s.deferReg o.d 0)
      | some g =>
        let arg := s.rd o.d
        orderedIn 4 s fun s =>
          finish ((s.startHart id g true [] arg (BitVec.allOnes 64) pc).deferReg o.d (s.hartId g))
  | _ => trap Cause.space b s

/-! ## LAUNCH (R353) -/

/-- The next launch identifier: a non-zero 32-bit number. -/
def State.newLaunch (s : State) : Nat × State :=
  (s.nextLaunch, { s with nextLaunch := if s.nextLaunch + 1 < 2 ^ 32 then s.nextLaunch + 1 else 1 })

def slotAddr (q : LaunchQ) (n : BitVec 32) : Nat := q.base + 512 * (n.toNat % 2 ^ q.lgsize)

/-- The queue can take a post. -/
def LaunchQ.open (q : LaunchQ) : Bool := q.en && q.dev && (q.tail - q.head).toNat < 2 ^ q.lgsize

/-- LAUNCH: the record lies in global space (R345); an address of another space raises SPACE_INVALID (DESIGN CHOICE: R353 names no
cause for one; log 35). -/
def execLaunch (o : LaunchOp) (s : State) : Out :=
  let h := s.cx.hart
  let k := match o.b with | some b => (s.rd b).toNat | none => 0
  let a := s.rd o.a
  if 8 ≤ k then illegal s
  else if !canonical a then trap Cause.space a s
  else
    ((Look.each (fun i s => loadBytes h (a + w64 (64 * i)) 64 64 0 s) (List.range 4) s).trapAt a).out .load fun bs s =>
      match s.me.part with
      | none => finish (s.deferReg o.d 0)
      | some p =>
        let q := s.lq p k
        let at' := slotAddr q q.tail
        if !q.open || !s.boot.full then finish (s.deferReg o.d 0)
        else if !s.bankFree at' ((s.who h).came at' s.tick) then holdAt (.bank ((s.who h).came at' s.tick) at') s
        else
          drained s fun s =>
            let (id, s) := s.newLaunch
            let s := s.devWriteFor h at' (bs.flatten ++ toBytes 8 q.tail.toNat)
            let s := s.modLq p k fun q => { q with tail := q.tail + 1, ids := q.ids ++ [id] }
            finish (s.deferReg o.d (w64 id))

/-! ## Slots of launch queues (R397, R398) -/

/-- A slot that the unit cannot read: in a shadow row (R89), or uncorrectable, which is reported (R82). A host-fed one then matches no
tag, and of a device-fed one, which is never torn, the record reads as zeros (DESIGN CHOICE; log 35). -/
def State.slotLost (s : State) (a : Nat) : Bool := s.isShadow a || s.eccBad a 264

/-- One read of the head slot: its tag matches and it is taken, or it is read again 256 ticks later; 256 ticks after a fifth
read it is torn. -/
def State.readSlot (s : State) (p k : Nat) : State :=
  let q := s.lq p k
  let a := slotAddr q q.head
  let since := waitCame q.bank a s.tick
  if q.tries == 5 then
    (s.modLq p k fun q => { q with torn := if q.torn == 0xFFFF then q.torn else q.torn + 1 }).slotDecided p k q.head a 0 (-5)
  else if !s.isShadow a && !s.bankFree a since then s.modLq p k fun q => { q with bank := some (since, a) }
  else
    let lost := s.slotLost a
    let s := (if s.isShadow a then s else s.unitTouch 0 a 264).modLq p k fun q => { q with bank := none }
    let bs := if lost then List.replicate 264 0 else s.readBytes none a 264
    if if q.dev then true else !lost && ofBytes (bs.drop 256) == q.head.toNat then
      let (id, s) := match q.ids with
        | i :: _ => (i, s.modLq p k fun q => { q with ids := q.ids.drop 1 })
        | [] => s.newLaunch
      s.modLq p k fun q => { q with taken := [{ n := q.head, slot := a, id := id, words := wordsOf bs 32 }] }
    else s.modLq p k fun q => { q with tries := q.tries + 1, retryAt := s.tick + 256 }

/-- A queue (i = partition, j = queue) with a slot to decide, when its last record has been processed (R347, R398). -/
def slotEvent (s : State) (k : LaunchQ → Bool) : Out :=
  let p := s.ev.i
  let j := s.ev.j
  if Config.nParts ≤ p || 8 ≤ j then .fault .noSuchUnit
  else
    let q := s.lq p j
    .next (if q.head != q.tail && q.taken == [] && s.boot.full && k q then s.readSlot p j else s)

/-- LAUNCH_SLOT_DECIDE: the first read of a slot. -/
def execLaunchSlotDecide (s : State) : Out := slotEvent s fun q => q.tries == 0
/-- LAUNCH_SLOT_REREAD. -/
def execLaunchSlotReread (s : State) : Out := slotEvent s fun q => q.tries != 0 && q.retryAt ≤ s.tick

end Sys2Proof.Machine
end

