-- ==== Sys2Proof/Machine/RegSteps.lean ====
section
/-! DEFINITION. The steps that a write to region 0x4 is: the splinter pool, partitions, cluster sets, measurement registers,
launch and host queues, and plain registers (spec/01 R25, spec/05 R104, spec/24 R396 to R399, spec/25 R401 to R405). The
writer is a hart, by a store in its buffer (i = hart, j = entry), or with `ok` set the host through BAR0 (`req` and `v`). -/

namespace Sys2Proof.Machine

/-- Offset in region 0x4 of a BAR0 offset: the queue blocks (R393, R396). -/
def barOffset (off : Nat) : Nat := 0x000A * 2 ^ 32 + off

/-- Every earlier write of a host requester has committed (R141, R142, R395). -/
def State.hostQuiet (s : State) (requester : Nat) : Bool := s.hostPend.all fun d => d.requester != requester || d.want != 0

/-- The step named `k` of a write. One of the host commits after every earlier write of its requester (R142, R395). -/
def regWriteStep (k : RegStep) (s : State) : Out :=
  if s.ev.ok then
    let off := barOffset s.ev.req.off
    if s.ev.req.bar != 0 || 0x8_0000 ≤ s.ev.req.off || s.ev.req.off % 8 != 0 || !s.boot.hostLink
        || !s.hostQuiet s.ev.req.requester || regStep s off s.ev.v != k then .next s
    else .next (regWrite s .kernel off s.ev.v)
  else
    entryStep s fun h j e =>
      if e.toReg && regStep s (e.base % 2 ^ 48) (w64 (ofBytes e.bytes)) == k then s.performEntry h j e else s

/-- PTSPLIT_PUSH. -/
def execPtsplitPush (s : State) : Out := regWriteStep .splitPush s
/-- PTSPLIT_REPLACE. -/
def execPtsplitReplace (s : State) : Out := regWriteStep .splitReplace s
/-- PARTITION_CREATE. -/
def execPartitionCreate (s : State) : Out := regWriteStep .create s
/-- PARTITION_DESTROY. -/
def execPartitionDestroy (s : State) : Out := regWriteStep .destroy s
/-- CLUSTER_SET_WRITE. -/
def execClusterSetWrite (s : State) : Out := regWriteStep .clusterSet s
/-- SWAP_OUT. -/
def execSwapOut (s : State) : Out := regWriteStep .swapOut s
/-- MR_EXTEND. -/
def execMrExtend (s : State) : Out := regWriteStep .extend s
/-- LQKICK. -/
def execLqkick (s : State) : Out := regWriteStep .kick s
/-- LQCFG_ENABLE. -/
def execLqcfgEnable (s : State) : Out := regWriteStep .lqEnable s
/-- HQCFG_ENABLE. -/
def execHqcfgEnable (s : State) : Out := regWriteStep .hqEnable s
/-- HQPTR_HEAD_WRITE. -/
def execHqptrHeadWrite (s : State) : Out := regWriteStep .hqHead s
/-- REGISTER_WRITE. -/
def execRegisterWrite (s : State) : Out := regWriteStep .plain s

end Sys2Proof.Machine
end

