-- ==== Sys2Proof/Machine/HostIf.lean ====
section
/-! DEFINITION. The host port: requests through the BARs, and the completions of the device's requests to host memory (spec/24
R393 to R395; logs 9 and 25). A write is taken as posted words, which commit one by one (R115, R141, R395). -/

namespace Sys2Proof.Machine

/-- The bytes of a request lie in one BAR, within the payload limit of R393. -/
def State.hostReach (s : State) (n : Nat) : Bool :=
  let r := s.ev.req
  s.boot.hostLink && s.boot.full && (r.bar == 2 || r.bar == 4) && 0 < n && n ≤ 4096 && r.off + n ≤ 2 ^ 39

def State.answer (s : State) (a : Answer) : State := { s with answers := s.answers ++ [a] }

/-! ## Posted writes (R141, R395) -/

/-- The parts of a write of `bs` at `a` that lie in one aligned 8-byte word each. -/
def wordParts (a : Nat) (bs : List Byte) : List (Nat × List Byte) :=
  (pieces 8 a bs.length).map fun p => (p.1, (bs.drop (p.1 - a)).take p.2)

/-- An earlier posted word `d` of a requester commits before `e`: both belong to BAR4 writes, or they lie in one aligned
64-byte block; words of one write are unordered. -/
def HostPend.before (d e : HostPend) : Bool :=
  d.requester == e.requester && d.want == 0 && d.write != e.write && ((d.bar4 && e.bar4) || d.addr / 64 == e.addr / 64)

/-- The rows that a request touches, and its waits at their banks (R70, R78). -/
def HostPend.rows (d : HostPend) : List Nat := (pieces 8192 d.addr (max d.want d.bytes.length)).map (·.1)
def State.hostWaits (s : State) (d : HostPend) : List (Nat × Nat) := bankWaits d.waits s.tick d.rows
/-- Every bank that the request needs is available. -/
def State.hostFree (s : State) (d : HostPend) : Bool := (s.hostWaits d).all fun w => s.bankFree w.2 w.1
/-- Request `i` stays at its banks. -/
def State.hostStays (s : State) (i : Nat) (d : HostPend) : State :=
  { s with hostPend := s.hostPend.set i { d with waits := s.hostWaits d } }

/-- What comes before posted word `i` has committed. -/
def State.hostFirst (s : State) (i : Nat) (e : HostPend) : Bool := (s.hostPend.take i).all fun d => !d.before e

/-- A posted word is stored as given, in plaintext (R393); nothing happens in a shadow row (R89). A slice commits no whole
codeword, so an uncorrectable one is merged into, and reported (R82; DEDUCED from R69 and R395). -/
def State.hostCommit (s : State) (i : Nat) (e : HostPend) : State :=
  let t := { s with hostPend := s.hostPend.eraseIdx i }
  if s.isShadow e.addr then t
  else ((t.unitTouch 0 e.addr e.bytes.length).mend e.addr e.bytes.length).writeBytes none e.addr e.bytes

/-- HOST_WRITE: the bytes are taken as posted words; with `ok` set posted word i commits. -/
def execHostWrite (s : State) : Out :=
  let r := s.ev.req
  if s.ev.ok then
    match s.hostPend[s.ev.i]? with
    | none => .next s
    | some e =>
      .next (if e.want != 0 || !s.hostFirst s.ev.i e then s
        else if s.hostFree e then s.hostCommit s.ev.i e else s.hostStays s.ev.i e)
  else if !s.hostReach s.ev.bytes.length then .next s
  else
    let (n, s) := s.draw
    .next { s with hostPend := s.hostPend ++ (wordParts r.off s.ev.bytes).map fun p =>
      { requester := r.requester, bar4 := r.bar == 4, write := n, addr := p.1, bytes := p.2 } }

/-! ## Reads -/

/-- A row of a shadow region is touched (R89). -/
def State.hostShadow (s : State) (a n : Nat) : Bool := (pieces 8192 a n).any fun p => s.isShadow p.1

/-- The uncorrectable codewords of a read are reported. -/
def State.hostBad (s : State) (a n : Nat) : State :=
  ((codewords a n).filter s.badCodewords.contains).foldl (fun s w =>
    (s.countBad (1024 * w)).machineCheck 2 (w % 8) 0 (w64 (w / 8 * 8192)) (w64 a)) s

/-- A read is answered with the bytes as stored, those of an uncorrectable codeword with the EP bit (R393). -/
def State.hostServe (s : State) (d : HostPend) : State :=
  let n := d.want
  if s.hostShadow d.addr n then s.answer .unsupported
  else
    let bs := s.readBytes none d.addr n
    let bad := (List.range n).filter fun i => s.eccBad (d.addr + i) 1
    let s := (pieces 8192 d.addr n).foldl (fun s p => s.touch p.1 p.2) s
    (s.hostBad d.addr n).answer (.read bs bad)

/-- HOST_READ (w = bytes), after the requester's earlier writes: it is answered, or waits at a bank (R78); through BAR0 a queue
register, and zero elsewhere there (R393). With `ok` set request i is a read that has waited. -/
def execHostRead (s : State) : Out :=
  let r := s.ev.req
  let n := s.ev.w
  if s.ev.ok then
    match s.hostPend[s.ev.i]? with
    | none => .next s
    | some d =>
      .next (if d.want == 0 then s
        else if s.hostFree d then { s with hostPend := s.hostPend.eraseIdx s.ev.i }.hostServe d else s.hostStays s.ev.i d)
  else if !s.hostQuiet r.requester then .next s
  else if r.bar == 0 then
    if !s.boot.hostLink || n != 8 || r.off % 8 != 0 || 2 ^ 24 ≤ r.off then .next s
    else
      let v := if r.off < 0x8_0000 then regRead s (barOffset r.off) else 0
      .next (s.answer (.read (toBytes 8 v.toNat) []))
  else if !s.hostReach n then .next s
  else
    let d : HostPend := { requester := r.requester, addr := r.off, want := n }
    .next (if s.hostFree d then s.hostServe d
      else { s with hostPend := s.hostPend ++ [{ d with waits := s.hostWaits d }] })

/-- HOST_UNSUPPORTED: with `ok` set an AtomicOp, else a request to BAR0 that is no naturally aligned 8-byte access. -/
def execHostUnsupported (s : State) : Out :=
  let bad := s.ev.ok || (s.ev.req.bar == 0 && (s.ev.w != 8 || s.ev.req.off % 8 != 0))
  .next (if s.boot.hostLink && bad then s.answer .unsupported else s)

/-- The hart whose instruction, or stream `st`, asked goes on with the answer. -/
def Hart.hear (x : Hart) (st : Option Nat) (ok : Bool) (bs : List Byte) : Hart :=
  match st with
  | some n =>
    let t := Tab.get ({} : Stream) x.streams n
    if t.look.isSome then { x with streams := Tab.put x.streams n { t with got := t.got ++ [(ok, bs)] } } else x
  | none => if x.hold.map (·.kind) == some (.hostReply none) then { x with done := x.done ++ [.read ok bs] } else x

/-- The answer to a device request: its hart, stream or launch queue has it (R394). On its way back a failed link may lose it,
which loses the hart (R229, R390), and fails the read of a launch. -/
def State.hostAnswer (s : State) (i : Nat) (q : HostOut) (ok : Bool) (bs : List Byte) : State :=
  let t := { s with hostOut := s.hostOut.eraseIdx i }
  match q.queue with
  | some (p, k) =>
    let ok := ok && (s.replyCut 0 q.pa).isNone
    t.modLq p k fun l => { l with got := l.got ++ [⟨q.pa, q.n, ok, bs⟩] }
  | none =>
    if (s.replyCut q.h q.pa).isSome then t.lose q.h q.va (s.hart q.h).pc false
    else t.modHart q.h (·.hear q.stream ok bs)

/-- HOST_COMPLETION (i = request): the host's answer, with the bytes that its memory holds where `ok` is set; one that comes
later than 50,000 ticks after the request is none (R394). -/
def execHostCompletion (s : State) : Out :=
  match s.hostOut[s.ev.i]? with
  | none => .next s
  | some q =>
    let ok := s.ev.ok && decide (s.tick ≤ q.issued + 50000)
    if ok && s.ev.bytes.length != q.n then .next s
    else .next (s.hostAnswer s.ev.i q ok (if ok then s.ev.bytes else []))

/-- HOST_REQUEST_TIMEOUT (i = request): no completion within 50,000 ticks. -/
def execHostRequestTimeout (s : State) : Out :=
  match s.hostOut[s.ev.i]? with
  | none => .next s
  | some q => .next (if q.issued + 50000 ≤ s.tick then s.hostAnswer s.ev.i q false [] else s)

end Sys2Proof.Machine
end

