-- ==== Sys2Proof/Machine/Boot.lean ====
section
/-! DEFINITION. Package reset and measured boot, the end of DRAM training, the sideband, the life cycle, power and temperature
(spec/25 R405 to R411). -/

namespace Sys2Proof.Machine

/-! ## Reset (R408) -/

/-- Every agent stops and all SRAM is zero; DRAM, host memory, the life-cycle state and what the sideband has answered stay.
-/
def State.wiped (s : State) : State :=
  { State.reset with
    turn := s.turn, steps := s.steps, draws := s.draws, cx := s.cx, ev := s.ev
    mem := Mem.wipe s.mem fun k => isSpad k || isBoot k
    encUnits := s.encUnits, badCodewords := s.badCodewords, corrCodewords := s.corrCodewords
    temps := s.temps, answers := s.answers
    boot := { lc := s.boot.lc, key := s.boot.key, draws := s.boot.draws + 1, hostLink := false } }

/-- Boot has failed at step n, and the package is held in reset. -/
def State.bootFails (s : State) (n : Nat) : State :=
  { s.wiped with boot := { s.boot with step := n, failed := true, hostLink := false } }

/-- A measurement register extended with a digest (R405). -/
def State.extend (s : State) (k : Nat) (d : BitVec 512) : State :=
  let old := Tab.get 0 s.boot.mr k
  { s with boot := { s.boot with mr := Tab.put s.boot.mr k (sha512 (vBytes old ++ vBytes d)) } }

/-! ## Boot steps 1 to 3 (R405) -/

/-- The harts that the coordinates of R346 name when every domain is filled from its lowest instance. -/
def lowHarts (ws : List Word) : List Nat :=
  (List.range (recHarts ws)).map fun r =>
    ((List.range (innerLevels ws)).map fun k => indexAt ws r k * domainHarts (levDomain ws k)).sum

/-- The image that boot has read, as the launch unit reads it in the boot SRAM. -/
def State.bootPages (_s : State) (_acc : Acc) (va : Word) (n : Nat) : Rd Unit :=
  if n == 0 || (isBoot (fld va 0 52) && isBoot (fld va 0 52 + n - 1)) then .ok () else .bad
def State.bootBytes (s : State) (acc : Acc) (va : Word) (n : Nat) : Rd (List Byte) :=
  (s.bootPages acc va n).bind fun _ => .ok (s.readBytes none (fld va 0 52) n)

/-- Where boot `k` puts the launch record in the boot SRAM, which spec/ leaves open. -/
def recordPlace (k : Nat) : Nat := bootSram + Config.bootRecordPlace k % (0x400000 / 256) * 256

/-- The monitor launch: the record and the image are read from flash into the boot SRAM and measured, and its harts start in
monitor mode. The image is read last (DESIGN CHOICE: R405 gives no place for the record; log 35). -/
def State.bootMonitor (s : State) : Option State :=
  let k := s.boot.draws
  let ws := (List.range 32).map (Config.bootRecord k)
  let image := (List.range (Config.bootImageSize k)).map (Config.bootImage k)
  let at' := fld (recWord ws 0) 0 52
  if !recordWf ws || !isBoot at' || image == [] || !isBoot (at' + image.length - 1) then none
  else
    let s := (s.writeBytes none (recordPlace k) (bytesOf ws)).writeBytes none at' image
    let (id, s) := s.newLaunch
    match checkWith s.bootPages s.bootBytes none id ws with
    | .ok (some l) =>
      let l := { l with boot := true }
      let hs := Config.placement s.steps (recHarts ws)
      let hs := if s.placeOk none l hs then hs else lowHarts ws
      let s := (s.extend 1 (sha512 image)).extend 2 (sha512 (bytesOf ws))
      some ({ s with launches := Tab.put s.launches id l }.placeHarts id hs)
    | _ => none

/-- Boot from step 1 up to the launch of the monitor; the owner's signature is checked in Production only, and Returned
runs no monitor (R408). -/
def State.bootRun (s : State) : State :=
  let s := s.wiped
  let k := s.boot.draws
  if !Config.bootCheck (4 * k + 2) then s.bootFails 2
  else
    let s := s.extend 0 (Config.bootDigest 0 k)
    if s.boot.lc == 3 then { s with boot := { s.boot with step := 2 } }
    else if s.boot.lc == 1 && !Config.bootCheck (4 * k + 3) then s.bootFails 3
    else
      match s.bootMonitor with
      | none => s.bootFails 3
      | some t => { t with boot := { t.boot with step := 3, hostLink := true } }

/-- A die reads 90 °C or more while the package is held for its temperature (R410). -/
def State.heldHot (s : State) : Bool := s.boot.hot && s.temps.any fun kt => 90 ≤ kt.2

/-- PACKAGE_RESET. -/
def execPackageReset (s : State) : Out := if s.heldHot then .next s else .next s.bootRun

/-- DRAM_TRAINING_DONE: the DRAM part of the wipe, the full service, and the message to the monitor (R411); with `ok` false a vault
could not be trained, which is a failure of step 4 (R405). -/
def execDramTrainingDone (s : State) : Out :=
  let b := s.boot
  if b.failed || b.hot || b.full || b.step != (if b.lc == 3 then 2 else 3) then .next s
  else if !s.ev.ok then .next (s.bootFails 4)
  else
    let s := { s with
      mem := Mem.wipe s.mem fun k => isVault k || Config.sideKey ≤ k
      encUnits := [], badCodewords := [], corrCodewords := []
      boot := { b with step := 4, full := true } }
    match List.find? (fun (kl : Nat × Launch) => kl.2.boot) s.launches with
    | some (id, l) => .next (s.launchDone none id l.words 2)
    | none => .next s

/-! ## The sideband (R406 to R408) -/

/-- The private key of the device identity; none has been generated before Production (R406). -/
def State.identity (s : State) : Option (BitVec 256) := s.boot.key.map Config.identitySeed

/-- Bytes 0 to 623 of a report; without a key pair its place is zero (DESIGN CHOICE: R406 states no report of state 0; log 35). -/
def State.reportBody (s : State) (nonce : BitVec 512) : List Byte :=
  toBytes 4 0x4F464A46 ++ toBytes 2 1 ++ toBytes 1 s.boot.lc ++ [0] ++ toBytes 2 s.pkgnum.toNat ++ List.replicate 6 0
    ++ ((List.range 8).flatMap fun k => vBytes (Tab.get 0 s.boot.mr k)) ++ vBytes nonce
    ++ leBytes 32 ((s.identity.map edPublic).getD 0).toNat

/-- A report: the body and its signature. -/
def State.report (s : State) (nonce : BitVec 512) : List Byte :=
  let body := s.reportBody nonce
  body ++ vBytes ((s.identity.map fun k => edSign k body).getD 0)

/-- GETREPORT (big = nonce). -/
def execGetreport (s : State) : Out := .next (s.answer (.report (s.report s.ev.big)))

/-- The transitions of R408. -/
def lcMay (a b : Nat) : Bool :=
  match a with
  | 0 => b == 1
  | 1 => b == 2 || b == 3
  | 2 => b == 1 || b == 3
  | _ => false

/-- SETLC (w = target state): a permitted transition resets the package, and the one to Production generates the key pair of
the device (R406, R408). -/
def execSetlc (s : State) : Out :=
  if !lcMay s.boot.lc s.ev.w then .next (s.answer (.lifeCycle false))
  else
    let key := if s.boot.lc == 0 then some s.steps else s.boot.key
    let s := { s with boot := { s.boot with lc := s.ev.w, key := key } }
    let t := if s.heldHot then { s.wiped with boot := { s.wiped.boot with hot := true } } else s.bootRun
    .next (t.answer (.lifeCycle true))

/-- The flag of a die's temperature (R410). -/
def tempFlag (t : Nat) : Nat := if 110 < t then 3 else if 100 < t then 2 else if 95 < t then 1 else 0
def State.temp (s : State) (d : Nat) : Nat := Tab.get 0 s.temps d

/-- STATUS. -/
def execStatus (s : State) : Out :=
  .next (s.answer (.status s.boot.lc s.boot.step s.boot.failed s.boot.hot ((List.range 8).map fun d => tempFlag (s.temp d))))

/-! ## Power and temperature (R409, R410) -/

/-- TEMPERATURE_THRESHOLD (i = die, w = degrees): above 110 °C the package is reset and held, and the sideband reports it. -/
def execTemperatureThreshold (s : State) : Out :=
  if 8 ≤ s.ev.i then .fault .noSuchUnit
  else
    let s := { s with temps := Tab.put s.temps s.ev.i s.ev.w }
    if 110 < s.ev.w then .next ({ s.wiped with boot := { s.wiped.boot with hot := true } }.answer (.overheat s.ev.i))
    else .next s

/-- The frequency of an island in MHz: 650 under the reduced service, at most 1,000 on a die above 100 °C and not boosted on
one above 95 °C; else what the power manager gives it, nominally 1,300. -/
def State.islandFreq (s : State) (g : Nat) : Nat :=
  let f := if s.power.lowered.contains g then 1000 else Tab.get 1300 s.power.freq g
  let t := s.temp (g / 16)
  if !s.boot.full then 650 else if 100 < t then 1000 else if 95 < t then min f 1300 else f

/-- Queued array commands of a cluster. -/
def State.arrayWork (s : State) (g : Nat) : Nat := ((List.range 4).map fun a => (s.group (g * 4 + a)).cmds.length).sum

/-- One action against a power estimate above the cap, in the order of R409. -/
def State.powerDownStep (s : State) : State :=
  let p := s.power
  if !p.noBoost then { s with power := { p with noBoost := true } }
  else if p.freq.any fun kf => 1300 < kf.2 then { s with power := { p with freq := p.freq.eraseP fun kf => 1300 < kf.2 } }
  else if 1 < p.rate then { s with power := { p with rate := p.rate - 1 } }
  else
    let cand := (List.range Config.nClusters).filter fun g => !p.lowered.contains g
    match cand with
    | [] => s
    | g :: gs =>
      let w := gs.foldl (fun w x => if s.arrayWork w < s.arrayWork x then x else w) g
      { s with power := { p with lowered := w :: p.lowered } }

/-- The last action undone. -/
def State.powerUpStep (s : State) : State :=
  let p := s.power
  match p.lowered with
  | _ :: gs => { s with power := { p with lowered := gs } }
  | [] => { s with power := if p.rate < 8 then { p with rate := p.rate + 1 } else { p with noBoost := false } }

/-- The power manager raises island g to 1,450 or 1,600 MHz while it grants boost and the estimate of `w` watts is within
the cap, or returns it to its nominal frequency (R3, R357, R409, R410); an island that is lowered stays so. -/
def State.boost (s : State) (g f w : Nat) : State :=
  let p := s.power
  if p.lowered.contains g then s
  else if f == 1300 then { s with power := { p with freq := p.freq.filter fun kf => kf.1 != g } }
  else if (f == 1450 || f == 1600) && !p.noBoost && w ≤ p.cap && s.temp (g / 16) ≤ 95 && s.boot.full then
    { s with power := { p with freq := Tab.put p.freq g f } }
  else s

/-- POWER_MANAGER_EVAL (w = estimated watts): the comparison of every 1,000 ticks; with `ok` set island i is given the
frequency j. -/
def execPowerManagerEval (s : State) : Out :=
  if s.ev.ok then if Config.nClusters ≤ s.ev.i then .fault .noSuchUnit else .next (s.boost s.ev.i s.ev.j s.ev.w)
  else if s.tick < s.power.last + 1000 then .next s
  else
    let s := { s with power := { s.power with last := s.tick } }
    .next (if s.power.cap < s.ev.w then s.powerDownStep
      else if 100 * s.ev.w ≤ 95 * s.power.cap then s.powerUpStep else s)

end Sys2Proof.Machine
end

