-- ==== Sys2Proof/Machine/Copy.lean ====
section
/-! DEFINITION. The copy engine: the read of CPGO, chunks, ends, CPWAIT, CPQ and CPABORT (spec/17 R317 to R324, spec/04
R85). -/

namespace Sys2Proof.Machine

/-! ## A transfer's fields (R319, R323) -/

def State.xfer (s : State) (c k : Nat) : Xfer := Tab.get {} (s.core c).xfers k
def State.setXfer (s : State) (c k : Nat) (x : Xfer) : State :=
  s.modCore c fun y => { y with xfers := Tab.put y.xfers k x }

namespace Xfer

def id (x : Xfer) (k : Nat) : Nat := x.gen * 8 + k
def rpkg (x : Xfer) : Nat := fld x.w2 32 10
def rdst (x : Xfer) : Bool := bit x.w2 19
def rsrc (x : Xfer) : Bool := bit x.w2 18
def tagto (x : Xfer) : Bool := bit x.w2 17
def tag (x : Xfer) : Bool := bit x.w2 16
def seq (x : Xfer) : Nat := fld x.w2 0 16
/-- Bytes of the stream, and chunks. -/
def total (x : Xfer) : Nat := (x.rows + 1) * x.rowlen
def chunks (x : Xfer) : Nat := (x.total + 4095) / 4096
def suspended (x : Xfer) : Bool := x.faultSusp || x.saveSusp

end Xfer

/-- The promised tick has passed (R321, R324). -/
def State.promisePassed (s : State) (x : Xfer) : Bool :=
  x.promise != BitVec.allOnes 64 && x.promise.ult (s.partTick x.part)

/-- The status word of a slot whose identifier is current (R323). -/
def State.xferStatus (s : State) (x : Xfer) : Word :=
  if x.live then w64 (x.cursor * 2 ^ 16 + b2n x.suspended * 16 + b2n (s.promisePassed x) * 4) else x.status

/-- What an identifier is to hart h (R324): its own transfer, a stale one, or neither. -/
inductive Whose where
  | own (c k : Nat) (x : Xfer)
  | stale
  | none

def State.whose (s : State) (h : Nat) (a : Word) : Whose :=
  let k := fld a 0 3
  let x := s.xfer (coreOf h) k
  if x.gen == 0 || x.issuer != h then .none
  else if x.gen == fld a 3 13 then .own (coreOf h) k x else .stale
/-- A stale identifier reads as ended and stale. -/
def staleStatus : Word := 0x21

/-! ## Ends (R322) -/

/-- The pins of a transfer's chunk end. -/
def State.unpinXfer (s : State) (c k : Nat) : State := s.unpin (c / 64) fun p => p.holder == .xfer c k

/-- The COPY_DONE message of a transfer; a host queue ignores the handler override (R319, R323, R335). -/
def State.copyDone (s : State) (k : Nat) (x : Xfer) (status : Word) : Msg :=
  let ov := x.handler != 0 && Hdr.pkg x.done != Hdr.host
  { hdr := withLen x.done 3, origin := 3, sender := BitVec.ofNat 15 x.issuer, qcore := coreOf x.issuer, launch := x.launch
    pay := [w64 (x.id k), status, x.cookie] ++ (if ov then [0, 0, 0, x.handler] else [])
    part := x.part, handler := ov, counts := s.counted x.launch x.done }

/-- What a hart that CPWAIT holds waits for has ended (R324). -/
def Hart.copyEnded (x : Hart) (id : Nat) (st : Word) : Hart :=
  match x.hold with
  | some k => if k.kind == .copy id none then { x with hold := some { k with kind := .copy id (some st) } } else x
  | none => x

/-- What a transfer keeps of its chunk. -/
def Xfer.noChunk (x : Xfer) : Xfer := { x with chunk := none, pads := [], banks := [], asked := none }

/-- The slot ends with the given status bits: pins and slot are free, and the message is ready to be posted (R322). -/
def State.closeXfer (s : State) (c k : Nat) (bits : Nat) : Word × State :=
  let x := s.xfer c k
  let st := w64 (x.cursor * 2 ^ 16 + bits + b2n (s.promisePassed x) * 4 + 1)
  (st, ((s.unpinXfer c k).setXfer c k
    { x.noChunk with live := false, status := st, old := [], faultSusp := false, saveSusp := false, aborting := false }).modHart
      x.issuer (·.copyEnded (x.id k) st))

/-- A transfer ends, and posts its COPY_DONE (R322, R358). -/
def State.endXfer (s : State) (c k : Nat) (bits : Nat) : State :=
  let x := s.xfer c k
  let (st, s) := s.closeXfer c k bits
  if x.done == 0 then s
  else
    let m := s.copyDone k x st
    (if m.counts then s.qAdd m.qcore m.launch 1 else s).deviceSend m

/-! ## CPGO (R320) -/

/-- The setup is malformed. -/
def setupBad (x : Xfer) : Bool :=
  let w := x.w2
  let remote := x.rsrc || x.rdst
  fld w 42 22 != 0 || fld w 20 12 != 0 || x.rowlen == 0 || (x.rsrc && x.rdst)
    || (x.rsrc && fld x.src 56 8 != 0xA0) || (x.rdst && fld x.dst 56 8 != 0xA0)
    || (x.tag && (x.rows != 0 || x.rowlen != (if x.tagto then 128 else 130)
          || (if x.tagto then x.dst else x.src).toNat % 8192 != 0 || remote))

/-- The address of row r of an endpoint (R318). -/
def rowAddr (base : Word) (stride : Word) (r : Nat) : Word := base + w64 r * stride

/-- A local endpoint as checked at start: its absolute form, or the cause of a trap (R9, R16 to R19, R318). -/
def checkEnd (s : State) (h : Nat) (part : Option Nat) (va stride : Word) (rows rowlen : Nat) : Except Nat Word :=
  match classify h va with
  | .bad => .error Cause.space
  | .g => .ok va
  | .coord b =>
    let base := w64 (0xA0 * 2 ^ 56 + b)
    let rs := (List.range (rows + 1)).map (rowAddr base stride)
    if rs.any fun a => fld a 56 8 != 0xA0 || fld a 30 26 != 0 then .error Cause.space
    else if rs.any fun a => spadSize < fld a 0 17 + rowlen then .error Cause.straddle
    else if rs.any fun a => !s.inSet part (coreOfBits (fld a 0 30) / 64) then .error Cause.permission
    else .ok base

/-- Who a transfer's accesses are checked for (R15, R99); what a failed link loses of them ends the transfer (R390). -/
def Xfer.who (x : Xfer) : Who := { stops := false, h := x.issuer, mode := x.mode, part := x.part, ptroot := x.ptroot, pspace := x.pspace }

/-- Whether a page of an endpoint lies in host memory, so that nothing is promised (R321); none while a walk has to wait. -/
def State.touchesHost (s : State) (x : Xfer) (base stride : Word) : Option Bool :=
  if !canonical base then some false
  else
    let page (va : Nat) : Option Bool :=
      if !s.boot.full then some (isHost (va % 2 ^ 52))
      else
        match walkRoot s x.who (w64 va) with
        | .leaf e _ level => some (isHost (fld e 16 36 * 65536 + va % leafSize level))
        | .busy _ => none
        | _ => some false
    let ps := (List.range (x.rows + 1)).flatMap fun r =>
      (pieces 65536 (rowAddr base stride r).toNat x.rowlen).map fun p => page p.1
    if ps.contains (some true) then some true else if ps.contains none then none else some false

/-- The setup of the current hart's copy registers and the block that CPPARAM names. -/
def State.setup (s : State) (blk : List Word) : Xfer :=
  let h := s.cx.hart
  let x := s.me
  let sx (lo : Nat) : Word := (x.cp.stride.extractLsb' lo 32).signExtend 64
  { live := true, issuer := h, src := x.cp.src, dst := x.cp.dst, rows := fld x.cp.len 32 16, rowlen := fld x.cp.len 0 32
    sstride := sx 0, dstride := sx 32, done := blk.getD 0 0, handler := blk.getD 1 0, w2 := blk.getD 2 0
    cookie := blk.getD 3 0, mode := x.mode, part := x.part, ptroot := x.t.ptroot, pspace := x.t.pspace, pc := x.pc
    launch := x.launch }

/-- The lowest free slot of a core. -/
def State.freeXfer (s : State) (c : Nat) : Option Nat := (List.range 8).find? fun k => !(s.xfer c k).live

/-- The transfer starts in slot k, with a promise where `open'` (R321). -/
def startXfer (d : RegNo) (c k : Nat) (x : Xfer) (open' : Bool) (s : State) : Out :=
  let old := (s.xfer c k).gen
  let gen := if old + 1 < 8192 then old + 1 else 1
  let (n, s) := s.draw
  let promise : Word :=
    if open' then w64 (min ((s.partTick x.part).toNat + Config.promise n) (2 ^ 64 - 2)) else BitVec.allOnes 64
  let x := { x with gen := gen, promise := promise }
  let s := s.setXfer c k x
  serialDone ((s.modMe fun y => { y with cp := { y.cp with prom := promise } }).setReg d (w64 (x.id k)))

/-- CSRR D, CPGO: the read of the block, the checks, the slot; the hart's earlier stores come before the transfer (R131). -/
def execCpgoRead (d : RegNo) (s : State) : Out :=
  serial s fun s =>
    let h := s.cx.hart
    (loadBytes h s.me.cp.param 32 32 0 s).out .load fun bs s =>
      let x := s.setup (wordsOf bs 4)
      if setupBad x then serialDone (s.setReg d (BitVec.allOnes 64))
      else
        let src := if x.rsrc then .ok x.src else checkEnd s h x.part x.src x.sstride x.rows x.rowlen
        let dst := if x.rdst then .ok x.dst else checkEnd s h x.part x.dst x.dstride x.rows x.rowlen
        match src, dst with
        | .error e, _ => trap e x.src s
        | _, .error e => trap e x.dst s
        | .ok sv, .ok dv =>
          match s.freeXfer (coreOf h) with
          | none => serialDone (s.setReg d 0)
          | some k =>
            let x := { x with src := sv, dst := dv }
            if x.rsrc || x.rdst then drained s (startXfer d (coreOf h) k x false)
            else
              match s.touchesHost x x.src x.sstride, s.touchesHost x x.dst x.dstride with
              | some a, some b => drained s (startXfer d (coreOf h) k x (!a && !b))
              | _, _ => holdAt .again s

/-! ## Chunks (R318, R322) -/

/-- The runs of stream positions `pos` to `pos + n - 1` by row: address and length. -/
def rowRuns (base stride : Word) (rowlen : Nat) : Nat → Nat → Nat → List (Word × Nat)
  | 0, _, _ => []
  | f + 1, pos, n =>
    if n == 0 then []
    else
      let m := min n (rowlen - pos % rowlen)
      (rowAddr base stride (pos / rowlen) + w64 (pos % rowlen), m) :: rowRuns base stride rowlen f (pos + m) (n - m)

/-- One piece of at most 64 bytes as translated; control registers take no part in a copy (R25). Each piece is one counted
access (DESIGN CHOICE: R111 does not say how a chunk is counted; log 35). -/
def copySpan (x : Xfer) (acc : Acc) (va : Word) (n : Nat) (s : State) : Look CopySpan :=
  if fld va 56 8 == 0xA0 then .ok { key := Config.spadKey + fld va 0 30, n := n, va := va } s
  else
    (access (x.who) acc va n 1 s).bind fun p s =>
      if isReg p.key && !isBoot p.key then .trap Cause.permission va s
      else .ok { key := p.key, enc := p.enc, n := n, va := va, page := some (p.key / 65536),
                  bank := if isVault p.key then some p.key else none } s

/-- The row end of a tag transfer: the scales in the tag area, then the stamp, which is not encrypted (R83, R85). -/
def tagSpans (x : Xfer) (acc : Acc) (va : Word) (s : State) : Look (List CopySpan) :=
  (access (x.who) acc va 64 64 s).bind fun p s =>
    if !isVault p.key then .trap Cause.permission va s
    else .ok [{ key := sideLoc p.key 0, enc := p.enc, n := 128, va := va, bank := some p.key, page := some (p.key / 65536) }
      , { key := sideLoc p.key 128, n := 2, va := va, bank := some p.key, page := some (p.key / 65536) }] s

/-- One end of the next chunk. -/
def endSpans (x : Xfer) (acc tagAcc : Acc) (row remote : Bool) (base stride : Word) (pos n : Nat) (s : State) :
    Look (List CopySpan) :=
  if remote then .ok [{ key := 0, n := n, va := base, remote := true }] s
  else if row then tagSpans x tagAcc base s
  else
    Look.each (fun p s => copySpan x acc (w64 p.1) p.2 s)
      ((rowRuns base stride x.rowlen 4097 pos n).flatMap fun r => pieces 64 r.1.toNat r.2) s

/-- Both ends of the next chunk. A tag transfer to a row takes its stamp from the block. -/
def chunkSpans (x : Xfer) (s : State) : Look (List CopySpan × List CopySpan) :=
  let pos := 4096 * x.cursor
  let n := min 4096 (x.total - pos)
  (endSpans x .engRead .tagRead (x.tag && !x.tagto) x.rsrc x.src x.sstride pos n s).bind fun a s =>
    (endSpans x .engWrite .tagWrite (x.tag && x.tagto) x.rdst x.dst x.dstride pos n s).bind fun b s => .ok (a, b) s

/-- The pages that the spans of a chunk pin (R108). -/
def spanPages (ss : List CopySpan) : List Nat := (ss.filterMap fun p => p.page).eraseDups

/-- The vault codewords of a span, those of tag areas above 2^40 (R69). -/
def CopySpan.words (p : CopySpan) : List Nat :=
  match p.bank with
  | none => []
  | some pa => if isVault p.key then codewords p.key p.n else [2 ^ 40 + pa / 8192]
/-- The span reads an uncorrectable codeword or scratchpad word; the first such codeword. -/
def CopySpan.badWord (p : CopySpan) (s : State) : Option Nat := p.words.find? s.badCodewords.contains
def CopySpan.bad (p : CopySpan) (s : State) : Bool := (p.badWord s).isSome || (p.bank.isNone && s.eccBad p.key p.n)

/-- The chunk suspends its transfer with a kind-1 record (R102, R322). -/
def State.suspendXfer (s : State) (c k : Nat) (reason level access : Nat) (va : Word) : State :=
  let x := s.xfer c k
  ((s.unpinXfer c k).setXfer c k { x.noChunk with faultSusp := true, hindered := true }).postFault (clusterOf x.issuer)
    (faultRecord 1 reason level access (x.id k) x.issuer va x.pc x.pspace)

/-- Byte locations of spans in stream order. -/
def spanLocs (ss : List CopySpan) : List (Nat × Option (BitVec 12)) :=
  ss.flatMap fun p => (List.range p.n).map fun i => (p.key + i, p.enc)

/-- The byte that a chunk reads at a location: where this transfer has overwritten it, the old or the new one (R318). -/
def State.copyByte (s : State) (old : List Host.Cell) (i : Nat) (l : Nat × Option (BitVec 12)) : Byte :=
  match old.find? fun c => c.1 == l.1 with
  | some c => if Config.overlapOld s.steps i then c.2 else s.readKey (s.slotKey l.2) l.1
  | none => s.readKey (s.slotKey l.2) l.1

/-- Reads of a chunk that meet the chunk's own writes see the old byte or the written one, in either direction (R318). -/
def overlapped (n : Nat) (src dst : List Nat) (bs : List Byte) : List Byte :=
  if src.all fun l => !dst.contains l then bs
  else
    let pass (k : Nat) (is : List Nat) (v : List Byte) : List Byte :=
      is.foldl (fun v i =>
        match dst.idxOf? (src.getD i 0) with
        | some j => if Config.overlapOld n (k + i) then v else v.set i (v.getD j 0)
        | none => v) v
    pass 8192 (List.range bs.length).reverse (pass 4096 (List.range bs.length) bs)

/-- The bytes of the source, in stream order: of a peer or of the host they are its answer. -/
def State.chunkBytes (s : State) (x : Xfer) (src : List CopySpan) : List Byte :=
  ((src.foldl (fun (acc : List Byte × Nat) p =>
    let bs := if p.remote || isHost p.key then (List.range p.n).map fun i => s.ev.bytes.getD (acc.2 + i) 0
      else (List.range p.n).map fun i => s.copyByte x.old (acc.2 + i) (p.key + i, p.enc)
    (acc.1 ++ bs, acc.2 + p.n)) ([], 0))).1

/-- Vault codewords that the destination spans of a chunk cover whole: their replacement ends their poison (R82). -/
def wholeCodewords (dst : List CopySpan) : List Nat :=
  let cs := (dst.filterMap fun p => if isVault p.key then some (p.key / 1024, p.n) else none)
  (cs.map (·.1)).eraseDups.filter (fun c => 1024 ≤ ((cs.filter fun d => d.1 == c).map (·.2)).sum)
    ++ (dst.filterMap fun p => if p.key < 2 ^ 39 then none else p.bank.map fun pa => 2 ^ 40 + pa / 8192).eraseDups

/-- A span of a chunk is written; the record of a merge into an uncorrectable word has been made. -/
def State.chunkPut (s : State) (p : CopySpan) (bs : List Byte) : State :=
  if p.remote then s
  else
    let s := ((s.renew p.key p.n).wake p.key p.n).mend p.key p.n
    ({ s with corrCodewords := s.corrCodewords.filter fun c => !(2 ^ 40 ≤ c && p.words.contains c) }).writeBytes p.enc p.key bs
/-- The writes of a chunk. -/
def State.chunkWrite (s : State) : List CopySpan → List Byte → State
  | [], _ => s
  | p :: ps, bs => State.chunkWrite (s.chunkPut p (bs.take p.n)) ps (bs.drop p.n)

/-- The part of spans that the first `n` bytes fill. -/
def cutSpans : List CopySpan → Nat → List CopySpan
  | [], _ => []
  | p :: ps, n => if n == 0 then [] else { p with n := min p.n n } :: cutSpans ps (n - p.n)

/-- A destination span merges into an uncorrectable codeword or scratchpad word (R82, R379). -/
def CopySpan.mergesBad (p : CopySpan) (whole : List Nat) (s : State) : Bool :=
  if p.remote then false
  else if p.bank.isSome then p.words.any fun c => s.badCodewords.contains c && !whole.contains c
  else (p.key % 8 != 0 && s.eccBad p.key 1) || ((p.key + p.n) % 8 != 0 && s.eccBad (p.key + p.n - 1) 1)

/-- One access to a vault codeword, which corrects what it reads (R70, R81, R91). -/
def State.serveWord (s : State) (reads : Bool) (c : Nat) : State :=
  let s := s.serveBank (codewordRow c)
  if reads && s.corrCodewords.contains c then s.addCorrected (codewordRow c) 1 else s

/-- The accesses of a chunk at their homes: a codeword is one access for its reads, and one for its writes, which read what they
do not replace whole; scratchpad banks are woken (R20, R70, R85). -/
def State.chunkTouch (s : State) (src dst : List CopySpan) (whole : List Nat) : State :=
  let s := (src.flatMap (·.words)).eraseDups.foldl (State.serveWord · true) s
  let s := (dst.flatMap (·.words)).eraseDups.foldl (fun s c => s.serveWord (!whole.contains c) c) s
  src.foldl (fun s p => if p.remote then s else s.wake p.key p.n) s

/-- A merge of a chunk into an uncorrectable word is counted and reported (R82, R378). -/
def State.chunkCheck (s : State) (h : Nat) (p : CopySpan) : State :=
  match p.badWord s with
  | some c =>
    (s.countBad (codewordRow c)).machineCheck 2 (if 2 ^ 40 ≤ c then 8 else c % 8) h (w64 (codewordRow c)) p.va
  | none => s.machineCheck 3 0 h (w64 (0xA0 * 2 ^ 56 + (p.key - Config.spadKey))) p.va

/-- A chunk ends its transfer with the error bit, its writes partly performed (R322). -/
def State.chunkFails (s : State) (c k : Nat) (x : Xfer) (src dst : List CopySpan) (whole : List Nat) : State :=
  let s := match src.findSome? fun p => p.badWord s with | some c => s.countBad (codewordRow c) | none => s
  let room := ((dst.takeWhile fun p => !p.mergesBad whole s).map (·.n)).sum
  let s := match dst.find? fun p => p.mergesBad whole s with | some p => s.chunkCheck x.issuer p | none => s
  let n := (List.range 4096).find? fun i => !Config.partly s.steps i
  let bs := (s.chunkBytes x src).take (min room (n.getD 0))
  (s.chunkWrite (cutSpans dst bs.length) bs).endXfer c k 8

/-- A link that the accesses of a chunk need has failed (R322, R390). -/
def State.chunkCut (s : State) (x : Xfer) (src dst : List CopySpan) : Bool :=
  (src.any fun p => !p.remote && (s.lostLink x.issuer p.key).isSome)
    || (dst.any fun p => !p.remote && (if isHost p.key then s.requestCut x.issuer p.key else s.lostLink x.issuer p.key).isSome)
    || ((x.rsrc || x.rdst)
        && (24 ≤ s.portOf (dieOf x.issuer) x.rpkg || (s.cutLink (s.peerLinks (dieOf x.issuer) x.rpkg)).isSome))

/-- The waits of a chunk at the scratchpads that its spans lie in: class 6 at the engine's own core, else 5 (R43). -/
def State.chunkAsks (s : State) (c : Nat) (x : Xfer) (src dst : List CopySpan) : List PadWait :=
  let of (ss : List CopySpan) (core : Nat) : List Nat :=
    (ss.filter fun p => !p.remote && isSpad p.key && padCore p.key == core).flatMap fun p => spadWords (p.key % 2 ^ 17) p.n
  (((src ++ dst).filter fun p => !p.remote && isSpad p.key).map fun p => padCore p.key).eraseDups.map fun core =>
    (s.ask core (of (src ++ dst) core).eraseDups (of dst core == []) (if core == c then 6 else 5)).kept
      (x.pads.find? fun w => w.core == core)

/-- The answer to a chunk's request to the host or to a peer: whether it came, in time where the host owes it (R394), and with as
many bytes as were asked for; none while there is none. -/
def State.chunkAnswer (s : State) (x : Xfer) (src dst : List CopySpan) : Option Bool :=
  let far := src.filter fun p => p.remote || isHost p.key
  match x.asked with
  | none => none
  | some t =>
    if !s.ev.ok || ((src ++ dst).any (fun p => isHost p.key) && decide (t + 50000 < s.tick)) then some false
    else if s.ev.bytes.length == (far.map (·.n)).sum then some true else none

/-- The translated chunk is performed, once its banks are available and no other request is before it. -/
def performChunk (c k : Nat) (x : Xfer) (src dst : List CopySpan) (s : State) : State :=
  let outside := (src ++ dst).any fun p => p.remote || (isHost p.key && src.contains p)
  let whole := wholeCodewords dst
  let banks := bankWaits x.banks s.tick ((src ++ dst).filterMap fun p => p.bank)
  let pads := s.chunkAsks c x src dst
  if !banks.all fun w => s.bankFree w.2 w.1 then
    s.setXfer c k { x with
      pads := [], banks := banks, hindered := x.hindered || banks.any fun w => s.bankHeld w.2 || s.waitsBefore w.2 w.1 }
  else if !pads.all (s.padTurn (· == .copy c k)) then s.setXfer c k { x with hindered := true, banks := banks, pads := pads }
  else if src.any (fun p => p.bad s) || dst.any (fun p => p.mergesBad whole s) || s.chunkCut x src dst then
    s.chunkFails c k x src dst whole
  else if outside && x.asked.isNone then s.setXfer c k { x with banks := banks, pads := pads, asked := some s.tick }
  else if outside && s.chunkAnswer x src dst == none then s
  else if outside && s.chunkAnswer x src dst == some false then s.chunkFails c k x src dst whole
  else
    let locs (ss : List CopySpan) : List Nat := (spanLocs (ss.filter fun p => !p.remote)).map (·.1)
    let bs := overlapped s.steps (locs src) (locs dst) (s.chunkBytes x src)
      ++ (if x.tag && x.tagto then toBytes 2 x.seq else [])
    let s := s.chunkTouch src dst whole
    let s := { s with badCodewords := s.badCodewords.filter fun w => !whole.contains w }
    let both := fld x.src 56 8 == fld x.dst 56 8 || (canonical x.src && canonical x.dst)
    let seen := if both then (spanLocs dst).filterMap (fun l =>
        if x.old.any fun o => o.1 == l.1 then none else some (l.1, s.readKey (s.slotKey l.2) l.1)) else []
    let s := (s.chunkWrite dst bs).unpinXfer c k
    let x' := { x.noChunk with cursor := x.cursor + 1, old := x.old ++ seen }
    let s := s.setXfer c k x'
    if x.aborting then s.endXfer c k 2
    else if x.chunks ≤ x'.cursor then s.endXfer c k 0
    else s

/-- The events of a chunk come after the stores that the issuer has ordered before them (R116, R131), and not while another
hart's release covers the issuer (log 34); a held bank in the way comes between the transfer and its promise (R321). -/
def State.chunkHeld (s : State) (x : Xfer) : Bool := s.scopeHeld x.issuer || (s.hart x.issuer).owes

/-- COPY_CHUNK (i = core, j = slot): the next chunk is translated and pinned, and then performed; `ok` and `bytes` are the
answer of the host or of a peer package, which a chunk asks first. -/
def execCopyChunk (s : State) : Out :=
  let c := s.ev.i
  let k := s.ev.j
  if Config.nCores ≤ c || 8 ≤ k then .fault .noSuchUnit
  else
    let x := s.xfer c k
    let waits : Out := .next (s.setXfer c k { x with hindered := true })
    if !x.live || x.suspended then .next s
    else if s.chunkHeld x then .next (s.setXfer c k { x with hindered := x.hindered || s.owedHeld x.issuer })
    else
      match x.chunk with
      | some (a, b) => .next (performChunk c k x a b s)
      | none =>
        if !s.pinGate (c / 64) x.who (chunkSpans x s) fun ab => spanPages (ab.1 ++ ab.2) then waits
        else
          match chunkSpans x s with
          | .wait .. | .host .. => waits
          | .gone s => .next (s.endXfer c k 8)
          | .trap _ _ s => .next (s.endXfer c k 8)
          | .park reason level va s =>
            let code := if x.tag && (if x.tagto then va == x.dst else va == x.src) then 7
              else if inEnd x.src x.sstride x va then 5 else 6
            .next (s.suspendXfer c k reason level code va)
          | .ok (a, b) s =>
            let s := (spanPages (a ++ b)).foldl (fun s p => s.pin (c / 64) ⟨x.part, x.pspace, p, .xfer c k⟩) s
            .next (s.setXfer c k { x with chunk := some (a, b) })
where
  /-- The address lies in the source's part of the chunk. -/
  inEnd (base stride : Word) (x : Xfer) (va : Word) : Bool :=
    (rowRuns base stride x.rowlen 4097 (4096 * x.cursor) (min 4096 (x.total - 4096 * x.cursor))).any fun r =>
      r.1.toNat ≤ va.toNat && va.toNat < r.1.toNat + r.2

/-! ## CPWAIT, CPQ, CPABORT (R324) -/

/-- PROMISE_MISSED is due for a live transfer. -/
def State.promiseDue (s : State) (x : Xfer) : Bool := x.live && !x.missed && s.promisePassed x

/-- What the CPWAIT of the hart has waited for has ended with a status. -/
def Hart.copyStatus (x : Hart) : Option Word :=
  match x.hold with
  | some ⟨.copy _ st, _, _, _⟩ => st
  | _ => none

/-- CPWAIT; whose transfer it is is found out once (R324). -/
def execCpwait (a : RegNo) (s : State) : Out :=
  let id := fld (s.rd a) 0 16
  match s.me.copyStatus with
  | some st => finish (s.deferC0 st)
  | none =>
  match s.whose s.cx.hart (s.rd a) with
  | .none => finish (s.deferC0 0)
  | .stale => finish (s.deferC0 staleStatus)
  | .own c k x =>
    if !x.live then finish (s.deferC0 (s.xferStatus x))
    else if s.promiseDue x then trap Cause.promiseMissed (w64 id) (s.setXfer c k { x with missed := true })
    else holdAt (.copy id none) s

def execCpq (o : RR) (s : State) : Out :=
  match s.whose s.cx.hart (s.rd o.a) with
  | .none => finish (s.deferReg o.d 0)
  | .stale => finish (s.deferReg o.d staleStatus)
  | .own _ _ x => finish (s.deferReg o.d (s.xferStatus x))

/-- CPABORT; one that meets a RESUME.xfer in its tick comes after it, and gives 0 (R374). -/
def execCpabort (a : RegNo) (s : State) : Out :=
  match s.whose s.cx.hart (s.rd a) with
  | .own c k x =>
    if !x.live || x.resumed == some s.tick then finish (s.deferC0 0)
    else if x.suspended || x.chunk.isNone then finish ((s.endXfer c k 2).deferC0 1)
    else finish ((s.setXfer c k { x with aborting := true }).deferC0 1)
  | _ => finish (s.deferC0 0)

/-- PROMISE_EXPIRY (i = core, j = slot): the hart that CPWAIT holds for the transfer traps once its promise has passed. -/
def execPromiseExpiry (s : State) : Out :=
  let c := s.ev.i
  let k := s.ev.j
  if Config.nCores ≤ c || 8 ≤ k then .fault .noSuchUnit
  else
    let x := s.xfer c k
    match (s.hart x.issuer).hold with
    | some ⟨.copy id none, len, _, _⟩ =>
      if id == x.id k && (s.hart x.issuer).st == .active && s.promiseDue x && !(s.hart x.issuer).waiting then
        .next (((s.setXfer c k { x with missed := true }).commit x.issuer).trapEnter x.issuer len Cause.promiseMissed 0 (w64 id))
      else .next s
    | _ => .next s

end Sys2Proof.Machine
end

