-- ==== Sys2Proof/Machine/Paging.lean ====
section
/-! DEFINITION. TINV, MIGR and SPLIT, and the end of a bounded wait for pins (spec/05 R104 to R112). -/

namespace Sys2Proof.Machine

/-- Page 7 is privileged (R169). -/
def kernelOnly (s : State) (k : State → Out) : Out := if s.me.mode == .user then trap Cause.privilege 0 s else k s

/-! ## Invalidation (R106, R107) -/

/-- The scope of a TINV of hart `h` reaches the agents of core `c`, or with none the cache of cluster `g`. -/
def inScope (sc h g : Nat) (c : Option Nat) : Bool :=
  match sc with
  | 0 | 1 => g == clusterOf h && (c == none || c == some (coreOf h))
  | 2 => g == clusterOf h
  | 3 => g / 16 == dieOf h
  | _ => true

/-- The leaf covers a byte of the 64 KiB page of `va` (R106). -/
def TlbEnt.covers (t : TlbEnt) (va : Word) : Bool :=
  let page := va.toNat / 65536 * 65536
  decide (t.base.toNat < page + 65536) && decide (page < t.base.toNat + leafSize t.level)

/-- Removes matching translations of partition `p` from the caches in scope. -/
def State.invalidate (s : State) (h sc : Nat) (p : Option Nat) (f : TlbEnt → Bool) : State :=
  { s with clusters := s.clusters.map fun kc =>
      (kc.1, { kc.2 with tlb := kc.2.tlb.filter fun t => !(t.part == p && inScope sc h kc.1 t.core && f t) }) }

/-- The addresses that the translations which `f` names cover, as ranges. -/
def State.cachedRanges (s : State) (h sc : Nat) (p : Option Nat) (f : TlbEnt → Bool) : List (Nat × Nat) :=
  s.clusters.flatMap fun kc =>
    kc.2.tlb.filterMap fun t =>
      if t.part == p && inScope sc h kc.1 t.core && f t then some (t.base.toNat, leafSize t.level) else none

/-- The place of an access that has been checked and not made. -/
def Done.place? : Done → Option Word
  | .place _ va => some va
  | .read .. => none

/-- A load, store or atomic of an agent that uses the caches in scope was translated in one of the ranges and has not been
performed: a buffered store, an element that has been pushed, an access of an instruction that has been checked, or an element
that a stream fetches (R107). At scope core the cluster's cache is reached, which serves every core of it. -/
def State.usesLeft (s : State) (h sc : Nat) (p : Option Nat) (ranges : List (Nat × Nat)) : Bool :=
  let hit (va : Word) : Bool :=
    canonical va && ranges.any fun r => decide (r.1 < va.toNat + 64) && decide (va.toNat < r.1 + r.2)
  let agent (k : Nat) : Bool := (s.hart k).part == p && inScope (max sc 2) h (clusterOf k) (some (coreOf k))
  let pushed : Pend → Bool := fun q => match q with | .push _ e => hit e.va | _ => false
  s.harts.any fun kx => agent kx.1
    && (kx.2.sbuf.any (fun e => hit e.va)
      || (kx.1 != h && (kx.2.span.pend.any pushed || (kx.2.done.filterMap Done.place?).any hit))
      || kx.2.streams.any fun kt => kt.2.bound
          && ((kt.2.wr && kt.2.buf.any fun e => hit e.va) || (kt.2.look.isSome && hit (kt.2.addr (kt.2.pos + kt.2.buf.length)))))

/-- TINV: the hart's stores first, then the removal, then what used the removed translations (R107). `named` is the page
that it names, or for the kinds that name none everything: what used a translation that is no longer cached is waited for
too. -/
def tinv (sc : ScopeCode) (f : TlbEnt → Bool) (named : Nat × Nat) (s : State) : Out :=
  let h := s.cx.hart
  let p := s.me.part
  let wait (ranges : List (Nat × Nat)) (s : State) : Out :=
    if s.usesLeft h sc.toNat p ranges then holdAt (.tinv ranges) s else finish s
  match s.me.hold with
  | some ⟨.tinv ranges, _, _, _⟩ => wait ranges s
  | _ => drained s fun s => wait (named :: s.cachedRanges h sc.toNat p f) (s.invalidate h sc.toNat p f)

/-- An address form of TINV. -/
def tinvPage (sc : ScopeCode) (a : Word) (f : TlbEnt → Bool) (s : State) : Out :=
  if canonical a then tinv sc (fun t => t.covers a && f t) (a.toNat / 65536 * 65536, 65536) s else trap Cause.space a s

def execTinvAddr (sc : ScopeCode) (a : RegNo) (s : State) : Out :=
  kernelOnly s fun s =>
    let space := s.me.t.pspace
    tinvPage sc (s.rd a) (fun t => t.space == space || bit t.leaf 6) s
def execTinvSpace (sc : ScopeCode) (_a : RegNo) (s : State) : Out :=
  kernelOnly s fun s =>
    let space := s.me.t.pspace
    tinv sc (fun t => t.space == space && !bit t.leaf 6) (0, 2 ^ 64) s
def execTinvAddrall (sc : ScopeCode) (a : RegNo) (s : State) : Out :=
  kernelOnly s fun s => tinvPage sc (s.rd a) (fun _ => true) s
def execTinvAll (sc : ScopeCode) (_a : RegNo) (s : State) : Out :=
  kernelOnly s fun s => tinv sc (fun _ => true) (0, 2 ^ 64) s

/-! ## Splintering (R104, R105) -/

/-- The walk of `va` in the current hart's space; without the full service nothing is mapped (R411). -/
def ownWalk (va : Word) (s : State) : Walk :=
  if !s.boot.full then .fault 0 4 none else walkRoot s (s.who s.cx.hart) va

/-- What a walk leaves at the vaults, and the report of an entry that cannot be read (R82, R93, R378). -/
def State.walkDone (s : State) (w : Walk) (va : Word) : State :=
  if !s.boot.full then s
  else
    let s := s.walked (s.who s.cx.hart) va
    match w with
    | .fault _ _ (some pa) => s.machineCheck 2 (pa / 1024 % 8) s.cx.hart (w64 (pa / 8192 * 8192)) va
    | _ => s

/-- The wait of SPLIT or MIGR at the bank of `pa`, which nothing takes. -/
def pageWait (pa : Nat) (s : State) : HoldKind := .page ((s.who s.cx.hart).came pa s.tick) pa

/-- What a splinter comes to: its result, or a wait. -/
inductive Splint where
  | done (r : Int) (s : State)
  | wait (k : HoldKind) (s : State)

/-- A splinter whose table is built: the compare, which puts the table in place or gives its page back, and then the wait for
what used the old leaf (R105, R107). -/
def splintGo (entry level head : Nat) (old : Word) (uses : Bool) (va : Word) (s : State) : Splint :=
  let h := s.cx.hart
  let range := (va.toNat / leafSize level * leafSize level, leafSize level)
  let wait (s : State) : Splint :=
    if s.usesLeft h 4 s.me.part [range] then .wait (.splinter entry level head old true) s else .done 1 s
  if uses then wait s
  else if !s.bankFree entry s.tick then .wait (.splinter entry level head old false) s
  else
    let now := s.rd8 entry
    if now == old then
      wait ((s.devWriteFor h entry (toBytes 8 (head + 1))).invalidate h 4 s.me.part fun t =>
        decide (t.base.toNat < range.1 + range.2) && decide (range.1 < t.base.toNat + leafSize t.level))
    else
      let s := s.unitTouch h entry 8
      let s := match s.me.part with
        | some p =>
          (s.devWriteFor h head (toBytes 8 (s.part p).splitHead)).modPart p fun q => { q with splitHead := head }
        | none => s
      .done (if bit now 0 && !bit now 1 then -1 else -3) s

/-- The children of a leaf at level 1 or 2 (R105). -/
def childLeaves (e : Word) (level : Nat) : List Word :=
  let n := if level == 1 then 32 else 512
  let sz := if level == 1 then 0x10000 else 0x200000
  (List.range 512).map fun i => if i < n then (e + w64 (i * sz)) ||| 2 else 0

/-- A splinter of the leaf `e` at `entry`: it takes a page of the pool and builds the new table there. -/
def splintStart (va e : Word) (entry level : Nat) (s : State) : Splint :=
  let h := s.cx.hart
  let x := s.me
  match x.part.bind fun p => if isVault (s.part p).splitHead && (s.part p).splitHead != 0 then some (p, (s.part p).splitHead) else none with
  | none => .done (-2) (s.postFault (clusterOf h) (faultRecord 2 0 level 0 0 h va x.pc x.t.pspace))
  | some (p, head) =>
    if !s.bankFree head ((s.who h).came head s.tick) then .wait (pageWait head s) s
    else
      let link := fld (s.rd8 head) 12 40 * 4096
      let s := (s.unitTouch h head 8).modPart p fun q => { q with splitHead := link }
      .wait (.splinter entry level head e false) (s.devWriteFor h head (bytesOf (childLeaves e level)))

def negOne : Word := wInt (-1)

/-- SPLIT (R112). -/
def execSplit (o : RR) (s : State) : Out :=
  kernelOnly s fun s =>
    let va := s.rd o.a
    let result (r : Int) (s : State) : Out := finish (s.deferReg o.d (wInt r))
    let go (x : Splint) : Out := match x with | .done r s => result r s | .wait k s => holdAt k s
    match s.me.hold with
    | some ⟨.splinter entry level head old uses, _, _, _⟩ => go (splintGo entry level head old uses va s)
    | _ =>
      if !canonical va then trap Cause.space va s
      else
        drainedBy .kept s fun s =>
          let w := ownWalk va s
          match w with
          | .busy pa => holdAt (pageWait pa s) s
          | .lost never => .next (s.lose s.cx.hart va s.me.pc never)
          | .fault .. | .denied => result 0 (s.walkDone w va)
          | .leaf e entry level =>
            let s := s.walkDone w va
            if bit e 11 then result (-3) s
            else if level == 0 then result (-1) s
            else go (splintStart va e entry level s)

/-! ## Migration (R109, R110) -/

/-- The pins on `n` pages from page `lo`, of every holder in the package (R108). -/
def State.pinned (s : State) (lo n : Nat) : Bool :=
  s.clusters.any fun kc => kc.2.pins.any fun p => decide (lo ≤ p.page) && decide (p.page < lo + n)

/-- The mark of a leaf is set or cleared, for agent `h`. -/
def State.setMark (s : State) (h entry : Nat) (on : Bool) : State :=
  let e := s.rd8 entry
  s.devWriteFor h entry (toBytes 8 (if on then e ||| 0x800 else e &&& ~~~(0x800 : Word)).toNat)

/-- The bound of MIGR.force (R103). -/
def State.mwait (s : State) : Nat := match s.me.part with | some p => fld (s.part p).ptcfg 32 32 | none => 0

/-- The leaf of `n` pages from page `lo` is marked: the uses of its translations end, and then the pins decide. A deadline
says that .force waits for them; without .force that BUSY is the result, once the mark can be cleared. -/
def migrated (force : Bool) (d : RegNo) (va : Word) (entry lo n : Nat) (deadline : Option Nat) (s : State) : Out :=
  let size := n * 65536
  let hold (t : Option Nat) : Out := holdAt (.migrate entry lo n d.toNat t) s
  let clear : Out :=
    if s.bankFree entry s.tick then finish ((s.setMark s.cx.hart entry false).deferReg d (wInt (-3))) else hold (some 0)
  match deadline with
  | none =>
    if s.usesLeft s.cx.hart 4 s.me.part [(va.toNat / size * size, size)] then hold none
    else if !s.pinned lo n then finish (s.deferReg d 1)
    else if force then hold (some (s.tick + s.mwait))
    else clear
  | some t => if !force then clear else if !s.pinned lo n then finish (s.deferReg d 1) else hold (some t)

/-- Marks the leaf of `va`; one larger than 64 KiB is splintered first unless `whole`. -/
def mark (force whole : Bool) (d : RegNo) (va : Word) (s : State) : Out :=
  let result (r : Int) (s : State) : Out := finish (s.deferReg d (wInt r))
  let w := ownWalk va s
  match w with
  | .busy pa => holdAt (pageWait pa s) s
  | .lost never => .next (s.lose s.cx.hart va s.me.pc never)
  | .fault .. | .denied => result 0 (s.walkDone w va)
  | .leaf e entry level =>
    let t := s.walkDone w va
    if bit e 11 then result (-1) t
    else if !whole && level != 0 then
      match splintStart va e entry level t with
      | .done r s => result r s
      | .wait k s => holdAt k s
    else if !s.bankFree entry ((s.who s.cx.hart).came entry s.tick) then holdAt (pageWait entry s) s
    else
      let base := va.toNat / leafSize level * leafSize level
      migrated force d va entry (fld e 16 36) (leafSize level / 65536) none
        ((t.setMark t.cx.hart entry true).invalidate t.cx.hart 4 t.me.part fun u =>
          decide (u.base.toNat < base + leafSize level) && decide (base < u.base.toNat + leafSize u.level))

/-- MIGR from where it stands: a splinter that another agent was ahead of, or that has succeeded, stands, and a new walk
follows. -/
def migrateWith (force whole : Bool) (o : RR) (s : State) : Out :=
  kernelOnly s fun s =>
    let va := s.rd o.a
    match s.me.hold with
    | some ⟨.migrate entry lo n _ t, _, _, _⟩ => migrated force o.d va entry lo n t s
    | some ⟨.splinter entry level head old uses, _, _, _⟩ =>
      match splintGo entry level head old uses va s with
      | .wait k s => holdAt k s
      | .done r s => if r == -3 then finish (s.deferReg o.d (wInt r)) else holdAt (.tinv []) s
    | _ => if !canonical va then trap Cause.space va s else drainedBy .kept s (mark force whole o.d va)

def execMigr (whole : Bool) (o : RR) (s : State) : Out := migrateWith false whole o s
def execMigrForce (whole : Bool) (o : RR) (s : State) : Out := migrateWith true whole o s

/-- MWAIT_EXPIRY (i = hart): the bound has passed with pins left, so the mark is cleared and BUSY returned. -/
def execMwaitExpiry (s : State) : Out :=
  let h := s.ev.i
  if Config.nHarts ≤ h then .fault .noSuchUnit
  else
    match (s.hart h).hold with
    | some ⟨.migrate entry lo n d (some t), _, _, _⟩ =>
      if t ≤ s.tick && s.pinned lo n && s.bankFree entry s.tick then
        .next ((s.setMark h entry false).release h [.scalar d (wInt (-3))])
      else .next s
    | _ => .next s

end Sys2Proof.Machine
end

