-- ==== Sys2Proof/Machine/Context.lean ====
section
/-! DEFINITION. KEYLD, CTXSAVE, CTXLOAD, EVICT and RESUME: the save area, taking and restoring a context (spec/21 R364, R367
to R374). -/

namespace Sys2Proof.Machine

/-! ## The target and the area (R367) -/

/-- The hart that a HARTID names, if it lies in the issuer's partition. -/
def State.ctxTarget (s : State) (v : Word) : Option Nat :=
  let h := fld v 0 15
  if v.toNat / 2 ^ 15 == s.pkgnum.toNat && s.inSet s.me.part (clusterOf h) then some h else none

def areaSize : Nat := 0x24000

/-- The save area as translated: location key, key slot of an encrypted leaf and bytes of each part. -/
abbrev Area := List (Nat × Option (BitVec 12) × Nat)

/-- The location of byte `off` of an area. -/
def areaAt : Area → Nat → Nat × Option (BitVec 12)
  | [], _ => (0, none)
  | (k, e, n) :: r, off => if off < n then (k + off, e) else areaAt r (off - n)

/-- A bank of an area that is held (R78), for an access that came there at `came`. -/
def State.areaBlock (s : State) (a : Area) (came : Nat → Nat) : Option Nat :=
  a.findSome? fun p => ((List.range (p.2.2 / 4096)).map fun i => p.1 + 4096 * i).find? fun pa => !s.bankFree pa (came pa)
/-- The area's banks serve it, 4 KiB at a time; where it is read, VECC counts what is corrected (R70, R91). -/
def State.areaServe (s : State) (a : Area) (read : Bool) : State :=
  a.foldl (fun s p => (List.range (p.2.2 / 4096)).foldl (fun s i =>
    if read then s.touch (p.1 + 4096 * i) 4096 else s.serveBank (p.1 + 4096 * i)) s) s

/-- A piece of an area as translated: its address and bytes, and the leaf with its entry and level. -/
abbrev AreaPiece := (Nat × Nat) × (Word × Nat × Nat)
def AreaPiece.place (q : AreaPiece) : Nat := fld q.2.1 16 36 * 65536 + q.1.1 % leafSize q.2.2.2

/-- The parts of the area at `va`, all translated before any right is checked; where their pages are pinned, with room for the
pins first (R108). -/
def areaParts (pins : Bool) (va : Word) (s : State) : Look Area :=
  if !canonical va then .trap Cause.space va s
  else if va.toNat % 4096 != 0 then .trap Cause.misaligned va s
  else
    let w := s.who s.cx.hart
    if !s.boot.full then .trap Cause.permission va s
    else
      let look : Look (List AreaPiece) :=
        Look.each (fun p s => (translate w (w64 p.1) s).bind fun t s => .ok (p, t) s) (pieces 65536 va.toNat areaSize) s
      if pins && !s.pinGate (clusterOf w.h) w look (·.map fun q => q.place / 65536) then .wait .again s
      else look.bind fun ps s =>
        if ps.all fun q => isVault q.place && s.permitted w .atomic q.2.1 q.place then
          match ps.find? fun q => s.countWaits w (w64 q.1.1) q.2.1 q.2.2.1 q.2.2.2 with
          | some q => waitBank w q.2.2.1 s
          | none =>
            let s := ps.foldl (fun s q => s.countAccess w (w64 q.1.1) q.2.1 q.2.2.1 q.2.2.2) s
            .ok (ps.map fun q => (q.place, if bit q.2.1 8 then some (q.2.1.extractLsb' 52 12) else none, q.1.2)) s
        else .trap Cause.permission va s

/-- A checked area, with its address recorded in a trap: a save writes it and pins its pages, a load reads it. -/
def withArea (saves : Bool) (va : Word) (s : State) (k : Area → State → Out) : Out :=
  ((areaParts saves va s).trapAt va).out (if saves then .store else .load) k

/-- The bytes of an area become plain zeros under its leaves' keys, whole codewords at a time (R82, R370). -/
def State.clearPart (s : State) (p : Nat × Option (BitVec 12) × Nat) : State :=
  let (k, e, n) := p
  let q := s.slotKey e
  let mine (a : Nat) : Bool := decide (k ≤ a) && decide (a < k + n)
  let units := s.encUnits.filter fun u => !mine (64 * u.1)
  { s with
    mem := Mem.wipe s.mem mine
    badCodewords := s.badCodewords.filter fun w => !mine (1024 * w)
    corrCodewords := s.corrCodewords.filter fun w => !mine (1024 * w)
    encUnits := match q with
      | none => units
      | some q => (List.range (n / 64)).foldl (fun t i => Tab.put t (k / 64 + i) q) units }

/-- Words of the area. -/
def State.areaPut (s : State) (a : Area) : Nat → List Word → State
  | _, [] => s
  | off, w :: ws =>
    let p := areaAt a off
    State.areaPut (if w == 0 then s else s.writeBytes p.2 p.1 (toBytes 8 w.toNat)) a (off + 8) ws
def State.areaGet (s : State) (a : Area) (off : Nat) : Word :=
  let p := areaAt a off
  w64 (ofBytes (s.readBytes p.2 p.1 8))
def State.areaGets (s : State) (a : Area) (off n : Nat) : List Word := (List.range n).map fun i => s.areaGet a (off + 8 * i)

/-! ## The words of a context (R370) -/

/-- The CSRs from 0x0300 on. -/
def areaCsrs : List Nat :=
  [0x003, 0x004, 0x010, 0x011, 0x012, 0x013, 0x014, 0x015, 0x018, 0x019, 0x020, 0x021, 0x022, 0x024, 0x030, 0x031, 0x032
  , 0x033, 0x034, 0x036, 0x040, 0x041, 0x042, 0x043, 0x400, 0x401, 0x402, 0x403, 0x404, 0x405, 0x410, 0x411]

def vecWords (v : VWord) : List Word := wordsOf (vBytes v) 8

/-- A stream's 512 bytes; bits 10:8 of its binding word count the buffered elements, a place that spec/ leaves open. -/
def streamWords (t : Stream) : List Word :=
  if !t.bound then List.replicate 64 0
  else
    let counts := (List.range 4).map fun i => if i < t.ndim then t.counts.getD i 1 else 0
    let strides := (List.range 4).map fun i => if i < t.ndim then t.strides.getD i 0 else 0
    let buf := if t.wr then [] else t.buf.take 4
    [t.base, w64 t.ndim, w64 (counts.getD 0 0 + counts.getD 1 0 * 2 ^ 32), w64 (counts.getD 2 0 + counts.getD 3 0 * 2 ^ 32)]
      ++ strides ++ [w64 t.pos, w64 (1 + b2n t.wr * 2 + buf.length * 256)] ++ List.replicate 6 0
      ++ (buf.flatMap fun e => vecWords e.data) ++ List.replicate (8 * (4 - buf.length) + 16) 0

/-- The stream that such bytes describe. -/
def streamFrom (ws : List Word) : Stream :=
  let w (i : Nat) : Word := ws.getD i 0
  if !bit (w 9) 0 then {}
  else
    let n := min (fld (w 9) 8 3) 4
    let ndim := fld (w 1) 0 8
    { bound := true, wr := bit (w 9) 1, base := w 0, ndim := ndim, pos := (w 8).toNat
      counts := (List.range 4).map fun i => if i < ndim then fld (w (2 + i / 2)) (32 * (i % 2)) 32 else 1
      strides := (List.range 4).map fun i => if i < ndim then w (4 + i) else 0
      buf := if bit (w 9) 1 then [] else (List.range n).map fun k =>
        { data := vOfBytes (bytesOf ((ws.drop (16 + 8 * k)).take 8)) } }

def mailboxWords (b : Mailbox) : List Word :=
  [b.w0, b.w1, b.w2, b.w3, w64 (b.ringCount % 2 ^ 32 + b.ringHead % 2 ^ 32 * 2 ^ 32)
  , w64 (b.spillCount % 2 ^ 32 + b.spillHead % 2 ^ 32 * 2 ^ 32), b2w b.flood, 0]

/-- A mailbox restored from its bytes: what has been admitted to the spillway since the save stays, and so does a flood episode that has
begun (R343). Of the messages saved in the spillway the bytes may leave some out; more than there were is as many as there were
(DESIGN CHOICE; log 23). -/
def mailboxFrom (b : Mailbox) (ws : List Word) : Mailbox :=
  let w (i : Nat) : Word := ws.getD i 0
  let n := fld (w 4) 0 32
  let k := min (fld (w 5) 0 32) b.saved.1
  let spilt := b.counts.drop b.ringCount
  { b with
    w0 := w 0, w1 := w 1, w2 := w 2, w3 := w 3, ringCount := n, ringHead := fld (w 4) 32 32
    spillCount := k + (b.spillCount - b.saved.1), spillHead := fld (w 5) 32 32
    pins := b.pins.take k ++ b.pins.drop b.saved.1
    flood := bit (w 6) 0 || (b.flood && !b.saved.2)
    counts := ((List.range n).map fun i => i < b.ringCount && b.counts.getD i false) ++ spilt.take k ++ spilt.drop b.saved.1 }
/-- What a save writes of a mailbox's spillway. -/
def Mailbox.store (b : Mailbox) : Mailbox := { b with saved := (b.spillCount, b.flood) }

/-- The banks of the cluster's arrays, in the order of their records: array, then bank. -/
def bankIndex (h k : Nat) : Nat × Nat := (clusterOf h * 4 + k / 2, k % 2)
/-- The elements of a bank, two to a word. -/
def bankWords (b : Bank) : List Word :=
  (List.range 2048).map fun i =>
    (Tab.get (0 : BitVec 32) b.data (2 * i + 1) ++ Tab.get (0 : BitVec 32) b.data (2 * i) : BitVec 64)
def bankFrom (ws : List Word) : Tab (BitVec 32) :=
  (ws.zipIdx.flatMap fun wi =>
    [(2 * wi.2, wi.1.extractLsb' 0 32), (2 * wi.2 + 1, wi.1.extractLsb' 32 32)]).filter fun kv => kv.2 != 0

/-- The word at 0x0010. -/
def contextFlags (s : State) (h : Nat) : Word :=
  let x := s.hart h
  let banks := (List.range 8).foldl (fun n k =>
    n + b2n ((s.abank (bankIndex h k).1 (bankIndex h k).2).tag == .spilled h) * 2 ^ k) 0
  w64 (b2n x.wasParked + b2n x.wasStopped * 2 + b2n x.h.running * 4 + b2n x.savedLease.isSome * 8 + modeCode x.mode * 2 ^ 8
    + x.h.mb % 8 * 2 ^ 12 + b2n (x.savedSlots.contains false) * 2 ^ 20 + b2n (x.savedSlots.contains true) * 2 ^ 21
    + x.savedGifts.length % 8 * 2 ^ 24 + banks * 2 ^ 32)

/-- The transfer slots of hart h. -/
def xferBits (s : State) (h : Nat) : Word :=
  w64 ((List.range 8).foldl (fun n k =>
    let x := s.xfer (coreOf h) k
    n + b2n (x.live && x.issuer == h) * 2 ^ k) 0)

/-- The saved hart h is written to the area. -/
def State.writeContext (s : State) (a : Area) (h : Nat) : State :=
  let x := s.hart h
  let lease := match x.savedLease with | some (k, r) => k % 4 + r % 128 * 2 ^ 8 | none => 0
  let head := [w64 (0xC7 * 2 ^ 56 + (s.hartId h).toNat), x.pc, contextFlags s h, x.h.hpc
    , w64 (lease + x.array % 4 * 2 ^ 16), x.mxl.setWidth 64, xferBits s h]
  let octets := ((x.savedOctets ++ x.savedGifts).flatMap fun o => (List.range 8).flatMap fun i => vecWords (o.getD i 0))
  let t := a.foldl State.clearPart s
  let t := t.areaPut a 0 head
  let t := t.areaPut a 0x40 ((List.range 76).map (Tab.get 0 x.regs))
  let t := t.areaPut a 0x300 (areaCsrs.map fun n => (csrValue s h n).getD 0)
  let t := t.areaPut a 0x400 ((List.range 8).map (Tab.get 0 x.m))
  let t := t.areaPut a 0x800 ((List.range 16).flatMap fun i => vecWords (Tab.get 0 x.v i))
  let t := t.areaPut a 0xC00 octets
  let t := t.areaPut a 0x1400 ((List.range 8).flatMap fun n => streamWords (s.stream h n))
  let t := t.areaPut a 0x2400 ((List.range 8).flatMap fun i => mailboxWords (s.mb h i))
  (List.range 8).foldl (fun t k =>
    let b := s.abank (bankIndex h k).1 (bankIndex h k).2
    if b.tag == .spilled h then t.areaPut a (0x4000 + 0x4000 * k) (bankWords b) else t) t

/-! ## Saving (R369, R313, R37) -/

/-- A transfer of a hart that is taken: it suspends at the boundary before its next chunk, or ends there if CPABORT named
it (R322). -/
def State.suspendXfers (s : State) (h : Nat) : State :=
  (List.range 8).foldl (fun s k =>
    let c := coreOf h
    let x := s.xfer c k
    if !x.live || x.issuer != h then s
    else if x.aborting then s.endXfer c k 2
    else (s.unpinXfer c k).setXfer c k { x.noChunk with saveSusp := true, hindered := true }) s

/-- The hart is taken for a save: nothing of it goes on by itself (R369). -/
def State.freeze (s : State) (h : Nat) : State :=
  let s := (s.take h).unwait h true
  let s := s.modCore (coreOf h) fun k => { k with claims := k.claims.filter (·.h != h) }
  let s := (List.range 4).foldl (fun s a => s.modGroup (clusterOf h * 4 + a) fun g => { g with lq := g.lq.filter (·.h != h) }) s
  (s.suspendXfers h).modHart h fun x => { x with frozen := true }

/-- No queued command and no map operation of hart h is left (R313, R289). -/
def State.enginesDone (s : State) (h : Nat) : Bool :=
  (List.range 4).all (fun a => (s.group (clusterOf h * 4 + a)).cmds.all (·.h != h))
    && s.clusters.all fun kc => kc.2.mapq.all (·.h != h)

/-- The lease ends and is recorded, banks are spilled, octets and gifts return to the pool with their contents recorded. -/
def State.stow (s : State) (h : Nat) : State :=
  let c := coreOf h
  let x := s.hart h
  let lease := match s.leased h with
    | some a => (s.leaseRun (clusterOf h * 4 + a) h).map fun r => (a, r)
    | none => x.savedLease
  let s := s.dropLease h
  let s := (List.range 8).foldl (fun s k =>
    let (g, b) := bankIndex h k
    let y := s.abank g b
    if y.tag == .owned h then s.setAbank g b { y with tag := .spilled h } else s) s
  let held := x.slotA.toList.map (fun o => (false, o)) ++ x.slotB.toList.map (fun o => (true, o))
  let gifts := s.giftsTo h
  let data (o : Nat) : List VWord := (s.octet c o).data
  let held' := held.map fun bo => data bo.2
  let gifts' := gifts.map data
  let s := (held.map (·.2) ++ gifts).foldl (fun s o => s.freeOctet c o) s
  s.modHart h fun y =>
    { y with
      mbs := y.mbs.map fun kb => (kb.1, kb.2.store)
      savedLease := lease, slotA := none, slotB := none, frozen := false
      savedOctets := x.savedOctets ++ held', savedSlots := x.savedSlots ++ held.map (·.1)
      savedGifts := x.savedGifts ++ gifts'
      wasParked := x.st == .parked, wasStopped := x.st == .stopped, st := .saved }

/-- The save goes on once the engines are done with the target and its stores are performed. -/
def saveOn (h : Nat) (a : Area) (s : State) : Out :=
  let wait : Out := holdAt (.save h a) s
  if !s.enginesDone h then wait
  else
    match s.flushStreams h with
    | none => wait
    | some t =>
      if (t.areaBlock a fun _ => t.tick).isSome then wait
      else
        let t := ((t.stow h).areaServe a false).writeContext a h
        finish ((t.unpin (clusterOf s.cx.hart) fun p => p.holder == .area s.cx.hart).deferC0 1)

/-- An idle target of EVICT (R369). -/
def State.evictable (s : State) (h : Nat) : Bool :=
  let x := s.hart h
  let c := coreOf h
  !x.h.running && (s.leased h).isNone && x.savedLease.isNone
    && (List.range 4).all (fun a => (s.group (clusterOf h * 4 + a)).lq.all (·.h != h))
    && (List.range 8).all (fun k => (s.abank (bankIndex h k).1 (bankIndex h k).2).tag != .owned h)
    && !x.holdsOctet && s.giftsTo h == [] && (s.core c).claims.all (·.h != h)
    && (List.range 8).all (fun k => !((s.xfer c k).live && (s.xfer c k).issuer == h))
    && s.enginesDone h
    && (match x.hold with | some ⟨.wfe, _, _, _⟩ => true | _ => false)

/-- CTXSAVE and EVICT: the area, the target, the boundary, and then the save. -/
def saveWith (idle : Bool) (o : RR) (s : State) : Out :=
  kernelOnly s fun s =>
    match s.me.hold with
    | some ⟨.save h a, _, _, _⟩ => saveOn h a s
    | _ =>
      withArea true (s.rd o.a) s fun a s => drained s fun s =>
        match s.ctxTarget (s.rd o.d) with
        | none => finish (s.deferC0 negOne)
        | some h =>
          let x := s.hart h
          let me := s.cx.hart
          if h == me then finish (s.deferC0 negOne)
          else if x.frozen || !(x.st == .active || x.st == .parked || x.st == .stopped) then finish (s.deferC0 0)
          else if idle && !s.evictable h then finish (s.deferC0 (wInt (-3)))
          else if !x.boundary then holdAt .saveWait s
          else
            let s := a.foldl (fun s p =>
              s.pin (clusterOf me) ⟨s.me.part, s.me.t.pspace, p.1 / 65536, .area me⟩) s
            saveOn h a (s.freeze h)

def execCtxsave (o : RR) (s : State) : Out := saveWith false o s
def execEvict (o : RR) (s : State) : Out := saveWith true o s

/-! ## Loading and dropping (R371, R372) -/

/-- The transfers that the save suspended go on. -/
def State.restartXfers (s : State) (h : Nat) : State :=
  (List.range 8).foldl (fun s k =>
    let x := s.xfer (coreOf h) k
    if x.live && x.issuer == h then s.setXfer (coreOf h) k { x with saveSusp := false } else s) s

/-- A resumed hart asks for its lease and its octets, ahead of all but the harts resumed before it (R37, R292). -/
def State.reclaim (s : State) (h : Nat) : State :=
  let x := s.hart h
  let n := x.savedOctets.length + x.savedGifts.length
  let s := if n == 0 then s
    else s.modCore (coreOf h) fun k =>
      { k with claims := k.claims.filter (·.resumed) ++ [{ h := h, n := n, resumed := true }] ++ k.claims.filter (!·.resumed) }
  let s := s.modHart h fun x =>
    { x with hold := if n != 0 then some (resumeHold (.claim n))
              else match x.savedLease with | some (a, r) => some (resumeHold (.lease (clusterOf h * 4 + a) r)) | none => none }
  match x.savedLease with
  | none => s
  | some (a, r) =>
    let g := clusterOf h * 4 + a
    (s.modGroup g fun y =>
      { y with lq := y.lq.filter (·.resumed) ++ [{ h := h, n := r, resumed := true }] ++ y.lq.filter (!·.resumed) }).grantLease g

/-- The hart with its CSRs from the area: every field is masked as a CSR write masks it, and the read-only ones of R370
are restored. -/
def restoreCsrs (x : Hart) (ws : List Word) : Hart :=
  (areaCsrs.zip ws).foldl (fun x nv =>
    if nv.1 == 0x024 then { x with u := { x.u with mbtab := nv.2.extractLsb' 8 9 } }
    else if nv.1 == 0x036 then { x with cp := { x.cp with prom := nv.2 } }
    else (csrSet x nv.1 nv.2).getD x) x

/-- Every field of the area is restored (R370, R371). -/
def State.readContext (s : State) (a : Area) (h : Nat) : State :=
  let x := s.hart h
  let fl := s.areaGet a 0x10
  let ls := s.areaGet a 0x20
  let octet (i : Nat) : List VWord := (List.range 8).map fun j => vOfBytes (bytesOf (s.areaGets a (0xC00 + 512 * i + 64 * j) 8))
  let slots := (if bit fl 20 then [false] else []) ++ (if bit fl 21 then [true] else [])
  let gifts := fld fl 24 3
  let vec (i : Nat) : VWord := vOfBytes (bytesOf (s.areaGets a (0x800 + 64 * i) 8))
  let x := restoreCsrs x (s.areaGets a 0x300 32)
  let x := { x with
    pc := evenWord (s.areaGet a 8)
    regs := (List.range 76).map fun i => (i, s.areaGet a (0x40 + 8 * i))
    m := (List.range 8).map fun i => (i, s.areaGet a (0x400 + 8 * i))
    v := (List.range 16).map fun i => (i, vec i)
    streams := (List.range 8).map fun i => (i, streamFrom (s.areaGets a (0x1400 + 512 * i) 64))
    mbs := (List.range 8).map fun i => (i, mailboxFrom (s.mb h i) (s.areaGets a (0x2400 + 64 * i) 8))
    mode := if fld fl 8 2 < 2 then modeOf (fld fl 8 2) else x.mode
    h := { x.h with running := bit fl 2, mb := fld fl 12 3, hpc := evenWord (s.areaGet a 0x18), tracked := x.h.tracked && bit fl 2 }
    mxl := (s.areaGet a 0x28).setWidth 10 &&& 0x33F
    array := fld ls 16 2
    savedLease := if bit fl 3 then some (fld ls 0 2, fld ls 8 7) else none
    savedSlots := slots
    savedOctets := (List.range slots.length).map octet
    savedGifts := (List.range gifts).map fun i => octet (slots.length + i)
    event := true, waited := 0, span := {}, hold := none, sbuf := [], done := [], todo := [], icache := []
    st := if bit fl 0 then .parked else if bit fl 1 then .stopped else .active }
  let s := (List.range 8).foldl (fun s k =>
    let (g, b) := bankIndex h k
    if (s.abank g b).tag == .spilled h then
      s.setAbank g b { tag := .owned h, data := bankFrom (s.areaGets a (0x4000 + 0x4000 * k) 2048) }
    else s) s
  (((s.setHart h x).restartXfers h).mailboxesBack h).reclaim h

def execCtxload (o : RR) (s : State) : Out :=
  kernelOnly s fun s =>
    withArea false (s.rd o.a) s fun a s => drained s fun s =>
      match s.ctxTarget (s.rd o.d) with
      | none => finish (s.deferC0 negOne)
      | some h =>
        let bad (n : Nat) : Bool := a.any fun p => s.eccBad p.1 (min p.2.2 n)
        let w := s.areaGet a 0
        if (s.hart h).st != .saved then finish (s.deferC0 0)
        else if let some pa := s.areaBlock a fun pa => (s.who s.cx.hart).came pa s.tick then
          holdAt (.bank ((s.who s.cx.hart).came pa s.tick) pa) s
        else if s.eccBad (areaAt a 0).1 8 then finish ((s.countBad (areaAt a 0).1).deferC0 (wInt (-2)))
        else if fld w 56 8 != 0xC7 || fld w 0 25 != (s.hartId h).toNat then finish (s.deferC0 0)
        else if bad areaSize then
          let k := match a.find? fun p => s.eccBad p.1 p.2.2 with | some p => p.1 | none => 0
          finish ((s.countBad k).deferC0 (wInt (-2)))
        else finish (((s.areaServe a true).readContext a h).deferC0 1)

/-- A saved context is discarded (R372). -/
def State.discard (s : State) (h : Nat) : State :=
  let c := coreOf h
  let x := s.hart h
  let s := (List.range 8).foldl (fun s k =>
    let (g, b) := bankIndex h k
    if (s.abank g b).tag == .spilled h then s.freeBank g b else s) s
  let s := (List.range 8).foldl (fun s k =>
    let y := s.xfer c k
    if !y.live || y.issuer != h then s
    else
      let (st, s) := s.closeXfer c k 2
      if y.done == 0 then s
      else
        let m := s.copyDone k y st
        (if m.counts then s.qAdd m.qcore m.launch 1 else s).divertTo m 5 y.part) s
  let s := ((s.unwait h false).modHart h fun k => { k with spawned := true }).leaveBarriers x.barriers h x.launch
  let l := s.launch x.launch
  let s := ((s.dropMailboxes h).dropOctets h).freeHart h
  if (List.range 4).all fun i => (s.hart (c * 4 + i)).st == .free then s.coreEmpty c l else s

/-- EVICT.drop; the messages in the spillways are read once their banks are free (R78). -/
def execEvictDrop (d : RegNo) (s : State) : Out :=
  kernelOnly s fun s =>
    match s.ctxTarget (s.rd d) with
    | none => finish (s.deferC0 negOne)
    | some h =>
      if (s.hart h).st != .saved then finish (s.deferC0 0)
      else
        match s.mailBlock h with
        | some (_, _, pa) => holdAt (.bank ((s.who s.cx.hart).came pa s.tick) pa) s
        | none => finish ((s.discard h).deferC0 1)

/-! ## RESUME (R368) -/

def execResume (d : RegNo) (s : State) : Out :=
  kernelOnly s fun s =>
    drained s fun s =>
      match s.ctxTarget (s.rd d) with
      | none => finish (s.deferC0 negOne)
      | some h =>
        let x := s.hart h
        if !x.frozen && (x.st == .parked || x.st == .stopped) then
          finish ((s.modHart h fun x => { x with st := .active }).deferC0 1)
        else finish (s.deferC0 0)

def execResumeXfer (o : RR) (s : State) : Out :=
  kernelOnly s fun s =>
    drained s fun s =>
      match s.ctxTarget (s.rd o.d) with
      | none => finish (s.deferC0 negOne)
      | some h =>
        match s.whose h (s.rd o.a) with
        | .own c k x =>
          if x.live && x.faultSusp then
            finish (((s.setXfer c k { x with faultSusp := false, resumed := some s.tick }).modHart h fun y => { y with event := true }).deferC0 1)
          else finish (s.deferC0 0)
        | _ => finish (s.deferC0 0)

/-! ## Keys (R373, R403) -/

/-- The slot lies in the partition's key range; a monitor hart of no partition may name any (log 7). -/
def State.keyRange (s : State) (k : Nat) : Bool :=
  match s.me.part with
  | none => true
  | some p => let q := s.part p; decide (q.kbase ≤ k) && decide (k < q.kbase + q.kcount)

def keySlot (d : RegNo) (s : State) (k : Nat → State → Out) : Out :=
  kernelOnly s fun s =>
    let n := fld (s.rd d) 0 12
    if s.keyRange n then k n s else trap Cause.permission (w64 n) s

def execKeyld (o : RR) (s : State) : Out :=
  keySlot o.d s fun n s =>
    (loadBytes s.cx.hart (s.rd o.a) 64 64 0 s).out .load fun bs s =>
      finish ({ s with keys := Tab.put s.keys n (vOfBytes bs) }.deferC0 1)
def execKeyldClr (d : RegNo) (s : State) : Out :=
  keySlot d s fun n s => finish ({ s with keys := Tab.put s.keys n 0 }.deferC0 1)

end Sys2Proof.Machine
end

