-- ==== Sys2Proof/Machine/Control.lean ====
section
/-! DEFINITION. Control transfer, traps and returns, and the waits that touch no memory (spec/09 R201 to R224). -/

namespace Sys2Proof.Machine

/-- The target of a displacement: 16-bit words from the base word (R176, R202). -/
def State.target (s : State) (disp : Word) : Word := s.basePc + 2 * disp

/-- A Form J branch tests committed values and ends its span (R201). -/
def branch (cond : State → Bool) (disp : Word) (s : State) : Out :=
  serial s fun s => if cond s then goto (s.target disp) s else serialDone s

def State.c0 (s : State) : Word := s.rd 0
def State.m0 (s : State) : Word := Tab.get 0 s.me.m 0

def execBz (disp : Word) (s : State) : Out := branch (fun s => s.c0 == 0) disp s
def execBnz (disp : Word) (s : State) : Out := branch (fun s => s.c0 != 0) disp s
def execBn (disp : Word) (s : State) : Out := branch (fun s => s.c0.slt 0) disp s
def execBnn (disp : Word) (s : State) : Out := branch (fun s => !s.c0.slt 0) disp s
def execBp (disp : Word) (s : State) : Out := branch (fun s => (0 : Word).slt s.c0) disp s
def execBnp (disp : Word) (s : State) : Out := branch (fun s => !(0 : Word).slt s.c0) disp s
def execBbs (disp : Word) (s : State) : Out := branch (fun s => bit s.c0 0) disp s
def execBbc (disp : Word) (s : State) : Out := branch (fun s => !bit s.c0 0) disp s
def execBmany (disp : Word) (s : State) : Out := branch (fun s => s.m0 != 0) disp s
def execBmnone (disp : Word) (s : State) : Out := branch (fun s => s.m0 == 0) disp s
def execBal (disp : Word) (s : State) : Out := branch (fun _ => true) disp s

/-- CALL writes the link at its own marker (R202). -/
def execCall (o : Jump) (s : State) : Out :=
  serial s fun s => goto (s.target o.disp) (s.setReg o.d s.nextPc)
def execJmp (disp : Word) (s : State) : Out := serial s fun s => goto (s.target disp) s
/-- JR: D = 0 writes no link; an odd target raises MISALIGNED with the target recorded (R203). -/
def execJr (o : RR) (s : State) : Out :=
  serial s fun s =>
    let t := s.rd o.a
    if bit t 0 then trap Cause.misaligned t s
    else goto t (if o.d == 0 then s else s.setReg o.d s.nextPc)
/-- LOOP (R204). -/
def execLoop (o : Jump) (s : State) : Out :=
  serial s fun s =>
    let v := s.rd o.d - 1
    let s := s.setReg o.d v
    if v != 0 then goto (s.target o.disp) s else serialDone s

def execNop (s : State) : Out := serial s serialDone
/-- YIELD: the hart stands behind the other ready harts of its priority in both round-robins (R223, R354). -/
def execYield (s : State) : Out :=
  serial s fun s =>
    let h := s.cx.hart
    serialDone (s.modCore (coreOf h) fun c => { c with rrScalar := h % 4, rrVector := h % 4 })

/-- ERET (R217; from monitor mode R404). -/
def execEret (s : State) : Out :=
  serial s fun s =>
    let x := s.me
    match x.mode with
    | .user => trap Cause.privilege 0 s
    | .kernel =>
      goto x.t.tepc (s.modMe fun x =>
        { x with mode := x.t.pmode, t := { x.t with ie := x.t.pie, intrap := false } })
    | .monitor =>
      goto x.mon.pc (s.modMe fun x => { x with mode := x.mon.rmode, mon := { x.mon with busy := false } })
/-- UERET (R217). -/
def execUeret (s : State) : Out :=
  serial s fun s =>
    let x := s.me
    if !x.t.utrap then illegal s
    else goto x.t.uepc (s.modMe fun x => { x with t := { x.t with utrap := false } })
def execEbreak (s : State) : Out := trap Cause.breakpoint 0 s
/-- TRAP raises SYSCALL with the value of A and the code (R218). -/
def execTrap (o : TrapOp) (s : State) : Out :=
  serial s fun s => trapCode Cause.syscall o.code.toNat (s.rd o.a) s

/-- WFE clears a set event flag and completes, or waits (R224). -/
def execWfe (s : State) : Out :=
  serial s fun s =>
    if s.me.event then serialDone (s.modMe fun x => { x with event := false }) else holdAt .wfe s

/-- WAITT holds the hart until the partition's TICK reaches A (R221). -/
def execWaitt (a : RegNo) (s : State) : Out :=
  let v := s.rd a
  if v.toNat ≤ (s.partTick s.me.part).toNat then finish s else holdAt (.waitt v) s

end Sys2Proof.Machine
end

