-- ==== Sys2Proof/Machine/Fabric.lean ====
section
/-! DEFINITION. Messages on their way over links, replay, retraining and failure of links, escape mode, and lane training
(spec/23 R383 to R391; log 36). -/

namespace Sys2Proof.Machine

def State.link (s : State) (i : Nat) : Link := Tab.get {} s.links i
def State.setLink (s : State) (i : Nat) (x : Link) : State := { s with links := Tab.put s.links i x }

/-! ## The way of a message -/

/-- The link that a message has to pass next. -/
def State.nextLink (s : State) (m : Msg) : Option Nat := (s.msgRoute m)[m.hops]?
/-- The flits of a packet on a link, and how many unacknowledged ones its sender keeps (R383, R389). -/
def Msg.flits (m : Msg) (i : Nat) : Nat := if i < 16 then (m.bytes + 127) / 128 else (m.bytes + 255) / 256
def linkWindow (i : Nat) : Nat := if i < 16 then 64 else 128
def Link.kept (x : Link) : Nat := (x.seq - x.acked - 1).toNat
/-- The link takes `n` new flits: it is up and locked, a Tlauno port is trained, nothing is being replayed, and the sender can
keep them. -/
def State.linkTakes (s : State) (i n : Nat) : Bool :=
  let x := s.link i
  x.up && x.locked && (decide (i < 16) || s.trained.contains ((i - 16) / 24, (i - 16) % 24))
    && x.next == x.seq && decide (x.kept + n ≤ linkWindow i)

/-- Ring-stop outputs: 2d clockwise from die d, 2d + 1 counter-clockwise; of a message that has to pass a viaduct (R387). -/
def State.output (s : State) (m : Msg) : Option Nat :=
  match s.nextLink m with
  | some l =>
    if 8 ≤ l then none
    else if goesCw (s.msgWay m) (s.msgFrom m) (s.msgTo m) then some (2 * l) else some (2 * ((l + 1) % 8) + 1)
  | none => none
/-- The message has passed the dateline, and is on channel B until it leaves the ring (R387). -/
def State.onB (s : State) (m : Msg) : Bool := ((s.msgRoute m).take m.hops).contains 7

/-- The message as it stands once it has passed its next link. -/
def Msg.passed (m : Msg) (tick : Nat) : Msg := { m with hops := m.hops + 1, moved := some tick }
/-- The buffer that a message comes to behind a link, where the network changes: the link in front of it, or the mesh of a die
(R388). -/
def State.buffer? (s : State) (m : Msg) : Option (Nat × Nat) :=
  if m.hops == 0 || s.msgRoute m == [] then none
  else
    match s.nextLink m with
    | some l => if 8 ≤ l then some (0, l) else none
    | none => some (1, s.msgTo m)
/-- The class has room in that buffer of 2 KiB. -/
def State.bufferRoom (s : State) (m : Msg) : Bool :=
  match s.buffer? m with
  | none => true
  | some b =>
    let there := s.net.filter fun d => Hdr.cls d.hdr == Hdr.cls m.hdr && s.buffer? d == some b
    decide ((there.map Msg.bytes).sum + m.bytes ≤ 2048)

/-- The message goes by the escape channel of its output (R387). -/
def State.escapes (s : State) (m : Msg) : Bool :=
  match s.output m with
  | some o => m.esc || s.escape.contains (o, Hdr.cls m.hdr)
  | none => false
/-- The escape channel of the next ring stop holds no packet yet. -/
def State.escapeRoom (s : State) (m : Msg) : Bool :=
  match s.output m with
  | none => true
  | some o => s.net.all fun d => !(d.esc && s.output d == some o && s.onB d == s.onB m)

/-- Message `i` may pass link `l` now: the link takes it, no earlier one of its class has to pass there before it (R384), and
there is room behind it, on its own channel or on the escape channel. -/
def State.mayPassLink (s : State) (i : Nat) (m : Msg) (l : Nat) : Bool :=
  let next := m.passed s.tick
  s.linkTakes l (m.flits l)
    && (s.net.take i).all (fun d => !(Hdr.cls d.hdr == Hdr.cls m.hdr && s.nextLink d == some l))
    && s.bufferRoom next && (!s.escapes m || s.escapeRoom next)
/-- Message `i` passes link `l`: its flits take the next sequence numbers, and the receiver accepts them. -/
def State.passLink (s : State) (i : Nat) (m : Msg) (l : Nat) : State :=
  let x := s.link l
  let seq := x.seq + BitVec.ofNat 12 (m.flits l)
  let next := m.passed s.tick
  ({ s with net := s.net.set i { next with esc := s.escapes m && (s.output next).isSome } }).setLink l
    { x with seq := seq, next := seq }

/-- What moves during step `n`: each message on its way may pass one link, and receivers acknowledge; which do is open. -/
def State.flowOne (n : Nat) (s : State) (i : Nat) : State :=
  match s.net[i]? with
  | none => s
  | some m =>
    let m := if m.moved.isNone then { m with moved := some s.tick } else m
    match s.nextLink m with
    | none => s
    | some l => if Config.flows n i && s.mayPassLink i m l then s.passLink i m l else { s with net := s.net.set i m }
def State.flow (s : State) (n : Nat) : State :=
  let s := (List.range s.net.length).foldl (State.flowOne n) s
  { s with links := s.links.map fun kx =>
      (kx.1, if kx.2.up && kx.2.locked && Config.acks n kx.1 then { kx.2 with acked := kx.2.seq - 1, next := kx.2.seq } else kx.2) }

/-! ## Links (R389, R390) -/

/-- A step of link i. -/
def linkStep (s : State) (k : Nat → Link → State) : Out :=
  let i := s.ev.i
  if 64 ≤ i then .fault .noSuchUnit else .next (k i (s.link i))

/-- LINK_REPLAY (w = last flit acknowledged): the receiver asks for what follows the last flit that it acknowledges, which is
one that it has been sent; it drops what it has accepted before (R389). -/
def execLinkReplay (s : State) : Out :=
  linkStep s fun i x =>
    let a := BitVec.ofNat 12 s.ev.w
    if x.up && x.locked && decide ((a - x.acked).toNat ≤ x.kept) then s.setLink i { x with acked := a, next := a + 1 } else s

/-- The transfer may use the fabric: not all of its bytes are known to lie in scratchpads of the issuer's die. -/
def Xfer.roams (x : Xfer) : Bool :=
  let near (va : Word) : Bool := fld va 56 8 == 0xA0 && coreOfBits (fld va 0 30) / 1024 == dieOf x.issuer
  !(near x.src && near x.dst && x.rows == 0)
/-- A link that retrains comes between a transfer and its promise (R321). -/
def State.hinderXfers (s : State) : State :=
  { s with cores := s.cores.map fun kc =>
      (kc.1, { kc.2 with xfers := kc.2.xfers.map fun kx =>
        (kx.1, if kx.2.live && kx.2.roams then { kx.2 with hindered := true } else kx.2) }) }

/-- LINK_RETRAIN: loss of lock, or the next of at most four attempts, each of at most 5,000 ticks. -/
def execLinkRetrain (s : State) : Out :=
  linkStep s fun i x =>
    if x.up && x.attempts < 4 then s.hinderXfers.setLink i { x with locked := false, attempts := x.attempts + 1, since := s.tick }
    else s

/-- SUCCESSFUL_RETRAIN: the link is locked again, and the sender goes back to the flit after the last one acknowledged. -/
def execSuccessfulRetrain (s : State) : Out :=
  linkStep s fun i x =>
    if x.up && !x.locked then s.setLink i { x with locked := true, attempts := 0, next := x.acked + 1 } else s

/-- Message m is dropped before link i, and reported (R390). -/
def State.dropMsg (s : State) (m : Msg) (i : Nat) : State :=
  let agent := if m.origin == 3 && m.sender == 0 then m.agent else m.sender.toNat
  let s := s.machineCheck 7 (linkKind i) agent m.hdr (w64 (linkNumber i))
  let s := if m.counts then s.qAdd m.qcore m.launch (-1) else s
  s.fate m (wInt (-2))

/-- Every message whose way crosses a failed link that it has not passed is dropped. -/
def State.dropCut (s : State) : State :=
  let cut := s.net.filterMap fun m => (s.cutMsg m).map fun i => (m, i)
  let s := { s with net := s.net.filter fun m => (s.cutMsg m).isNone }
  cut.foldl (fun s mi => s.dropMsg mi.1 mi.2) s

/-- Stores on their way over the failing link: each has passed it, which is open, and then only its reply can be lost (MemOps'
`perform`); or it is lost (R229). -/
def State.loseStores (s : State) (i : Nat) : State :=
  s.harts.foldl (fun s kx =>
    let h := kx.1
    kx.2.sbuf.foldl (fun s e =>
      if e.sent && !e.past && (if isHost e.base then hostLinks (dieOf h) else ringLinks 0 (dieOf h) (homeDie e.base)).contains i then
        let (n, s) := s.draw
        if Config.reached n then
          s.modHart h fun x => { x with sbuf := x.sbuf.map fun d => if d == e then { d with past := true } else d }
        else (s.modHart h fun x => { x with sbuf := x.sbuf.erase e }).lose h e.va e.pc true
      else s) s) s

/-- LINK_DOWN: after four attempts the link has failed; and every packet for a failed link is dropped (R390). -/
def execLinkDown (s : State) : Out :=
  linkStep s fun i x =>
    if !x.up then s.dropCut
    else if x.locked || x.attempts < 4 then s
    else
      let s := s.loseStores i
      let s := { s with trained := s.trained.filter fun t => 16 + 24 * t.1 + t.2 != i }
      (s.setLink i { x with up := false }).dropCut

/-- ESCAPE_MODE (i = die, j = class, w = 0 clockwise or 1): the oldest packet of the class at the output has not advanced for 512
ticks, and no sluice holds the class: it goes by the escape channel from now on; with `ok` it leaves escape mode once the escape
channel holds nothing of it from this stop (R387). -/
def execEscapeMode (s : State) : Out :=
  let d := s.ev.i
  let c := s.ev.j
  let link := if s.ev.w == 0 then d else (d + 7) % 8
  let out := 2 * d + s.ev.w
  if 8 ≤ d || 16 ≤ c || 2 ≤ s.ev.w then .fault .noSuchUnit
  else
    let users := s.net.filter fun m => Hdr.cls m.hdr == c && (s.msgRoute m).contains link
    if s.ev.ok then
      .next (if users.all fun m => !(m.esc && ((s.msgRoute m).take m.hops).contains link) then
          { s with escape := s.escape.filter (· != (out, c)) }
        else s)
    else
      match users.find? fun m => s.output m == some out with
      | none => .next s
      | some m =>
        let stuck := match m.moved with | some t => decide (t + 512 ≤ s.tick) | none => false
        if !stuck || users.any (·.waiting) || s.escape.contains (out, c) then .next s
        else .next { s with escape := s.escape ++ [(out, c)] }

/-- LANE_TRAINING (i = bridgehead, j = port): the port is trained; under the reduced service the ports are disabled (R411). -/
def execLaneTraining (s : State) : Out :=
  let b := s.ev.i
  let p := s.ev.j
  if 2 ≤ b || 24 ≤ p then .fault .noSuchUnit
  else if !s.boot.full || s.trained.contains (b, p) then .next s
  else .next { s.setLink (16 + 24 * b + p) {} with trained := s.trained ++ [(b, p)] }

end Sys2Proof.Machine
end

