-- ==== Sys2Proof/Machine/Maps.lean ====
section
/-! DEFINITION. Kalide maps: the descriptor, keys, chains, growth, acceptance at the home and its execution (spec/14 R272 to
R290). -/

namespace Sys2Proof.Machine

/-! ## The descriptor (R272, R273) -/

/-- A descriptor as read: its words. -/
abbrev Desc := List Word

namespace Desc

def w (d : Desc) (i : Nat) : Word := d.getD i 0
def magic (d : Desc) : Nat := fld (w d 0) 56 8
def lgshards (d : Desc) : Nat := fld (w d 0) 53 3
def lgstride (d : Desc) : Nat := fld (w d 0) 47 6
def ksz (d : Desc) : Bool := bit (w d 0) 46
def vsz (d : Desc) : Nat := fld (w d 0) 44 2
/-- The load threshold; values 9 to 15, which R272 does not give, are used as they are (DESIGN CHOICE; log 35). -/
def thr (d : Desc) : Nat := if fld (w d 0) 40 4 == 0 then 6 else fld (w d 0) 40 4
def seed (d : Desc) : Nat := fld (w d 0) 0 32
def table (x : Word) : Word := x &&& ~~~(0x3F : Word)
def lg (x : Word) : Nat := fld x 0 6
def cursor (d : Desc) : Nat := fld (w d 3) 32 32
def count (d : Desc) : Nat := fld (w d 3) 0 32
def gen (d : Desc) : Nat := fld (w d 4) 40 24
def shard (d : Desc) : Nat := fld (w d 4) 32 8
def stalled (d : Desc) : Bool := bit (w d 4) 3
def needed (d : Desc) : Bool := bit (w d 4) 2
def growing (d : Desc) : Bool := fld (w d 4) 0 2 == 1
/-- Words of a key and of a value, and bytes of a bucket (R275). -/
def kw (d : Desc) : Nat := if ksz d then 2 else 1
def vw (d : Desc) : Nat := 2 ^ vsz d
def bucket (d : Desc) : Nat := 8 + 32 * (kw d + vw d)
def setW (d : Desc) (i : Nat) (v : Word) : Desc := d.set i v
/-- Words 3 and 4 from their fields. -/
def word3 (cursor count : Nat) : Word := w64 (cursor % 2 ^ 32 * 2 ^ 32 + count % 2 ^ 32)
def word4 (gen shard : Nat) (stalled needed growing : Bool) : Word :=
  w64 (gen % 2 ^ 24 * 2 ^ 40 + shard * 2 ^ 32 + b2n stalled * 8 + b2n needed * 4 + b2n growing)
def setCursor (d : Desc) (n : Nat) : Desc := setW d 3 (word3 n (count d))
def setCount (d : Desc) (n : Nat) : Desc := setW d 3 (word3 (cursor d) n)
def setStalled (d : Desc) (b : Bool) : Desc := setW d 4 (word4 (gen d) (shard d) b (needed d) (growing d))
def setNeeded (d : Desc) (b : Bool) : Desc := setW d 4 (word4 (gen d) (shard d) (stalled d) b (growing d))

/-- The form that R273 asks of the words themselves. -/
def wf (d : Desc) : Bool :=
  magic d == 0x4B && 6 ≤ lgstride d && lgstride d ≤ 46 && lg (w d 1) + lgshards d ≤ 31 && fld (w d 0) 32 8 == 0
    && fld (w d 4) 4 28 == 0 && fld (w d 4) 0 2 < 2 && w d 7 == 0
    && canonical (w d 1) && canonical (w d 2) && canonical (w d 5)

end Desc

/-! ## Hash and chains (R274, R275) -/

def mapHash (seed : Nat) (key : List Word) : Nat :=
  let k32 := key.foldl (fun x w => x ^^^ fld w 0 32 ^^^ fld w 32 32) 0
  ((k32 ^^^ seed) * 0x9E3779B9) % 2 ^ 32
def shardOf (d : Desc) (hash : Nat) : Nat := hash / 2 ^ (32 - Desc.lgshards d)
def bucketOf (d : Desc) (hash lg : Nat) : Nat := hash / 2 ^ (32 - Desc.lgshards d - lg) % 2 ^ lg
def tagOfHash (hash : Nat) : Nat :=
  let t := hash % 256
  if t == 0 then 2 else if t == 1 then 3 else t
/-- The buckets of a chain. -/
def chain (lg b : Nat) : List Nat := (List.range (min 4 (2 ^ lg))).map fun i => (b + i) % 2 ^ lg

/-! ## Accesses of the map unit -/

/-- What a step of a map operation comes to: a result, a page it may not use, a wait (at a bank since a tick, or for something that
keeps no queue), a wait at the banks of its buffer, a pair of the pool that it has read and compares from now on, or an
uncorrectable word at an address and location. -/
inductive Mp (α : Type) where
  | ok (a : α) (s : State)
  | no
  | busy (w : Option (Nat × Nat))
  | pad (w : PadWait)
  | read (pop : Bool) (pair : Word × Word)
  | ecc (va : Word) (key : Nat)

def Mp.bind {α β : Type} (x : Mp α) (f : α → State → Mp β) : Mp β :=
  match x with
  | .ok a s => f a s
  | .no => .no
  | .busy w => .busy w
  | .pad w => .pad w
  | .read p q => .read p q
  | .ecc v k => .ecc v k

def Mp.each {α β : Type} (f : α → State → Mp β) : List α → State → Mp (List β)
  | [], s => .ok [] s
  | a :: as, s => (f a s).bind fun b s => (Mp.each f as s).bind fun bs s => .ok (b :: bs) s

/-- The first of a list that `f` gives a result for. -/
def Mp.first {α β : Type} (f : α → State → Mp (Option β)) : List α → State → Mp (Option β)
  | [], s => .ok none s
  | a :: as, s => (f a s).bind fun b s => match b with | some v => .ok (some v) s | none => Mp.first f as s

/-- The home checks in the issuing hart's space, through its own cluster's cache (R98, R276). -/
def MapOp.who (op : MapOp) : Who :=
  { h := op.h, mode := op.mode, part := op.part, ptroot := op.ptroot, pspace := op.pspace, unit := some op.home, since := op.bank
    stops := false }
/-- The operation as it migrates or reaches for the pool: it translates what it needs then (R283, R290). -/
def MapOp.fresh (op : MapOp) : MapOp := { op with pages := [] }

/-- The place of a word: as translated at acceptance, or translated now (R276, R283). An address that is not 8-byte aligned, as one
of the pool may be, counts as one that cannot be used (DESIGN CHOICE: R273 does not name a pool address that breaks R272's
alignment; log 35). -/
def mapPlace (op : MapOp) (va : Word) (s : State) : Mp (Nat × Option (BitVec 12)) :=
  match op.pages.find? fun p => p.1 == va.toNat / 65536 with
  | some p => .ok (p.2.1 * 65536 + va.toNat % 65536, p.2.2) s
  | none =>
    match access op.who .atomic va 8 8 s with
    | .ok p s => if isVault p.key then .ok (p.key, p.enc) s else .no
    | .wait (.bank t p) _ => .busy (some (t, p))
    | .wait .. => .busy none
    | _ => .no

/-- A place that the operation may use now: its bank is available and its codeword correct; `blame` is the address that a record
names. -/
def mapAt (op : MapOp) (blame va : Word) (s : State) : Mp (Nat × Option (BitVec 12)) :=
  (mapPlace op va s).bind fun p s =>
    if !s.bankFree p.1 (waitCame op.bank p.1 s.tick) then .busy (some (waitCame op.bank p.1 s.tick, p.1))
    else if s.eccBad p.1 8 then .ecc blame p.1
    else .ok p (s.touch p.1 8)
/-- A word of memory, and a write of one. -/
def mapRd (op : MapOp) (blame va : Word) (s : State) : Mp Word :=
  (mapAt op blame va s).bind fun p s => .ok (w64 (ofBytes (s.readBytes p.2 p.1 8))) s
def mapWr (op : MapOp) (blame va v : Word) (s : State) : Mp Unit :=
  (mapAt op blame va s).bind fun p s => .ok () ((s.mend p.1 8).writeBytes p.2 p.1 (toBytes 8 v.toNat))
def mapRds (op : MapOp) (blame va : Word) (n : Nat) (s : State) : Mp (List Word) :=
  Mp.each (fun i s => mapRd op blame (va + w64 (8 * i)) s) (List.range n) s
def mapWrs (op : MapOp) (blame va : Word) (ws : List Word) (s : State) : Mp Unit :=
  (Mp.each (fun x s => mapWr op blame (va + w64 (8 * x.2)) x.1 s) ws.zipIdx s).bind fun _ s => .ok () s

/-- The two compares of a pop or a push on a pair of the pool (R281): `now` is the pair at present, and `reads` those that the
operation has read before. It is read in one step and compared in a later one, and read again where the first compare fails. -/
def mapCompare (pop : Bool) (reads : List (Word × Word)) (now : Word × Word) (s : State) : Mp Bool :=
  match reads with
  | [] => .read pop now
  | [a] => if now == a then .ok true s else .read pop now
  | _ :: b :: _ => .ok (now == b) s

/-- Notice `i` is still in the queue of its home: it has neither been taken at its sluice, nor waits there, nor stands behind one of
its class that waits there, in the buffers of the network (DESIGN CHOICE: R285 does not say when one has been sent; log 35). -/
def State.noticeQueued (s : State) (i : Nat) (m : Msg) : Bool :=
  m.via == 2 && !m.waiting
    && !(s.net.take i).any fun d => d.waiting && Hdr.cls d.hdr == Hdr.cls m.hdr && s.routeEnd d == s.routeEnd m

/-- The cluster beneath a descriptor, and the notice of a shard (R285): it waits while the home's queue of 8 is full. -/
def mapNotice (op : MapOp) (home : Nat) (d : Desc) (kind : Nat) (flag : Bool) (w3 : Word) (s : State) : Mp Unit :=
  if 8 ≤ (s.net.zipIdx.filter fun mi => s.noticeQueued mi.2 mi.1 && mi.1.home == home).length then .busy none
  else
    .ok () (s.deviceSend
      { hdr := withLen (Desc.w d 6 &&& ~~~(0x1F_FFFF : Word)) 3
        pay := [op.desc, w64 (b2n flag * 2 ^ 63 + kind), w3], origin := 3, sender := BitVec.ofNat 15 op.h, via := 2
        home := home, die := some (home / 16), part := op.part, launch := (s.hart op.h).launch, qcore := coreOf op.h })

/-! ## Buckets (R275, R280) -/

/-- A slot of a table: its bucket's address and its number. -/
structure SlotAt where
  bucket : Word
  i : Nat

def bucketVa (d : Desc) (table : Word) (b : Nat) : Word := table + w64 (b * Desc.bucket d)
def SlotAt.keyVa (x : SlotAt) (d : Desc) : Word := x.bucket + w64 (8 + x.i * 8 * (Desc.kw d + Desc.vw d))
def SlotAt.valVa (x : SlotAt) (d : Desc) : Word := x.keyVa d + w64 (8 * Desc.kw d)
def tagAt (hdr : Word) (i : Nat) : Nat := fld hdr (8 * i) 8

/-- A slot's tag is set. -/
def setTag (op : MapOp) (x : SlotAt) (tag : Nat) (s : State) : Mp Unit :=
  (mapRd op x.bucket x.bucket s).bind fun h s =>
    mapWr op x.bucket x.bucket
      ((h &&& ~~~((0xFF : Word) <<< (8 * x.i))) ||| (w64 tag <<< (8 * x.i))) s

/-- The slot that holds the key, along a chain; the search stops after a bucket with a tag-0 slot. -/
def searchChain (op : MapOp) (d : Desc) (key : List Word) (tag : Nat) : List Word → State → Mp (Option SlotAt)
  | [], s => .ok none s
  | b :: bs, s =>
    (mapRd op b b s).bind fun hdr s =>
      (Mp.first (fun i s =>
        if tagAt hdr i != tag then .ok none s
        else (mapRds op b ((⟨b, i⟩ : SlotAt).keyVa d) (Desc.kw d) s).bind fun k s =>
          .ok (if k == key then some (⟨b, i⟩ : SlotAt) else none) s) (List.range 4) s).bind fun r s =>
        match r with
        | some x => .ok (some x) s
        | none => if (List.range 4).any fun i => tagAt hdr i == 0 then .ok none s else searchChain op d key tag bs s

/-- The buckets of a key's chain in a table. -/
def chainVas (d : Desc) (tbl : Word) (hash : Nat) : List Word :=
  (chain (Desc.lg tbl) (bucketOf d hash (Desc.lg tbl))).map (bucketVa d (Desc.table tbl))

/-- find: in the new table first, then in the old one from the cursor on; with whether it lies in the old table of a growing
shard. -/
def mapFind (op : MapOp) (d : Desc) (key : List Word) (s : State) : Mp (Option (SlotAt × Bool)) :=
  let hash := mapHash (Desc.seed d) key
  let tag := tagOfHash hash
  if Desc.growing d then
    (searchChain op d key tag (chainVas d (Desc.w d 2) hash) s).bind fun r s =>
      match r with
      | some x => .ok (some (x, false)) s
      | none =>
        let lg := Desc.lg (Desc.w d 1)
        let bs := (chain lg (bucketOf d hash lg)).filter fun b => Desc.cursor d ≤ b
        (searchChain op d key tag (bs.map (bucketVa d (Desc.table (Desc.w d 1)))) s).bind fun r s =>
          .ok (r.map fun x => (x, true)) s
  else
    (searchChain op d key tag (chainVas d (Desc.w d 1) hash) s).bind fun r s => .ok (r.map fun x => (x, false)) s

/-- room: the first slot of tag 0 or 1 along the key's chain. -/
def mapRoom (op : MapOp) (d : Desc) (tbl : Word) (key : List Word) (s : State) : Mp (Option SlotAt) :=
  Mp.first (fun b s =>
    (mapRd op b b s).bind fun hdr s =>
      .ok (((List.range 4).find? fun i => tagAt hdr i < 2).map fun i => (⟨b, i⟩ : SlotAt)) s)
    (chainVas d tbl (mapHash (Desc.seed d) key)) s

/-- put: key and value, then the tag. -/
def mapPutEntry (op : MapOp) (d : Desc) (x : SlotAt) (key val : List Word) (s : State) : Mp Unit :=
  (mapWrs op x.bucket (x.keyVa d) (key ++ val) s).bind fun _ s =>
    setTag op x (tagOfHash (mapHash (Desc.seed d) key)) s

/-! ## Growth (R281 to R284) -/

/-- The growth has reached the end: the old table becomes a block, linked to the head of the returned list, and is pushed onto it; where
the pool cannot be used or both compares of the push fail, its address goes to the notice (R284). -/
def finishGrowth (op : MapOp) (home : Nat) (d : Desc) (s : State) : Mp Desc :=
  let old := Desc.table (Desc.w d 1)
  let pool := Desc.w d 5
  let size := w64 (2 ^ Desc.lg (Desc.w d 1) * Desc.bucket d)
  let pair : Mp (Option (Word × Word)) :=
    match (mapRd op pool (pool + 16) s).bind fun ret s => (mapRd op pool (pool + 24) s).bind fun ver s => .ok (some (ret, ver)) s with
    | .no => .ok none s
    | x => x
  pair.bind fun rv s =>
    (mapWr op old old ((rv.map (·.1)).getD 0) s).bind fun _ s =>
      (mapWr op old (old + 8) size s).bind fun _ s =>
        let push : Mp Bool :=
          match rv with
          | none => .ok false s
          | some rv =>
            (mapCompare false op.pushes rv s).bind fun won s =>
              if !won then .ok false s
              else
                match (mapWr op pool (pool + 16) old s).bind fun _ s => (mapWr op pool (pool + 24) (rv.2 + 1) s).bind fun _ s => .ok true s with
                | .no => .ok false s
                | x => x
        push.bind fun pushed s =>
          let w3 := Desc.w d 1
          let d := ((d.set 1 (Desc.w d 2)).set 2 0).set 3 (Desc.word3 0 (Desc.count d))
          let d := d.set 4 (Desc.word4 (Desc.gen d) (Desc.shard d) false (Desc.needed d) false)
          (mapNotice op home d 2 (!pushed) w3 s).bind fun _ s => .ok d s

/-- One step: the entries of old bucket `cursor` move; the flag says that migration is blocked. -/
def migrateStep (op : MapOp) (home : Nat) (d : Desc) (s : State) : Mp (Desc × Bool) :=
  let j := Desc.cursor d
  let b := bucketVa d (Desc.table (Desc.w d 1)) j
  (mapRd op b b s).bind fun hdr s =>
    let live := (List.range 4).filter fun i => 2 ≤ tagAt hdr i
    (Mp.first (fun i s =>
        let x : SlotAt := ⟨b, i⟩
        (mapRds op b (x.keyVa d) (Desc.kw d + Desc.vw d) s).bind fun kv s =>
          let key := kv.take (Desc.kw d)
          (mapRoom op d (Desc.w d 2) key s).bind fun r s =>
            match r with
            | none => .ok (some ()) s
            | some y =>
              (mapPutEntry op d y key (kv.drop (Desc.kw d)) s).bind fun _ s =>
                (setTag op x 1 s).bind fun _ s => .ok none s) live s).bind fun blocked s =>
      match blocked with
      | some _ =>
        if Desc.stalled d then .ok (d, true) s
        else
          let d := Desc.setStalled d true
          (mapNotice op home d 3 false (w64 j) s).bind fun _ s => .ok (d, true) s
      | none =>
        (mapWr op b b 0 s).bind fun _ s =>
          let d := Desc.setCursor (Desc.setStalled d false) (j + 1)
          if j + 1 == 2 ^ Desc.lg (Desc.w d 1) then (finishGrowth op home d s).bind fun d s => .ok (d, false) s
          else .ok (d, false) s

/-- migrate(n): a step whose pages cannot be used is not taken, and ends the migration. -/
def migrate (op : MapOp) (home : Nat) : Nat → Desc → State → Mp Desc
  | 0, d, s => .ok d s
  | n + 1, d, s =>
    if !Desc.growing d then .ok d s
    else
      match migrateStep op.fresh home d s with
      | .no => .ok d s
      | x => x.bind fun (d, blocked) s => if blocked then .ok d s else migrate op home n d s

/-- The head block of the pool, if it can be used and one of the compares of its pop succeeds: its address, link, and the version of
the list (R282). -/
def poolHead (op : MapOp) (d : Desc) (need : Nat) (s : State) : Mp (Option (Word × Word × Word)) :=
  let pool := Desc.w d 5
  let r : Mp (Option (Word × Word × Word)) :=
    (mapRd op pool pool s).bind fun blk s =>
      if blk == 0 || blk.toNat % 64 != 0 then .ok none s
      else
        (mapRd op pool (pool + 8) s).bind fun ver s =>
          (mapRd op blk blk s).bind fun link s =>
            (mapRd op blk (blk + 8) s).bind fun size s =>
              if size.toNat < need then .ok none s
              else
                (Mp.each (fun (x : Nat × Nat) s => mapPlace op (w64 (x.1 / 8 * 8)) s) (pieces 65536 blk.toNat need) s).bind
                  fun _ s => (mapCompare true op.pops (blk, ver) s).bind fun won s => .ok (if won then some (blk, link, ver) else none) s
  match r with
  | .no => .ok none s
  | x => x

/-- start_growth: whether it started (R282). -/
def startGrowth (op : MapOp) (home : Nat) (d : Desc) (s : State) : Mp (Desc × Bool) :=
  let op := op.fresh
  let lg := Desc.lg (Desc.w d 1)
  let need := 2 * 2 ^ lg * Desc.bucket d
  let fail (s : State) : Mp (Desc × Bool) :=
    if Desc.needed d then .ok (d, false) s
    else
      let d := Desc.setNeeded d true
      (mapNotice op home d 1 false (w64 need) s).bind fun _ s => .ok (d, false) s
  if 31 < lg + 1 + Desc.lgshards d then fail s
  else
    (poolHead op d need s).bind fun r s =>
      match r with
      | none => fail s
      | some (blk, link, ver) =>
        let pool := Desc.w d 5
        (mapWr op pool pool link s).bind fun _ s =>
          (mapWr op pool (pool + 8) (ver + 1) s).bind fun _ s =>
            (mapWr op blk blk 0 s).bind fun _ s =>
              (mapWr op blk (blk + 8) 0 s).bind fun _ s =>
                let d := (d.set 2 (blk ||| w64 (lg + 1))).set 3 (Desc.word3 0 (Desc.count d))
                let d := d.set 4 (Desc.word4 (Desc.gen d + 1) (Desc.shard d) (Desc.stalled d) false true)
                (migrate op home 1 d s).bind fun d s => .ok (d, true) s

/-! ## The operations (R280, R286 to R288) -/

/-- What an operation answers: the descriptor it leaves, c0, the value or key found, and the position. -/
structure MapAns where
  d : Desc
  c0 : Word
  out : Option (List Word) := none
  pos : Option Word := none

def negOf (n : Nat) : Word := wInt (-(n : Int))

/-- insert(key, value, ok). -/
def mapInsert (op : MapOp) (home : Nat) (d : Desc) (ok : Word) (s : State) : Mp MapAns :=
  let fullUp := Desc.thr d * 2 ^ Desc.lg (Desc.w d 1) * 4 < (Desc.count d + 1) * 8
  let grown : Mp (Desc × Bool) := if !Desc.growing d && fullUp then startGrowth op home d s else .ok (d, false) s
  grown.bind fun (d, _) s =>
    let t := if Desc.growing d then Desc.w d 2 else Desc.w d 1
    (mapRoom op d t op.key s).bind fun r s =>
      match r with
      | none => .ok { d := d, c0 := negOf 2 } s
      | some x =>
        (mapPutEntry op d x op.key op.val s).bind fun _ s =>
          .ok { d := Desc.setCount d (Desc.count d + 1), c0 := ok } s

def mapProbe (op : MapOp) (d : Desc) (s : State) : Mp MapAns :=
  (mapFind op d op.key s).bind fun r s =>
    match r with
    | none => .ok { d := d, c0 := 0 } s
    | some (x, _) => (mapRds op x.bucket (x.valVa d) (Desc.vw d) s).bind fun v s => .ok { d := d, c0 := 1, out := some v } s

def mapRemove (op : MapOp) (d : Desc) (s : State) : Mp MapAns :=
  (mapFind op d op.key s).bind fun r s =>
    match r with
    | none => .ok { d := d, c0 := 0 } s
    | some (x, _) =>
      (mapRds op x.bucket (x.valVa d) (Desc.vw d) s).bind fun v s =>
        (setTag op x 1 s).bind fun _ s =>
          .ok { d := Desc.setCount d (Desc.count d + 2 ^ 32 - 1), c0 := 1, out := some v } s

def mapUpsert (op : MapOp) (home : Nat) (d : Desc) (s : State) : Mp MapAns :=
  (mapFind op d op.key s).bind fun r s =>
    let write (x : SlotAt) (s : State) : Mp MapAns :=
      (mapWrs op x.bucket (x.valVa d) op.val s).bind fun _ s => .ok { d := d, c0 := 1 } s
    match r with
    | none => mapInsert op home d 0 s
    | some (e, false) => write e s
    | some (e, true) =>
      (mapRoom op d (Desc.w d 2) op.key s).bind fun r s =>
        match r with
        | none => write e s
        | some x =>
          (mapPutEntry op d x op.key op.val s).bind fun _ s => (setTag op e 1 s).bind fun _ s => .ok { d := d, c0 := 1 } s

/-- The first live slot among slots `t` to `t + n - 1` of the current table. -/
def scanSlots (op : MapOp) (d : Desc) : Nat → Nat → State → Mp (Option Nat)
  | 0, _, s => .ok none s
  | n + 1, t, s =>
    let b := bucketVa d (Desc.table (Desc.w d 1)) (t / 4)
    (mapRd op b b s).bind fun hdr s => if 2 ≤ tagAt hdr (t % 4) then .ok (some t) s else scanSlots op d n (t + 1) s

/-- The slots that MITER looks at from slot `t` on: to the end of 64 buckets or of the table. -/
def scanEnd (d : Desc) (t : Nat) : Nat := min ((t / 4 + 64) * 4) (4 * 2 ^ Desc.lg (Desc.w d 1))

def mapIter (op : MapOp) (home : Nat) (d : Desc) (s : State) : Mp MapAns :=
  let pos := op.key.getD 0 0
  let sh := fld pos 56 8
  let t := fld pos 0 32
  let shards := 2 ^ Desc.lgshards d
  if pos == BitVec.allOnes 64 then .ok { d := d, c0 := 0 } s
  else if shards ≤ sh then .ok { d := d, c0 := 0, pos := some (BitVec.allOnes 64) } s
  else if Desc.growing d then (migrate op home 2 d s).bind fun d s => .ok { d := d, c0 := negOf 3 } s
  else if t != 0 && fld pos 32 24 != Desc.gen d then .ok { d := d, c0 := negOf 1 } s
  else
    let e := scanEnd d t
    let here (n : Nat) : Word := w64 (sh * 2 ^ 56 + Desc.gen d * 2 ^ 32 + n)
    (scanSlots op d (e - t) t s).bind fun r s =>
      match r with
      | some u =>
        let b := bucketVa d (Desc.table (Desc.w d 1)) (u / 4)
        (mapRds op b ((⟨b, u % 4⟩ : SlotAt).keyVa d) (Desc.kw d) s).bind fun k s =>
          .ok { d := d, c0 := 1, out := some k, pos := some (here (u + 1)) } s
      | none =>
        if 4 * 2 ^ Desc.lg (Desc.w d 1) ≤ max e t then
          .ok { d := d, c0 := 0, pos := some (if sh + 1 < shards then w64 ((sh + 1) * 2 ^ 56) else BitVec.allOnes 64) } s
        else .ok { d := d, c0 := 0, pos := some (here e) } s

def mapStep (op : MapOp) (home : Nat) (d : Desc) (s : State) : Mp MapAns :=
  (migrate op home op.n d s).bind fun d s =>
    let left := if Desc.growing d then 2 ^ Desc.lg (Desc.w d 1) - Desc.cursor d else 0
    .ok { d := d, c0 := if Desc.growing d && Desc.stalled d then negOf 3 else w64 left } s

/-- The operation's own action, after the migration steps of a keyed one. -/
def mapAct (op : MapOp) (home : Nat) (d : Desc) (s : State) : Mp MapAns :=
  match op.kind with
  | .probe => (migrate op home 2 d s).bind fun d s => mapProbe op d s
  | .rem => (migrate op home 2 d s).bind fun d s => mapRemove op d s
  | .ins =>
    (migrate op home 2 d s).bind fun d s =>
      (mapFind op d op.key s).bind fun r s =>
        if r.isSome then .ok { d := d, c0 := negOf 1 } s else mapInsert op home d 1 s
  | .ups => (migrate op home 2 d s).bind fun d s => mapUpsert op home d s
  | .init =>
    .ok { d := (((d.set 2 0).set 3 0).set 4 (w64 (Desc.shard d * 2 ^ 32))).set 7 0, c0 := 1 } s
  | .grow =>
    if Desc.growing d then .ok { d := d, c0 := negOf 1 } s
    else (startGrowth op home d s).bind fun (d, ok) s => .ok { d := d, c0 := if ok then 1 else negOf 2 } s
  | .step => mapStep op home d s
  | .stat => .ok { d := d, c0 := Desc.w d 4, out := some [Desc.w d 3] } s
  | .iter => mapIter op home d s

/-- The request of an operation for its buffer, at the port of its core (R43, R279). -/
def MapOp.padAsk (op : MapOp) (key n : Nat) (read : Bool) (s : State) : PadWait :=
  (s.ask (padCore key) (spadWords (key % 2 ^ 17) n) read 5).kept op.pad
/-- The value comes from the buffer and goes to it (R279). -/
def MapOp.fill (op : MapOp) (d : Desc) (s : State) : Mp MapOp :=
  let n := 8 * Desc.vw d
  match op.buf, op.kind with
  | some a, .ins | some a, .ups =>
    if !s.padTurn (· == .map op.wait) (op.padAsk a n true s) then .pad (op.padAsk a n true s)
    else if s.eccBad a n then .ecc op.desc a
    else .ok { op with val := wordsOf (s.readBytes none a n) (Desc.vw d) } (s.wake a n)
  | _, _ => .ok op s
def MapOp.give (op : MapOp) (out : Option (List Word)) (s : State) : Mp (List Pend) :=
  match out, op.buf with
  | some ws, none => .ok (ws.zipIdx.map fun x => .scalar (op.d + x.2) x.1) s
  | some ws, some a =>
    if !s.padTurn (· == .map op.wait) (op.padAsk a (8 * ws.length) false s) then .pad (op.padAsk a (8 * ws.length) false s)
    else .ok [] (s.putSpad a (bytesOf ws))
  | none, _ => .ok [] s

/-- The home works on the bytes of its own action as it found them at acceptance (R277). -/
def MapOp.recall (op : MapOp) (s : State) : State :=
  op.seen.foldl (fun s x => if s.readBytes x.2.1 x.1 x.2.2.length == x.2.2 then s else s.writeBytes x.2.1 x.1 x.2.2) s
/-- What it has not changed of them is left as `s` has it. -/
def MapOp.leave (op : MapOp) (s t : State) : State :=
  op.seen.foldl (fun t x =>
    let now := s.readBytes x.2.1 x.1 x.2.2.length
    let new := t.readBytes x.2.1 x.1 x.2.2.length
    let at' (l : List Byte) (i : Nat) : Byte := l.getD i 0
    if now == x.2.2 then t
    else t.writeBytes x.2.1 x.1 ((List.range now.length).map fun i => if at' new i == at' x.2.2 i then at' now i else at' new i)) t

/-- The operation as a whole: what it leaves in memory, and its deferred writes. It works on what it found at acceptance
(R277); MSTAT reports the words of now (R287). -/
def runMap (op : MapOp) (home : Nat) (s : State) : Mp (List Pend) :=
  (mapRds op op.desc op.desc 8 s).bind fun now s0 =>
    let d : Desc := if op.kind == .stat then now else op.words
    (op.fill d (op.recall s0)).bind fun full s =>
      (mapAct full home d s).bind fun r s =>
        (Mp.each (fun (i : Nat) s =>
            if Desc.w r.d i == Desc.w d i then .ok () s else mapWr op op.desc (op.desc + w64 (8 * i)) (Desc.w r.d i) s)
          [1, 2, 3, 4, 7] s).bind fun _ s =>
          (op.give r.out (op.leave s0 s)).bind fun outs s =>
            .ok (outs ++ (r.pos.toList.map fun p => .scalar op.b p) ++ [.scalar 0 r.c0]) s

/-- A home executes an operation as one step (R277); until it can, the operation waits, or has read a pair of the pool. An
uncorrectable word leaves the map as it was (R379). -/
def State.mapRun (s : State) (g : Nat) (op : MapOp) : Option State :=
  let done (s : State) (ps : List Pend) : State :=
    let s := s.modCluster g fun x => { x with mapq := x.mapq.filter (·.wait != op.wait) }
    (s.unpin g fun p => p.holder == .mapOp op.wait).resolve op.h op.wait ps
  let keep (o : MapOp) : Option State :=
    if o == op then none
    else some (s.modCluster g fun x => { x with mapq := x.mapq.map fun q => if q.wait == op.wait then o else q })
  if s.scopeHeld op.h then none
  else
    match runMap op g s with
    | .ok ps s => some (done s ps)
    | .ecc va key => some (done ((s.countBad key).machineCheck 6 0 op.h op.desc va) [.scalar 0 (negOf 4)])
    | .busy w => keep { op with bank := w, pad := none }
    | .pad w => keep { op with bank := none, pad := some w }
    | .read true p => keep { op with pops := op.pops ++ [p] }
    | .read false p => keep { op with pushes := op.pushes ++ [p] }
    | .no => none

/-- MAP_HOME_EXECUTION (i = cluster): the home executes its oldest accepted operation that need not wait. A home holds one
operation of a shard at most, so one that waits holds up no other shard (R285). -/
def execMapHomeExecution (s : State) : Out :=
  let g := s.ev.i
  if Config.nClusters ≤ g then .fault .noSuchUnit
  else .next (((s.cluster g).mapq.findSome? (s.mapRun g)).getD s)

/-! ## Acceptance (R276) -/

/-- A page that the operation's own action can touch, with the rights of an atomic. One outside region 0x0 makes the
operation invalid (R273). -/
def mapPage (w : Who) (named va : Word) (s : State) : Look (Nat × Nat × Option (BitVec 12)) :=
  let invalid : Look (Nat × Nat × Option (BitVec 12)) := .trap Cause.mapDescriptor named s
  match access w .atomic va 1 1 s with
  | .ok p t => if isVault p.key then .ok (va.toNat / 65536, p.key / 65536, p.enc) t else invalid
  | .trap c a t =>
    match walkRoot s w va with
    | .leaf e _ level => if fld e 16 36 * 65536 + va.toNat % leafSize level < 2 ^ 48 then .trap c a t else invalid
    | _ => .trap c a t
  | .park r l a t => .park r l a t
  | .wait k t => .wait k t
  | .host st t => .host st t
  | .gone t => .gone t

/-- The pages of byte ranges, once each, but for the descriptor's page `own`. What is recorded of one that cannot be used is the base of
the 64 KiB page (DESIGN CHOICE: R276 names no address; log 35). -/
def mapPages (w : Who) (named : Word) (own : Nat) (ranges : List (Word × Nat)) (s : State) :
    Look (List (Nat × Nat × Option (BitVec 12))) :=
  let starts := ((ranges.flatMap fun r => (pieces 65536 r.1.toNat r.2).map (·.1 / 65536)).eraseDups).filter (· != own)
  Look.each (fun p s => mapPage w named (w64 (p * 65536)) s) starts s

/-- The words of a descriptor, with its page; none where they cannot be corrected, which is counted (R82, R379). -/
def descWords (named va : Word) (w : Who) (s : State) : Look (Option (Desc × Nat × Nat × Option (BitVec 12))) :=
  (mapPage w named va s).bind fun p s =>
    let a := p.2.1 * 65536 + va.toNat % 65536
    if !s.bankFree a (w.came a s.tick) then waitBank w a s
    else if s.eccBad a 64 then .ok none ((s.touch a 64).countBad a)
    else .ok (some (wordsOf (s.readBytes p.2.2 a 64) 8, p)) (s.touch a 64)

/-- The ranges that the operation's own action can touch, beside the descriptor. -/
def ownRanges (op : MapOp) (d : Desc) : List (Word × Nat) :=
  let hash := mapHash (Desc.seed d) op.key
  let tables := if Desc.growing d then [Desc.w d 2, Desc.w d 1] else [Desc.w d 1]
  match op.kind with
  | .probe | .ins | .ups | .rem => tables.flatMap fun t => (chainVas d t hash).map fun b => (b, Desc.bucket d)
  | .iter =>
    let pos := op.key.getD 0 0
    let t := fld pos 0 32
    let e := scanEnd d t
    if pos == BitVec.allOnes 64 || 2 ^ Desc.lgshards d ≤ fld pos 56 8 || Desc.growing d || e ≤ t then []
    else [(bucketVa d (Desc.table (Desc.w d 1)) (t / 4), (e / 4 - t / 4) * Desc.bucket d)]
  | _ => []

/-- The suffixes agree with the descriptor (R273). -/
def suffixOk (op : MapOp) (d : Desc) : Bool :=
  let vf := match Desc.vsz d with | 0 => 0 | 1 => 1 | _ => 2
  match op.kind with
  | .probe | .ins | .ups | .rem => op.k16 == Desc.ksz d && op.vf == vf
  | .iter => op.k16 == Desc.ksz d
  | _ => true

/-- The descriptor is valid for the operation (R273, R286). -/
def descOk (op : MapOp) (d0 d : Desc) : Bool :=
  let f := if op.kind == .init then ((d.set 2 0).set 4 0).set 7 0 else d
  let keyed := match op.kind with | .probe | .ins | .ups | .rem | .iter => true | _ => false
  Desc.wf f && (!keyed || (Desc.w d 0 == Desc.w d0 0 && Desc.shard d0 == 0 && suffixOk op d))

/-- The shard that an operation acts on, from the named descriptor. -/
def shardFor (op : MapOp) (d0 : Desc) : Nat :=
  match op.kind with
  | .probe | .ins | .ups | .rem => shardOf d0 (mapHash (Desc.seed d0) op.key)
  | .iter =>
    let p := op.key.getD 0 0
    if p == BitVec.allOnes 64 || 2 ^ Desc.lgshards d0 ≤ fld p 56 8 then 0 else fld p 56 8
  | _ => 0

/-- The cluster beneath a descriptor, to which an operation is sent; finding the way is no access to it. -/
def mapHome (w : Who) (named va : Word) (s : State) : Look Nat :=
  (mapPage w named va s).bind fun p t => .ok (vaultOf (p.2.1 * 65536)) { s with draws := t.draws }

/-- The shard's home, with the named descriptor and the address of the shard's (R276): the home of the named one computes the
shard; none where the named one cannot be corrected. It also refuses what it would forward where the named descriptor's own words
are invalid, and raises MAP_DESCRIPTOR_INVALID where the address of the other descriptor is not canonical (DESIGN CHOICE: R273 and
R276 do not say; log 35). -/
def mapShard (w : Who) (op : MapOp) (s : State) : Look (Option (Nat × Desc × Word)) :=
  (mapHome w op.named op.named s).bind fun g0 s =>
    let w0 := { w with unit := some g0 }
    (descWords op.named op.named w0 s).bind fun dp s =>
      match dp with
      | none => .ok none s
      | some (d0, _) =>
        let va := op.named + w64 (shardFor op d0 * 2 ^ Desc.lgstride d0)
        if !descOk op d0 d0 || !canonical va then .trap Cause.mapDescriptor op.named s
        else if va == op.named then .ok (some (g0, d0, va)) s
        else (mapHome w0 op.named va s).bind fun g s => .ok (some (g, d0, va)) s

/-- The bytes of ranges as they are, in translated pages. -/
def State.snapshot (s : State) (pages : List (Nat × Nat × Option (BitVec 12))) (ranges : List (Word × Nat)) :
    List (Nat × Option (BitVec 12) × List Byte) :=
  (ranges.flatMap fun r => pieces 65536 r.1.toNat r.2).filterMap fun x =>
    (pages.find? fun p => p.1 == x.1 / 65536).map fun p =>
      let a := p.2.1 * 65536 + x.1 % 65536
      (a, p.2.2, s.readBytes p.2.2 a x.2)

/-- Home `g` accepts the operation with its pages, or refuses it; none where the shard's descriptor cannot be corrected. -/
def acceptMap (w : Who) (op : MapOp) (g : Nat) (d0 : Desc) (va : Word) (s : State) : Look (Option MapOp) :=
  let w := { w with unit := some g }
  (descWords op.named va w s).bind fun dp s =>
    match dp with
    | none => .ok none s
    | some (d, p) =>
      if !descOk op d0 d then .trap Cause.mapDescriptor op.named s
      else
        (mapPages w op.named p.1 (ownRanges op d) s).bind fun ps s =>
          .ok (some { op with
            desc := va, words := d, pages := p :: ps, home := g, seen := s.snapshot (p :: ps) ((va, 64) :: ownRanges op d) }) s

/-- The location of an accepted operation's descriptor: its page comes first. -/
def MapOp.loc (op : MapOp) : Nat := ((op.pages.map (·.2.1)).headD 0) * 65536 + op.desc.toNat % 65536

/-- The buffer of .vp (R279). -/
def bufferOf (op : MapOp) (va : Word) (s : State) : Look (Option Nat) :=
  if op.vf != 2 then .ok none s
  else
    match classify op.h va with
    | .coord _ => (access (s.who op.h) .store va 64 64 s).bind fun p s => .ok (some p.key) s
    | _ => .trap Cause.space va s

/-- An issued operation that waits is not withdrawn (R289). -/
def Look.sent {α : Type} : Look α → Look α
  | .wait (.bank t p) s => .wait (.page t p) s
  | .wait _ s => .wait .kept s
  | x => x

/-- An accepted operation takes its place in the home's order, with its pins; a failed link loses the hart that waits for its
answer (R229). -/
def State.queueMap (s : State) (op : MapOp) : State :=
  let (id, s) := s.draw
  let s := (op.pages.map (·.2.1)).eraseDups.foldl (fun s p => s.pin op.home ⟨op.part, op.pspace, p, .mapOp id⟩) s
  let s := (s.modCluster op.home fun c => { c with mapq := c.mapq ++ [{ op with wait := id }] }).defer [.wait id]
  s.retire op.h s.cx.len s.cx.marker

/-- An operation whose descriptor, at `va`, cannot be corrected: the map is unchanged, and c0 is −4 (R379). -/
def mapSpoiled (op : MapOp) (va : Word) (s : State) : Out :=
  finish ((s.machineCheck 6 0 op.h va va).deferC0 (negOf 4))

/-- What the home decides of an operation that has been sent to it. While an earlier operation on the shard is under way, or
its pin table is full, it has not decided yet. -/
def sendMap (op : MapOp) (g : Nat) (d0 : Desc) (va : Word) (s : State) : Out :=
  let h := op.h
  let look := acceptMap (s.who h) op g d0 va s
  let gate := s.pinGate g (s.who h) look fun o => match o with | some o => (o.pages.map (·.2.1)).eraseDups | none => []
  let busy := match look with | .ok (some o) _ => (s.cluster g).mapq.any fun q => q.loc == o.loc | _ => false
  if (s.requestCut h (g * 2 ^ 32)).isSome then .next (s.lose h op.named s.me.pc true)
  else if !gate || busy then holdAt .kept s
  else
    look.sent.out .atomic fun o s =>
      match o with
      | none => mapSpoiled op va s
      | some op =>
        if (s.replyCut h (g * 2 ^ 32)).isSome then .next ((s.queueMap op).lose h op.named s.me.pc false) else .next (s.queueMap op)

/-- A map instruction: the issuer's checks, its release (R136), the home's acceptance (R276, R279). -/
def issueMap (op : MapOp) (bufVa : Word) (s : State) : Out :=
  let h := s.cx.hart
  let x := s.me
  let op := { op with h := h, ptroot := x.t.ptroot, pspace := x.t.pspace, part := x.part, mode := x.mode }
  if op.named.toNat % 64 != 0 then trap Cause.misaligned op.named s
  else if !canonical op.named then trap Cause.space op.named s
  else
    (bufferOf op bufVa s).out .atomic fun buf s =>
      let op := { op with buf := buf }
      drained s fun s =>
        (mapShard (s.who h) op s).sent.out .atomic fun r s =>
          match r with
          | none => mapSpoiled op op.named s
          | some (g, d0, va) => sendMap op g d0 va s

/-! ## The instructions (R278) -/

def pairWords (s : State) (two : Bool) (r : RegNo) : List Word := if two then [s.rd r, s.rd (r + 1)] else [s.rd r]

/-- A keyed operation. -/
def keyedMap (kind : MapKind) (takes : Bool) (o : MapKey) (s : State) : Out :=
  let val := if takes && o.vf != 2 then pairWords s (o.vf == 1) o.d else []
  issueMap
    { kind := kind, k16 := o.k16, vf := o.vf.toNat, d := o.d.toNat, named := s.rd o.a + o.off
      key := pairWords s o.k16 o.b, val := val } (s.rd o.d) s
def descMap (kind : MapKind) (n : Nat) (d : Nat) (o : MapAddr) (s : State) : Out :=
  issueMap { kind := kind, n := n, d := d, named := s.rd o.a + o.off } 0 s

def execMprobe (o : MapKey) (s : State) : Out := keyedMap .probe false o s
def execMins (o : MapKey) (s : State) : Out := keyedMap .ins true o s
def execMups (o : MapKey) (s : State) : Out := keyedMap .ups true o s
def execMrem (o : MapKey) (s : State) : Out := keyedMap .rem false o s
def execMinit (o : MapAddr) (s : State) : Out := descMap .init 0 0 o s
def execMgrow (o : MapAddr) (s : State) : Out := descMap .grow 0 0 o s
def execMstep (o : MapStep) (s : State) : Out :=
  let n := match o.b with | some b => min (s.rd b).toNat 64 | none => 1
  issueMap { kind := .step, n := n, named := s.rd o.a + o.off } 0 s
def execMstat (d : RegNo) (o : MapAddr) (s : State) : Out := descMap .stat 0 d.toNat o s
def execMiter (o : MapKey) (s : State) : Out :=
  issueMap
    { kind := .iter, k16 := o.k16, d := o.d.toNat, b := o.b.toNat, named := s.rd o.a + o.off, key := [s.rd o.b] } 0 s

end Sys2Proof.Machine
end

