-- ==== Sys2Proof/Machine/Memory.lean ====
section
/-! DEFINITION. Scalar loads and stores, bit-granular access, atomics, prefetch, fences and the waits on memory
(spec/10 R225 to R239, spec/09 R222). -/

namespace Sys2Proof.Machine

/-! ## Loads and stores (R227) -/

/-- A load of `n` bytes whose value gives deferred writes. -/
def loadScalar (n : Nat) (f : Nat → List Pend) (o : MemOp) (s : State) : Out :=
  (loadBytes s.cx.hart (s.ea o.a o.off) n n (acqScope o.ord o.sc) s).out .load fun bs s => finish (s.defer (f (ofBytes bs)))

/-- A store of the low `n` bytes of a value. -/
def storeScalar (n : Nat) (v : Nat) (o : MemOp) (s : State) : Out :=
  let ea := s.ea o.a o.off
  (checked s.cx.hart .store ea n n s).out .store fun p s =>
    finish (s.buffer s.cx.hart (s.entries s.cx.hart p (toBytes n v) (relScope o.ord o.sc) ea))

def loadS (n : Nat) (o : MemOp) (s : State) : Out := loadScalar n (fun v => [.scalar o.d.toNat (sextBytes n v)]) o s
def loadZ (n : Nat) (o : MemOp) (s : State) : Out := loadScalar n (fun v => [.scalar o.d.toNat (w64 v)]) o s

def execLd1s (o : MemOp) (s : State) : Out := loadS 1 o s
def execLd1n (o : MemOp) (s : State) : Out := loadZ 1 o s
def execLd2s (o : MemOp) (s : State) : Out := loadS 2 o s
def execLd2n (o : MemOp) (s : State) : Out := loadZ 2 o s
def execLd4s (o : MemOp) (s : State) : Out := loadS 4 o s
def execLd4n (o : MemOp) (s : State) : Out := loadZ 4 o s
def execLd8 (o : MemOp) (s : State) : Out := loadZ 8 o s
def execLd16 (o : MemOp) (s : State) : Out := loadScalar 16 (pairPend o.d) o s
def execSt1 (o : MemOp) (s : State) : Out := storeScalar 1 (s.rd o.d).toNat o s
def execSt2 (o : MemOp) (s : State) : Out := storeScalar 2 (s.rd o.d).toNat o s
def execSt4 (o : MemOp) (s : State) : Out := storeScalar 4 (s.rd o.d).toNat o s
def execSt8 (o : MemOp) (s : State) : Out := storeScalar 8 (s.rd o.d).toNat o s
def execSt16 (o : MemOp) (s : State) : Out := storeScalar 16 (s.pair o.d) o s

/-! ## Bit-granular access (R230, R231) -/

/-- The width of a bit access: 0 stands for 64. -/
def bitW (v : Word) : Nat := if v.toNat % 64 == 0 then 64 else v.toNat % 64

/-- The place of bits p to p + w - 1 of the own scratchpad: location key and number of bytes. -/
def bitPlace (h p w : Nat) : Nat × Nat := (spadLoc (coreOf h) (p / 8), (p + w - 1) / 8 - p / 8 + 1)

/-- A bit access at BITP, refused in the hole and for an uncorrectable word (R46, R422). -/
def bitAccess (w : Nat) (s : State) (k : Nat → State → Out) : Out :=
  let p := s.me.u.bitp.toNat
  if 0xBFFFF < p + w - 1 then trap Cause.straddle (w64 p) s else k p s

def State.setBitp (s : State) (p : Nat) : State := s.modMe fun x => { x with u := { x.u with bitp := BitVec.ofNat 20 p } }

/-- The own scratchpad's place in the form an access gives. -/
def ownPlace (key : Nat) (vec : Bool := false) : Place := { key := key, vec := vec }

/-- Bits p to p + w - 1 as the hart reads them. -/
def readBits (vec : Bool) (h p w : Nat) (acq : Nat) (s : State) : Look Nat :=
  let (key, n) := bitPlace h p w
  (readPlace h (ownPlace key vec) n acq (w64 p) s).bind fun bs s => .ok (ofBytes bs / 2 ^ (p % 8) % 2 ^ w) s

def execLdbt (o : BitOp) (s : State) : Out :=
  let w := bitW (s.rv o.w)
  bitAccess w s fun p s =>
    (readBits false s.cx.hart p w (acqScope o.ord o.sc) s).out .load fun v s => finish ((s.setBitp (p + w)).deferReg o.d (w64 v))
def execStbt (o : BitOp) (s : State) : Out :=
  let w := bitW (s.rv o.w)
  bitAccess w s fun p s =>
    let (key, n) := bitPlace s.cx.hart p w
    let e : StoreEnt :=
      { base := key, sc := relScope o.ord o.sc, va := w64 p, pc := s.me.pc, mode := s.me.mode, born := s.steps
        bytes := toBytes n ((s.rd o.d).toNat % 2 ^ w * 2 ^ (p % 8)), mask := toBytes n ((2 ^ w - 1) * 2 ^ (p % 8)) }
    finish ((s.buffer s.cx.hart [e]).setBitp (p + w))
def execSetbp (o : SetBp) (s : State) : Out :=
  let old := s.me.u.bitp
  finish ((s.setBitp (s.rd o.a + o.imm).toNat).deferReg o.d (old.setWidth 64))

/-! ## Atomics (R232 to R236) -/

/-- The address and operand of an atomic: without PB the operand is D (R232). -/
def State.amoArgs (s : State) (o : AmoOp) : Word × Word :=
  (s.rd o.a + o.off, match o.v with | some b => s.rd b | none => s.rd o.d)

/-- A read-modify-write of 8 bytes that returns the old value (R233). -/
def amo (hostOk : Bool) (f : Word → Word → Word) (o : AmoOp) (s : State) : Out :=
  let (ea, v) := s.amoArgs o
  (rmw s.cx.hart ea 8 o.ord o.sc hostOk (fun bs => some (toBytes 8 (f (w64 (ofBytes bs)) v).toNat)) s).out .atomic
    fun bs s => finish (s.deferReg o.d (w64 (ofBytes bs)))

def execAmoadd (o : AmoOp) (s : State) : Out := amo true (fun x v => x + v) o s
def execAmoand (o : AmoOp) (s : State) : Out := amo false (fun x v => x &&& v) o s
def execAmoor (o : AmoOp) (s : State) : Out := amo false (fun x v => x ||| v) o s
def execAmoxor (o : AmoOp) (s : State) : Out := amo false (fun x v => x ^^^ v) o s
def execAmomin (o : AmoOp) (s : State) : Out := amo false (fun x v => if v.slt x then v else x) o s
def execAmomax (o : AmoOp) (s : State) : Out := amo false (fun x v => if x.slt v then v else x) o s
def execAmominn (o : AmoOp) (s : State) : Out := amo false (fun x v => if v.ult x then v else x) o s
def execAmomaxn (o : AmoOp) (s : State) : Out := amo false (fun x v => if x.ult v then v else x) o s
def execAmoswap (o : AmoOp) (s : State) : Out := amo true (fun _ v => v) o s

/-- Compare and swap of `n` bytes: success in c0, the old value in D (R234). -/
def casN (n : Nat) (want new : Nat) (old : Nat → List Pend) (o : CasOp) (s : State) : Out :=
  (rmw s.cx.hart (s.rd o.a) n o.ord o.sc true (fun bs => if ofBytes bs == want then some (toBytes n new) else none) s).out
    .atomic fun bs s =>
      finish (s.defer (.scalar 0 (b2w (ofBytes bs == want)) :: old (ofBytes bs)))

def execCas (o : CasOp) (s : State) : Out :=
  casN 8 (s.rd o.d).toNat (s.rd o.b).toNat (fun v => [.scalar o.d.toNat (w64 v)]) o s
def execCasq (o : CasOp) (s : State) : Out := casN 16 (s.pair o.d) (s.pair o.b) (pairPend o.d) o s

/-- The home of a counter, for its trigger queue of 8 (R235). -/
def homeOf (key : Nat) : Nat := if isSpad key then padCore key else Config.nCores + vaultOf key

/-- The trigger message of a zeroed counter, sent from its home (R235, R358): a header for another package, or one that SEND
would refuse, is diverted. -/
def State.sendTrigger (s : State) (h key : Nat) (trig ea : Word) : State :=
  let hdr := withLen (trig &&& ~~~(0x1F_FFFF : Word)) 1
  let l := (s.hart h).launch
  let cnt := s.counted l hdr
  let m : Msg :=
    { hdr := hdr, pay := [ea], origin := 3, sender := BitVec.ofNat 15 h, via := 1, home := homeOf key, counts := cnt
      die := some (homeDie key), qcore := coreOf h, launch := l, part := (s.hart h).part }
  let s := if cnt then s.qAdd (coreOf h) l 1 else s
  if Hdr.pkg hdr != s.pkgnum.toNat then s.divertTo m 3 m.part
  else s.deviceSend m

/-- The trigger queue of a counter's home is full (R235). -/
def State.triggersFull (s : State) (key : Nat) : Bool :=
  decide (8 ≤ (s.net.filter fun m => m.via == 1 && m.home == homeOf key).length)

/-- AADDZ (R235): the counter and its trigger word are one 16-byte unit; a zeroing one waits while its home's trigger
queue is full. A trigger leaves the queue when its message has been admitted or diverted (DESIGN CHOICE: the spec does not say
when it does; log 35). -/
def execAaddz (o : AmoOp) (s : State) : Out :=
  let (ea, v) := s.amoArgs o
  let h := s.cx.hart
  let new (bs : List Byte) : Word := w64 (ofBytes (bs.take 8)) + v
  (checked h .atomic ea 16 16 s).out .atomic fun p s1 =>
    if isHost p.key then trap Cause.permission ea s
    else
      (rmwAt h p ea 16 o.ord o.sc (fun bs => some (toBytes 8 (new bs).toNat ++ bs.drop 8))
        { full := fun bs s => new bs == 0 && s.triggersFull p.key
          post := fun bs s => if new bs == 0 then s.sendTrigger h p.key (w64 (ofBytes (bs.drop 8))) ea else s } s1).out .atomic
        fun bs s => finish (s.deferReg o.d (w64 (ofBytes (bs.take 8))))

/-! ## Prefetch and fences (R237 to R239) -/

/-- PREF fills the translation caches, performs no event and counts none (R237); every check that fails makes it a no-op. -/
def execPref (o : PrefOp) (s : State) : Out :=
  let va := s.rd o.a + o.off
  let w := s.who s.cx.hart
  if classify w.h va != .g || !s.boot.full then finish s
  else
    match translate w va s with
    | .ok (e, _, level) t =>
      (match t.physical w .load va e (fld e 16 36 * 65536 + va.toNat % leafSize level) 1 with
      | .ok _ t => finish t
      | _ => finish s)
    | _ => finish s

/-- A fence completes when its edges are satisfied (R128, R238): the stores before it have been performed, or are ordered for
the agents of its scope. -/
def fence (sc : ScopeCode) (s : State) : Out := serial s fun s => orderedIn sc.toNat s serialDone

def execFenceFull (sc : ScopeCode) (s : State) : Out := fence sc s
/-- Reads are performed in program order, so an acquire fence has no store to wait for (log 5). -/
def execFenceAcq (_sc : ScopeCode) (s : State) : Out := serial s serialDone
def execFenceRel (sc : ScopeCode) (s : State) : Out := fence sc s

/-- A copy transfer of hart `h` has not ended, or an array command of it is queued (R133, R238). -/
def State.enginesBusy (s : State) (h : Nat) : Bool :=
  ((s.core (coreOf h)).xfers.any fun kt => kt.2.live && kt.2.issuer == h)
    || ((List.range 4).any fun g => (s.group (clusterOf h * 4 + g)).cmds.any fun c => c.h == h)
/-- FENCE.eng also waits until the hart's earlier transfers and array commands complete (R238). -/
def execFenceEng (sc : ScopeCode) (s : State) : Out :=
  serial s fun s =>
    if s.enginesBusy s.cx.hart then holdAt .engines s else orderedIn sc.toNat s serialDone

/-- SYNCF waits for the hart's stores; what the hart has fetched is then read afresh (R146, R239). -/
def execSyncf (s : State) : Out :=
  serial s fun s => drained s fun s => serialDone (s.modMe fun x => { x with icache := [] })

/-! ## WAITPH (R222) -/

def execWaitph (o : WaitPh) (s : State) : Out :=
  (loadBytes s.cx.hart (s.rd o.a) 8 16 0 s).out .load fun bs s =>
    let w := w64 (ofBytes bs)
    if bit w 63 == o.p then finish (s.deferReg o.d w)
    else holdAt .waitph s

end Sys2Proof.Machine
end

