-- ==== Sys2Proof/Machine/Scalar.lean ====
section
/-! DEFINITION. Page-0 arithmetic, logic, bit operations, moves and coordinate builders (spec/09 R192 to R200), and ILL. -/

namespace Sys2Proof.Machine

/-! ## The functions -/

/-- Division (R194): a divisor of zero gives all ones; it truncates toward zero and wraps. -/
def divS (x y : Word) : Word := if y == 0 then BitVec.allOnes 64 else BitVec.ofInt 64 (x.toInt.tdiv y.toInt)
def divU (x y : Word) : Word := if y == 0 then BitVec.allOnes 64 else w64 (x.toNat / y.toNat)
def remS (x y : Word) : Word := if y == 0 then x else BitVec.ofInt 64 (x.toInt.tmod y.toInt)
def remU (x y : Word) : Word := if y == 0 then x else w64 (x.toNat % y.toNat)
/-- The high halves of products (R193). -/
def mulHighS (x y : Word) : Word := BitVec.ofInt 64 (x.toInt * y.toInt / 2 ^ 64)
def mulHighU (x y : Word) : Word := w64 (x.toNat * y.toNat / 2 ^ 64)
/-- A shift or rotate uses y & 63 (R193). -/
def sh (y : Word) : Nat := y.toNat % 64

/-- Leading zeros, trailing zeros and ones of the low `n` bits (R195). -/
def clzN (x : Nat) : Nat → Nat
  | 0 => 0
  | n + 1 => if x.testBit n then 0 else clzN x n + 1
def ctzN (x : Nat) : Nat → Nat
  | 0 => 0
  | n + 1 => if x % 2 == 1 then 0 else ctzN (x / 2) n + 1
def popN (x : Nat) : Nat → Nat
  | 0 => 0
  | n + 1 => x % 2 + popN (x / 2) n
def bswap (x : Word) : Word := w64 (ofBytes (toBytes 8 x.toNat).reverse)

/-- SEXT and ZEXT keep bits b to 0, b = y & 63 (R196). -/
def zextTo (x y : Word) : Word := w64 (x.toNat % 2 ^ (sh y + 1))
def sextTo (x y : Word) : Word :=
  let b := sh y
  let v := x.toNat % 2 ^ (b + 1)
  if v.testBit b then w64 (2 ^ 64 - 2 ^ (b + 1) + v) else w64 v
/-- BFX and BFI: position y[5:0], length y[11:6] + 1 (R196). -/
def fieldMask (y : Word) : Word := w64 (2 ^ (fld y 6 6 + 1) - 1)
def bfx (x y : Word) : Word := (x >>> fld y 0 6) &&& fieldMask y
def bfi (d x y : Word) : Word :=
  (d &&& ~~~(fieldMask y <<< fld y 0 6)) ||| ((x &&& fieldMask y) <<< fld y 0 6)

/-- The carry-less product of two `n`-bit numbers (R197). -/
def clmul (x y : Nat) : Nat → Nat
  | 0 => 0
  | n + 1 => clmul x y n ^^^ (if y.testBit n then x * 2 ^ n else 0)

/-- CRD of hart `h` (R199). -/
def crd (h : Nat) (x y : Word) : Word :=
  let top := fld x 56 8
  if (top == 0xA0 || top == 0xA1) && fld x 30 26 == 0 then
    let a := if top == 0xA1 then 0xA0 * 2 ^ 56 + resolveRel h x else x.toNat
    w64 (a / 2 ^ 17 * 2 ^ 17 + (a % 2 ^ 17 + y.toNat) % 2 ^ 17)
  else x + y
/-- SELF of hart `h` (R200). -/
def selfAddr (h : Nat) (x y : Word) : Word := spadVa (coreOf h) ((x + y).toNat % 2 ^ 17)

/-! ## The instructions -/

def execIll (s : State) : Out := illegal s
def execMov (o : RR) (s : State) : Out := unFixed id o s
def execMovi (o : MovI) (s : State) : Out := finish (s.fixed o.d o.imm)
def execAdd (o : Alu) (s : State) : Out := aluFixed (fun x y => x + y) o s
def execSub (o : Alu) (s : State) : Out := aluFixed (fun x y => x - y) o s
def execAnd (o : Alu) (s : State) : Out := aluFixed (fun x y => x &&& y) o s
def execOr (o : Alu) (s : State) : Out := aluFixed (fun x y => x ||| y) o s
def execXor (o : Alu) (s : State) : Out := aluFixed (fun x y => x ^^^ y) o s
def execAndn (o : Alu) (s : State) : Out := aluFixed (fun x y => x &&& ~~~y) o s
def execShl (o : Alu) (s : State) : Out := aluFixed (fun x y => x <<< sh y) o s
def execShr (o : Alu) (s : State) : Out := aluFixed (fun x y => x >>> sh y) o s
def execSar (o : Alu) (s : State) : Out := aluFixed (fun x y => x.sshiftRight (sh y)) o s
def execRol (o : Alu) (s : State) : Out := aluFixed (fun x y => x.rotateLeft (sh y)) o s
def execMul (o : Alu) (s : State) : Out := aluDefer (fun x y => x * y) o s
def execMulh (o : Alu) (s : State) : Out := aluDefer mulHighS o s
def execMulhn (o : Alu) (s : State) : Out := aluDefer mulHighU o s
def execDiv (o : Alu) (s : State) : Out := aluDefer divS o s
def execDivn (o : Alu) (s : State) : Out := aluDefer divU o s
def execRem (o : Alu) (s : State) : Out := aluDefer remS o s
def execRemn (o : Alu) (s : State) : Out := aluDefer remU o s
def execMin (o : Alu) (s : State) : Out := aluFixed (fun x y => if y.slt x then y else x) o s
def execMax (o : Alu) (s : State) : Out := aluFixed (fun x y => if x.slt y then y else x) o s
def execMinn (o : Alu) (s : State) : Out := aluFixed (fun x y => if y.ult x then y else x) o s
def execMaxn (o : Alu) (s : State) : Out := aluFixed (fun x y => if x.ult y then y else x) o s
def execSlt (o : Alu) (s : State) : Out := aluFixed (fun x y => b2w (x.slt y)) o s
def execSltn (o : Alu) (s : State) : Out := aluFixed (fun x y => b2w (x.ult y)) o s
def execSeq (o : Alu) (s : State) : Out := aluFixed (fun x y => b2w (x == y)) o s
/-- SEL tests c0 as a member of the span reads it (R193). -/
def execSel (o : Alu) (s : State) : Out := aluFixed (fun x y => if s.rd 0 != 0 then x else y) o s
def execClz (o : RR) (s : State) : Out := unFixed (fun x => w64 (clzN x.toNat 64)) o s
def execCtz (o : RR) (s : State) : Out := unFixed (fun x => w64 (ctzN x.toNat 64)) o s
def execPopc (o : RR) (s : State) : Out := unFixed (fun x => w64 (popN x.toNat 64)) o s
def execBswap (o : RR) (s : State) : Out := unFixed bswap o s
def execSext (o : Alu) (s : State) : Out := aluFixed sextTo o s
def execZext (o : Alu) (s : State) : Out := aluFixed zextTo o s
def execBfx (o : Alu) (s : State) : Out := aluFixed bfx o s
/-- BFI reads D as its container (R196). -/
def execBfi (o : Alu) (s : State) : Out := aluFixed (bfi (s.rd o.d)) o s
def execCrd (o : Alu) (s : State) : Out := aluFixed (crd s.cx.hart) o s
def execSelf (o : SelfOp) (s : State) : Out :=
  let v := match o.imm with
    | some v => selfAddr s.cx.hart (s.rd o.a) v
    | none => selfAddr s.cx.hart (s.rd o.d) (s.rd o.a)
  finish (s.fixed o.d v)
def execClmul (o : Alu) (s : State) : Out := aluDefer (fun x y => w64 (clmul x.toNat y.toNat 64)) o s
def execClmulh (o : Alu) (s : State) : Out := aluDefer (fun x y => w64 (clmul x.toNat y.toNat 64 / 2 ^ 64)) o s

end Sys2Proof.Machine
end

