-- ==== Sys2Proof/Machine/Select.lean ====
section
/-! DEFINITION. Top-k selection, the random generator, stochastic pruning and codebook expansion (spec/12 R261 to R265). -/

namespace Sys2Proof.Machine

/-! ## VTOPK (R261) -/

/-- The rank key of a lane: floats by value with NaNs below −∞. -/
def topKey (t : TypeCode) (x : Nat) : Int :=
  if WF.isFloat t then if ((fmtOf t).read x).isNan then -2 ^ 70 else valueKey (fmtOf t) x else laneInt t x

/-- Insertion behind every entry whose key is at least as large: larger keys first, equal keys by lane. -/
def rankInsert (key : Nat → Int) (c : Nat × Nat) : List (Nat × Nat) → List (Nat × Nat)
  | [] => [c]
  | d :: ds => if key d.2 < key c.2 then c :: d :: ds else d :: rankInsert key c ds
/-- Candidates (lane, pattern) in rank order. -/
def ranked (key : Nat → Int) (cs : List (Nat × Nat)) : List (Nat × Nat) := cs.foldl (fun r c => rankInsert key c r) []

def isZeroLane (t : TypeCode) (x : Nat) : Bool :=
  if WF.isFloat t then x % 2 ^ ((fmtOf t).eb + (fmtOf t).fb) == 0 else x == 0
/-- −∞, or the smallest value of an integer type. -/
def lowest (t : TypeCode) : Nat :=
  if WF.isFloat t then (fmtOf t).sign true + (fmtOf t).inf else wrapInt (WF.width t) (tyMin t)

def execVtopk (o : VTopk) (s : State) : Out :=
  vsrcs [o.a] s fun vs s =>
    vdst o.d s fun put s =>
      vdst (o.d + 1) s fun put1 s =>
        let w := WF.width o.t
        let e := lanesOf o.t
        let k := o.k.toNat
        let cand := ((List.range e).map fun i => (i, lane w (vs.getD 0 0) i)).filter fun c =>
          s.active o.m c.1 && !(o.nz && isZeroLane o.t c.2)
        let top := (ranked (topKey o.t) cand).take k
        let fill := List.replicate (k - top.length) (0xFFFF_FFFF, lowest o.t)
        let all := top ++ fill
        vfinish [o.a] [put (packLanes w (all.map (·.2))), put1 (packLanes 32 (all.map (·.1))),
          .scalar 0 (w64 top.length)] s

/-! ## The generator (R262, R263) -/

/-- One step from (RNGLO, RNGHI): the output and the new state. -/
def rngStep (lo hi : Word) : Word × Word × Word :=
  let s1 := if lo == 0 && hi == 0 then (0x9E37_79B9_7F4A_7C15 : Word) else lo
  let s1 := s1 ^^^ (s1 <<< 23)
  let n := s1 ^^^ hi ^^^ (s1 >>> 17) ^^^ (hi >>> 26)
  (n + hi, hi, n)
def State.rng (s : State) : Word × State :=
  let (out, lo, hi) := rngStep s.me.u.rnglo s.me.u.rnghi
  (out, s.modMe fun x => { x with u := { x.u with rnglo := lo, rnghi := hi } })

/-- Outputs for the active lanes, in order. -/
def rngLanes : List Bool → State → List Nat × State
  | [], s => ([], s)
  | true :: t, s =>
    let (x, s) := s.rng
    let (xs, s) := rngLanes t s
    (x.toNat :: xs, s)
  | false :: t, s =>
    let (xs, s) := rngLanes t s
    (0 :: xs, s)

def execVrng (m : BitVec 3) (d : RegNo) (s : State) : Out :=
  vdst d s fun put s =>
    let (xs, t) := rngLanes ((List.range 8).map fun i => s.active m i) s
    vfinish [] [put (s.merge 64 m d xs)] t

/-! ## VPRUNE (R264) -/

/-- |x| in units of the smallest magnitude of the type; none for a NaN or an infinity. -/
def magnitude (t : TypeCode) (x : Nat) : Option Nat :=
  if WF.isFloat t then
    match (fmtOf t).read x with
    | .fin _ m e => some (m * 2 ^ (e - (fmtOf t).emin).toNat)
    | _ => none
  else some (laneInt t x).natAbs

/-- NaNs and infinities are kept first: kept lanes and the number still to keep. -/
def keepSpecial (mags : List (Option Nat)) : List Nat × Nat → List Nat → List Nat × Nat
  | r, [] => r
  | (k, n), j :: js =>
    keepSpecial mags (if n != 0 && (mags.getD j none).isNone then (k ++ [j], n - 1) else (k, n)) js

/-- Lanes of the group that are not kept yet, and the exact sum of their magnitudes. -/
def restOf (k : List Nat) : List Nat := (List.range 4).filter fun j => !k.contains j
def restSum (mags : List (Option Nat)) (k : List Nat) : Nat := ((restOf k).map fun j => (mags.getD j none).getD 0).sum

/-- Certain keeps: the lowest lane with n' × |A_j| ≥ T', again and again. -/
def keepCertain (mags : List (Option Nat)) : Nat → List Nat × Nat → List Nat × Nat
  | 0, r => r
  | fuel + 1, (k, n) =>
    if n == 0 then (k, n)
    else
      match (restOf k).find? fun j => restSum mags k ≤ n * (mags.getD j none).getD 0 with
      | none => (k, n)
      | some j => keepCertain mags fuel (k ++ [j], n - 1)

/-- The systematic step with U = u / 2^24 over the lanes left: those whose interval holds some U + m. -/
def systematic (mags : List (Option Nat)) (n total u : Nat) : Nat → List Nat → List Nat
  | _, [] => []
  | lo, j :: js =>
    let hi := lo + n * (mags.getD j none).getD 0
    let hit := (List.range n).any fun m =>
      decide (lo * 2 ^ 24 ≤ (u + m * 2 ^ 24) * total) && decide ((u + m * 2 ^ 24) * total < hi * 2 ^ 24)
    if hit then j :: systematic mags n total u hi js else systematic mags n total u hi js

/-- The kept lanes of a group that keeps `n`. -/
def pruneGroup (mags : List (Option Nat)) (n : Nat) (s : State) : List Nat × State :=
  let (k, r) := keepCertain mags 4 (keepSpecial mags ([], n) [0, 1, 2, 3])
  if r == 0 then (k, s)
  else
    let (out, s) := s.rng
    (k ++ systematic mags r (restSum mags k) (fld out 40 24) 0 (restOf k), s)

/-- The kept lanes of every group that has an active lane, in ascending order. -/
def pruneAll (t : TypeCode) (n : Nat) (v : VWord) (m : BitVec 3) : List Nat → State → List Nat × State
  | [], s => ([], s)
  | g :: gs, s =>
    if (List.range 4).any fun j => s.active m (4 * g + j) then
      let mags := (List.range 4).map fun j => magnitude t (lane (WF.width t) v (4 * g + j))
      let (k, s) := pruneGroup mags n s
      let (ks, s) := pruneAll t n v m gs s
      (k.map (4 * g + ·) ++ ks, s)
    else pruneAll t n v m gs s

/-- VPRUNE: a group that is skipped has no bit of m0 set (DESIGN CHOICE, log 35: R264 does not say what becomes of them). -/
def execVprune (o : VUn) (s : State) : Out :=
  vsrcs [o.a] s fun vs s =>
    vdst o.d s fun put s =>
      let w := WF.width o.t
      let v := vs.getD 0 0
      let (kept, t) := pruneAll o.t (if o.var then 1 else 2) v o.m (List.range (lanesOf o.t / 4)) s
      let new := (List.range (lanesOf o.t)).map fun i => if kept.contains i then lane w v i else 0
      let m0 := (List.range (lanesOf o.t)).map fun i => b2n (s.active o.m i && kept.contains i)
      vfinish [o.a] [put (s.merge w o.m o.d new), .mask 0 (w64 (packNat 1 m0))] t

/-! ## VCBEXP (R265) -/

/-- The registers that hold the codebook. -/
def cbRegs (t : TypeCode) (b : RegNo) : List RegNo := if t == 12 then [b] else [b, b + 1]
/-- The entry that position p of the index register selects; a c6 register ends at position 84. -/
def cbEntry (t : TypeCode) (idx : VWord) (book : List VWord) (p : Nat) : Nat :=
  if t == 13 && 85 ≤ p then 0
  else
    let e := lane (WF.width t) idx p
    lane 16 (book.getD (e / 32) 0) (e % 32)

def execVcbexp (o : VCbexp) (s : State) : Out :=
  let srcs := o.a :: cbRegs o.t o.b
  vsrcs srcs s fun vs s =>
    vdst o.d s fun put s =>
      let new := (List.range 32).map fun i => cbEntry o.t (vs.getD 0 0) (vs.drop 1) (o.j.toNat + i)
      vfinish srcs [put (s.merge 16 o.m o.d new)] s

end Sys2Proof.Machine
end

