-- ==== Sys2Proof/Machine/Swap.lean ====
section
/-! DEFINITION. Partition swap: the save into the shadow regions and the return from them (spec/04 R88, R90, spec/21 R375 to
R377). The command itself is a write of PSWAP (Machine/Registers.lean). -/

namespace Sys2Proof.Machine

/-- The message of PSWMSG at the end of a command (R375). -/
def State.swapMessage (s : State) (p : Nat) : State :=
  let x := s.part p
  if x.pswmsg == 0 then s
  else s.deviceSend { hdr := withLen x.pswmsg 1, pay := [pswapWord x], origin := 3 }

/-- The harts of a partition that are not Free. -/
def State.partHarts (s : State) (p : Nat) : List Nat :=
  (s.harts.filter fun kx => kx.2.part == some p && kx.2.st != .free).map (·.1)

/-- Every hart is at a boundary, no engine works for the partition, and no notice is in the queue of a map home of its (R289,
R376). -/
def State.swapReady (s : State) (p : Nat) : Bool :=
  let x := s.part p
  (s.partHarts p).all (fun h => (s.hart h).st == .saved || ((s.hart h).boundary && !(s.hart h).frozen))
    && s.groups.all (fun kg => !x.holds (kg.1 / 4) || kg.2.cmds == [])
    && s.clusters.all (fun kc => kc.2.mapq.all fun m => m.part != some p)
    && s.net.zipIdx.all fun mi => !(s.noticeQueued mi.2 mi.1 && x.holds mi.1.home)

/-- The hart is taken and drained (R369, R376); none while a store of it has to wait. -/
def State.swapTake (s : State) (h : Nat) : Option State :=
  if (s.hart h).st == .saved then some s
  else (((s.take h).unwait h true).suspendXfers h).flushStreams h

/-- A row slot as it returns from a swap (R90). -/
def RowSlot.afterSwap (x : RowSlot) (now : Nat) : RowSlot :=
  match x.at now with
  | .free => { va := x.va }
  | .taken => { x with holds := false, latchOk := true }
  | _ => { x with st := .expired, holds := false, want := none }

def Group.afterSwap (g : Group) (now : Nat) : Group :=
  { g with slots := g.slots.map fun kx => (kx.1, kx.2.afterSwap now) }

/-- The state of a partition's clusters moves to the shadow regions, and is cleared (R376). -/
def State.stash (s : State) (p : Nat) : State :=
  let x := s.part p
  let mine (g : Nat) : Bool := x.holds g
  let img : Swapped :=
    { harts := s.harts.filter fun kx => kx.2.part == some p
      cores := s.cores.filter fun kc => mine (kc.1 / 64)
      groups := (s.groups.filter fun kg => mine (kg.1 / 4)).map fun kg => (kg.1, kg.2.afterSwap s.tick)
      spad := s.mem.filter fun c => isSpad c.1 && mine (coreOfBits (c.1 - Config.spadKey) / 64)
      pins := (s.clusters.filter fun kc => mine kc.1).map fun kc =>
        (kc.1, kc.2.pins.filter fun q => match q.holder with | .mailbox .. => q.part == some p | _ => false)
      rows := x.clusters.map fun g => (g, s.shadowKey g) }
  let s := (s.groups.filter fun kg => mine (kg.1 / 4)).foldl (fun s kg =>
    kg.2.slots.foldl (fun s kx => s.closeSlot kg.1 kx.1) s) s
  let (n, s) := s.draw
  let s := { s with badCodewords := s.badCodewords.filter fun w => !(isVault (1024 * w) && mine (vaultOf (1024 * w)) && s.isShadow (1024 * w)) }
  let s := x.clusters.foldl (fun s g =>
    (s.wipeCluster g).modCluster g fun c => { c with
      shadowed := some n, shadowOver := []
      pins := c.pins.filter fun q => match q.holder with | .mailbox .. => q.part != some p | _ => true }) s
  let s := { s with
    harts := s.harts.filter fun kx => kx.2.part != some p
    cores := s.cores.filter fun kc => !mine (kc.1 / 64) }
  s.modPart p fun y => { y with swapped := img, swSt := .out }

/-! ## The shadow rows (R75, R88) -/

/-- The r-th row of the shadow region of vault v. -/
def State.shadowRow (s : State) (v r : Nat) : Nat :=
  v * 2 ^ 32 + (4 * fld (s.cluster v).vshadow 2 9 + r / 256) * 2 ^ 21 + r % 256 * 2 ^ 13

/-- The transfer begins: the rows that each cluster writes or reads, of which R376 allows 864 (log 35). -/
def State.swapBegin (s : State) (p : Nat) : State :=
  let x := (s.part p).clusters.foldl (fun (x : Tab Nat × State) g =>
    let (n, s) := x.2.draw
    (Tab.put x.1 g (min (Config.swapRows n) 864), s)) ([], s)
  x.2.modPart p fun y => { y with swRows := some x.1 }

/-- Vault v transfers its next rows now, of which `left` are left: as many as the activation limit and their banks allow. Each
counts as one activation, and holds its bank for 28 ticks. -/
def State.swapTransfer (p v : Nat) : Nat → Nat → State → State
  | 0, _, s => s
  | _, 0, s => s
  | n + 1, left + 1, s =>
    let pa := s.shadowRow v left
    if !roomAt (s.cluster v).senses s.tick || !s.bankFree pa s.tick then s
    else
      let s := if (s.part p).swSt == .in1 then s.countCorrected pa 8192 else s
      let s := (s.settleBank v (bankOf pa)).modCluster v fun c =>
        { c with senses := s.tick :: c.senses.filter fun u => s.tick < u + 18 }
      let s := (s.closeBank v (bankOf pa) (s.tick + 28) []).modPart p fun y =>
        { y with swRows := y.swRows.map fun t => Tab.put t v left }
      State.swapTransfer p v n left s

/-- Every vault of the partition goes on with its rows; `done` follows once none is left. -/
def State.swapGo (s : State) (p : Nat) (rows : Tab Nat) (done : State → State) : State :=
  if rows.all fun r => r.2 == 0 then (done (s.modPart p fun y => { y with swRows := none })).swapMessage p
  else rows.foldl (fun s r => State.swapTransfer p r.1 8 r.2 s) s

/-- SWAP_OUT_SAVE (i = partition): once its harts are at a boundary and its engines idle, they are taken and TICK freezes;
then the rows are written, and at last the state is cleared. -/
def execSwapOutSave (s : State) : Out :=
  let p := s.ev.i
  let x := s.part p
  if Config.nParts ≤ p then .fault .noSuchUnit
  else if x.swSt != .out1 then .next s
  else
    match x.swRows with
    | some rows => .next (s.swapGo p rows (·.stash p))
    | none =>
      if !s.swapReady p then .next s
      else
        match (s.partHarts p).foldl (fun (t : Option State) h => t.bind fun t => t.swapTake h) (some s) with
        | none => .next s
        | some t => .next ((t.swapBegin p).modPart p fun y => { y with frozen := some (s.tick - y.tickOff) })

/-- An uncorrectable codeword of a shadow row of the partition. -/
def State.badShadow (s : State) (p : Nat) : Option Nat :=
  s.badCodewords.find? fun w => isVault (1024 * w) && (s.part p).holds (vaultOf (1024 * w)) && s.isShadow (1024 * w)

/-- The hart resumes as by CTXLOAD (R376). -/
def State.swapResume (s : State) (h : Nat) : State :=
  let x := s.hart h
  if x.st == .saved then s
  else
    let s := ((s.modHart h fun y => { y with event := true }).restartXfers h).mailboxesBack h
    if x.savedOctets == [] && x.savedGifts == [] && x.savedLease.isNone then s else s.reclaim h

/-- The rows of cluster g deliver what was written: under the same key material, at the same place, and not written since. -/
def State.rowsIntact (s : State) (img : Swapped) (g : Nat) : Bool :=
  Tab.find? img.rows g == some (s.shadowKey g) && (s.cluster g).shadowOver == []

/-! What rows deliver that have been written since, or are read under other key material: free values, for spec/ gives no layout
(R88). The contents of registers and memories come from them; what says in which state a hart, its units and its messages are
stays as it was saved (DESIGN CHOICE; log 24). -/

/-- A free word of such rows. -/
def rowWord (n : Nat) (q : BitVec 512) (a : Nat) : Word :=
  w64 (ofBytes ((List.range 8).map fun i => Config.shadowByte n (some q) (8 * a + i)))
/-- `k` free registers from number `a` on. -/
def rowRegs (n : Nat) (q : BitVec 512) (a k : Nat) : Tab Word := (List.range k).map fun i => (i, rowWord n q (a + i))
def rowVecs (n : Nat) (q : BitVec 512) (a k : Nat) : List VWord :=
  (List.range k).map fun i => vOfBytes (bytesOf ((List.range 8).map fun j => rowWord n q (a + 8 * i + j)))
/-- A hart, a core and a group as such rows give them back; `a` numbers what they are read from. -/
def Hart.garbled (x : Hart) (n : Nat) (q : BitVec 512) (a : Nat) : Hart :=
  { x with
    pc := evenWord (rowWord n q a), regs := rowRegs n q (a + 1) 76, m := rowRegs n q (a + 80) 8
    v := (rowVecs n q (a + 100) 16).zipIdx.map fun vi => (vi.2, vi.1)
    savedOctets := (List.range x.savedOctets.length).map fun i => rowVecs n q (a + 300 + 64 * i) 8
    savedGifts := (List.range x.savedGifts.length).map fun i => rowVecs n q (a + 600 + 64 * i) 8 }
def Group.garbled (g : Group) (n : Nat) (q : BitVec 512) (a : Nat) : Group :=
  { g with
    banks := g.banks.map fun kb =>
      (kb.1, { kb.2 with data := ((List.range 4096).map fun i => (i, (rowWord n q (a + 4096 * kb.1 + i)).setWidth 32)).filter fun e => e.2 != 0 })
    slots := g.slots.map fun kx =>
      (kx.1, { kx.2 with latch := kx.2.latch.map fun c => (c.1, Config.shadowByte n (some q) (a + 8192 * kx.1 + c.1)) }) }
def spadGarbled (n : Nat) (q : BitVec 512) (g : Nat) : List Host.Cell :=
  (List.range 64).flatMap fun c => (List.range spadSize).map fun o =>
    (spadLoc (64 * g + c) o, Config.shadowByte n (some q) (spadLoc (64 * g + c) o))

/-- The image as its rows deliver it now. -/
def State.rowsRead (s : State) (img : Swapped) (n : Nat) : Swapped :=
  let lost := (img.rows.map (·.1)).filter fun g => !s.rowsIntact img g
  let q (g : Nat) : BitVec 512 := (s.shadowKey g).1
  if lost == [] then img
  else
    { img with
      harts := img.harts.map fun kx =>
        (kx.1, if lost.contains (clusterOf kx.1) then kx.2.garbled n (q (clusterOf kx.1)) (2 ^ 40 + 4096 * kx.1) else kx.2)
      groups := img.groups.map fun kg =>
        (kg.1, if lost.contains (kg.1 / 4) then kg.2.garbled n (q (kg.1 / 4)) (2 ^ 41 + 65536 * kg.1) else kg.2)
      spad := img.spad.filter (fun c => !lost.contains (coreOfBits (c.1 - Config.spadKey) / 64))
        ++ lost.flatMap fun g => spadGarbled n (q g) g }

/-- The state of the partition's clusters returns. -/
def State.unstash (s : State) (p : Nat) : State :=
  let x := s.part p
  let (n, s) := s.draw
  let img := s.rowsRead x.swapped n
  let put {α : Type} (t u : Tab α) : Tab α := u.foldl (fun t kv => Tab.put t kv.1 kv.2) t
  let s := { s with
    harts := put s.harts (img.harts.filter fun kx => x.holds (clusterOf kx.1))
    cores := put s.cores (img.cores.filter fun kc => x.holds (kc.1 / 64))
    groups := put s.groups (img.groups.filter fun kg => x.holds (kg.1 / 4))
    mem := (img.spad.filter fun (c : Host.Cell) => x.holds (coreOfBits (c.1 - Config.spadKey) / 64)).foldl
      (fun m (c : Host.Cell) => Mem.put m c.1 c.2) s.mem }
  let s := img.pins.foldl (fun s kp => s.modCluster kp.1 fun c => { c with pins := c.pins ++ kp.2 }) s
  let s := s.modPart p fun y =>
    { y with swapped := {}, swSt := .resident, frozen := none, tickOff := s.tick - y.frozen.getD 0 }
  (s.partHarts p).foldl State.swapResume s

/-- The rows have been read: the partition returns, or with an uncorrectable one stays out. -/
def State.swapReturn (s : State) (p : Nat) : State :=
  match s.badShadow p with
  | some w =>
    ((s.countBad (1024 * w)).machineCheck 2 (w % 8) 0 (w64 (w / 8 * 8192)) (Config.freeWord s.steps)).modPart p fun x =>
      { x with swSt := .out, swErr := 3 }
  | none => s.unstash p

/-- SWAP_IN: the command; and with `ok` set, the reading of the rows of partition i and its return (R376). -/
def execSwapIn (s : State) : Out :=
  let p := s.ev.i
  let x := s.part p
  if !s.ev.ok then regWriteStep .swapIn s
  else if Config.nParts ≤ p then .fault .noSuchUnit
  else if x.swSt != .in1 then .next s
  else
    match x.swRows with
    | some rows => .next (s.swapGo p rows (·.swapReturn p))
    | none => .next (s.swapBegin p)

end Sys2Proof.Machine
end

