-- ==== Sys2Proof/Machine/VecMem.lean ====
section
/-! DEFINITION. Vector memory (spec/12 R258 to R260): every active lane is checked in lane order, then all are accessed. -/

namespace Sys2Proof.Machine

/-- A lane of a vector access: its number and address. -/
abbrev LaneAt := Nat × Word

/-- The active lanes below `e` with their addresses. -/
def State.lanesAt (s : State) (m : BitVec 3) (e : Nat) (addr : Nat → Word) : List LaneAt :=
  ((List.range e).filter fun i => s.active m i).map fun i => (i, addr i)

/-- The check of every lane, in lane order (R259). -/
def checkLanes (h : Nat) (acc : Acc) (n : Nat) (ls : List LaneAt) (s : State) : Look (List Place) :=
  Look.each (fun l s => checked h acc l.2 n n s) ls s

/-- The banks of all the lanes that a VLD reads in one scratchpad are granted at once (R42, R259), unless a lane has been read
already. -/
def grantLanes (h n : Nat) (ps : List Place) (va : Word) (s : State) : Look (List Place) :=
  match ps with
  | [] => .ok ps s
  | p :: _ =>
    if !isSpad p.key || !(s.hart h).todo.isEmpty then .ok (if isSpad p.key then ps.map ({ · with granted := true }) else ps) s
    else
      let w := s.wordsAsk h none (padCore p.key) (ps.flatMap fun q => spadWords (q.key % 2 ^ 17) n) true true
      overLink h none p.key va s
        (if s.padTurn (Asker.reads h none) w then .ok (ps.map ({ · with granted := true })) s else .wait (.pad w) s)

/-- The reads of the lanes, in lane order: an uncorrectable word of one raises its cause after all have been read (R259). -/
def readLanes (h n acq : Nat) : List (LaneAt × Place) → State → Look (List (List Byte))
  | [], s => .ok [] s
  | (l, p) :: lps, s =>
    match readPlace h { p with vec := true } n acq l.2 s with
    | .ok bs s => (readLanes h n acq lps s).bind fun bss s => .ok (bs :: bss) s
    | .trap c a s =>
      if c == Cause.ecc then (readLanes h n acq lps s).bind fun _ s => .trap c a s else .trap c a s
    | x => x.bind fun _ s => .ok [] s

/-- The causes of the named vector registers come before those of the addresses (DESIGN CHOICE: the spec gives no order
between them). VLD and VST need a 64-byte aligned address even where no lane is active. -/
def aligned64 (ea : Word) (s : State) (k : State → Out) : Out :=
  if ea.toNat % 64 != 0 then
    match classify s.cx.hart ea with
    | .bad => trap Cause.space ea s
    | _ => trap Cause.misaligned ea s
  else k s

/-- A load of `n`-byte elements into lanes of D (R258, R259); `whole` for lanes that are one access at the banks of a scratchpad
(R42). -/
def vload (n : Nat) (m : BitVec 3) (d : RegNo) (acq : Nat) (whole : Bool) (srcs : List RegNo) (addr : Nat → Word) (s : State) : Out :=
  let h := s.cx.hart
  vdst d s fun put s =>
    let ls := s.lanesAt m (64 / n) addr
    ((checkLanes h .load n ls s).bind fun ps s =>
      (if whole then grantLanes h n ps ((ls.map (·.2)).headD 0) s else .ok ps s).bind fun ps s =>
        readLanes h n acq (ls.zip ps) s).out .load fun bss s =>
        let got := (ls.map (·.1)).zip (bss.map ofBytes)
        let new := (List.range (64 / n)).map fun i => (got.lookup i).getD 0
        vfinish srcs [put (s.merge (8 * n) m d new)] s

/-- A store of `n`-byte elements from the lanes of D, with the scope of its release; `whole` for lanes that are one access at
the banks of a scratchpad (R42). -/
def vstore (n : Nat) (m : BitVec 3) (v : VWord) (rel : Nat) (whole : Bool) (srcs : List RegNo) (addr : Nat → Word) (s : State) : Out :=
  let h := s.cx.hart
  let ls := s.lanesAt m (64 / n) addr
  (checkLanes h .store n ls s).out .store fun ps s =>
    let es := (ls.zip ps).flatMap fun (l, p) => s.entries h p (toBytes n (lane (8 * n) v l.1)) rel l.2
    vfinish srcs [] (s.buffer h (es.map fun e => { e with vec := true, whole := whole }))

/-- The stride: 8 without an operand. -/
def State.stride (s : State) : Src3 → Word
  | .none => 8
  | o => s.off o

def execVld (o : VMem) (s : State) : Out :=
  let ea := s.ea o.a o.off
  vdst o.d s fun _ _ => aligned64 ea s (vload 8 o.m o.d (acqScope o.ord o.sc) true [] fun i => ea + w64 (8 * i))
def execVst (o : VMem) (s : State) : Out :=
  let ea := s.ea o.a o.off
  vsrcs [o.d] s fun vs s =>
    aligned64 ea s (vstore 8 o.m (vs.getD 0 0) (relScope o.ord o.sc) true [o.d] fun i => ea + w64 (8 * i))
def execVlds (o : VMem) (s : State) : Out :=
  let a := s.rd o.a
  let st := s.stride o.off
  vload 8 o.m o.d (acqScope o.ord o.sc) false [] (fun i => a + w64 i * st) s
def execVsts (o : VMem) (s : State) : Out :=
  let a := s.rd o.a
  let st := s.stride o.off
  vsrcs [o.d] s fun vs s => vstore 8 o.m (vs.getD 0 0) (relScope o.ord o.sc) false [o.d] (fun i => a + w64 i * st) s

/-- The address of element i of a gather or scatter. -/
def gatherAddr (a : Word) (w4 : Bool) (sh : BitVec 3) (idx : VWord) (i : Nat) : Word :=
  a + (w64 (lane (if w4 then 32 else 64) idx i) <<< sh.toNat)
def execVgath (o : VGat) (s : State) : Out :=
  let a := s.rd o.a
  vsrcs [o.b] s fun vs s =>
    vload (if o.w4 then 4 else 8) o.m o.d (acqScope o.ord o.sc) false [o.b] (gatherAddr a o.w4 o.sh (vs.getD 0 0)) s
def execVscat (o : VGat) (s : State) : Out :=
  let a := s.rd o.a
  vsrcs [o.b, o.d] s fun vs s =>
    vstore (if o.w4 then 4 else 8) o.m (vs.getD 1 0) (relScope o.ord o.sc) false [o.b, o.d] (gatherAddr a o.w4 o.sh (vs.getD 0 0)) s

/-- VLDBT: BITP advances over inactive lanes as well; a cause of the destination comes before the straddle (R260: the spec
gives no order, DESIGN CHOICE, log 11). -/
def execVldbt (o : VLdbt) (s : State) : Out :=
  let w := o.w.toNat
  let e := lanesOf o.t
  vdst o.d s fun put s =>
    bitAccess (e * w) s fun p s =>
      let act := (List.range e).filter fun i => s.active o.m i
      ((Look.each (fun i s => readBits true s.cx.hart (p + i * w) w 0 s) act s).trapAt (w64 p)).out .load fun vs s =>
        let got := act.zip vs
        let new := (List.range e).map fun i =>
          let v := (got.lookup i).getD 0
          if signed o.t then wrapInt (WF.width o.t) (sInt w v) else v
        vfinish [] [put (s.merge (WF.width o.t) o.m o.d new)] (s.setBitp (p + e * w))

end Sys2Proof.Machine
end

