-- ==== Sys2Proof/Machine/Vector.lean ====
section
/-! DEFINITION. Page 3: element-wise arithmetic and logic, comparison, conversion, lane movement, prefix sums, reductions and
mask operations (spec/12 R247 to R257). -/

namespace Sys2Proof.Machine

/-! ## Lane functions (R247 to R249) -/

def noFlags (x : Nat) : Flagged := (x, 0)

/-- A lane function from its integer form and its floating-point form. -/
def arith (t : TypeCode) (sat : Bool) (fi : Int → Int → Int) (ff : FFmt → Nat → Nat → Flagged) (x y : Nat) : Flagged :=
  if WF.isFloat t then ff (fmtOf t) x y else noFlags (intResult t sat (fi (laneInt t x) (laneInt t y)))

/-- Integer division at width w (R194, R247). -/
def laneDiv (t : TypeCode) (x y : Nat) : Flagged :=
  if WF.isFloat t then fDiv (fmtOf t) x y
  else noFlags (if y == 0 then 2 ^ WF.width t - 1
    else wrapInt (WF.width t) ((laneInt t x).tdiv (laneInt t y)))

def laneMulAdd (minus sat : Bool) (t : TypeCode) (x y d : Nat) : Flagged :=
  if WF.isFloat t then fMulAdd (fmtOf t) minus x y d
  else
    let p := laneInt t x * laneInt t y
    noFlags (intResult t sat (if minus then laneInt t d - p else p + laneInt t d))

def laneUnary (t : TypeCode) (sat : Bool) (fi : Int → Int) (ff : FFmt → Nat → Flagged) (x : Nat) : Flagged :=
  if WF.isFloat t then ff (fmtOf t) x else noFlags (intResult t sat (fi (laneInt t x)))

def laneShift (f : Nat → Nat → Nat → Nat) (t : TypeCode) (x y : Nat) : Flagged :=
  let w := WF.width t
  noFlags (f w x (y % w) % 2 ^ w)

def execVadd (o : VOp) (s : State) : Out := laneOp (arith o.t o.var (· + ·) fAdd) o s
def execVsub (o : VOp) (s : State) : Out := laneOp (arith o.t o.var (· - ·) fSub) o s
def execVmul (o : VOp) (s : State) : Out := laneOp (arith o.t o.var (· * ·) fMul) o s
def execVfma (o : VOp) (s : State) : Out := laneOp3 (laneMulAdd false o.var o.t) o s
def execVfms (o : VOp) (s : State) : Out := laneOp3 (laneMulAdd true o.var o.t) o s
def execVdiv (o : VOp) (s : State) : Out := laneOp (laneDiv o.t) o s
def execVsqrt (o : VUn) (s : State) : Out := laneUn (fSqrt (fmtOf o.t)) o s
def execVmin (o : VOp) (s : State) : Out := laneOp (arith o.t false (fun x y => if y < x then y else x) fMin) o s
def execVmax (o : VOp) (s : State) : Out := laneOp (arith o.t false (fun x y => if x < y then y else x) fMax) o s
def execVabs (o : VUn) (s : State) : Out := laneUn (laneUnary o.t o.var (fun x => if x < 0 then -x else x) fAbs) o s
def execVneg (o : VUn) (s : State) : Out := laneUn (laneUnary o.t o.var (fun x => -x) fNeg) o s
def execVand (o : VOp) (s : State) : Out := laneOp (fun x y => noFlags (x &&& y)) o s
def execVor (o : VOp) (s : State) : Out := laneOp (fun x y => noFlags (x ||| y)) o s
def execVxor (o : VOp) (s : State) : Out := laneOp (fun x y => noFlags (x ^^^ y)) o s
def execVshl (o : VOp) (s : State) : Out := laneOp (laneShift (fun _ x n => x * 2 ^ n) o.t) o s
def execVshr (o : VOp) (s : State) : Out := laneOp (laneShift (fun _ x n => x / 2 ^ n) o.t) o s
def execVsar (o : VOp) (s : State) : Out :=
  laneOp (laneShift (fun w x n => wrapInt w (sInt w x / 2 ^ n)) o.t) o s
def execVpopc (o : VUn) (s : State) : Out := laneUn (fun x => noFlags (popN x (WF.width o.t))) o s
/-- VCLMUL: bits 63:0 of the carry-less product, or bits 126:64 under .hi. -/
def execVclmul (o : VOp) (s : State) : Out :=
  laneOp (fun x y => noFlags (if o.var then clmul x y 64 / 2 ^ 64 else clmul x y 64 % 2 ^ 64)) o s

/-! ## Comparison and selection (R250) -/

/-- A new mask: bits of the lanes below E where `act`, old bits elsewhere, zero above E. -/
def mergeMask (e : Nat) (act : Nat → Bool) (old : Word) (new : List Bool) : Word :=
  w64 (packNat 1 ((List.range e).map fun i => b2n (if act i then new.getD i false else old.getLsbD i)))

def laneCmp (t : TypeCode) (quiet : Bool) (rel : Int → Int → Bool) (x y : Nat) : Bool × Flags :=
  if WF.isFloat t then fCmp (fmtOf t) quiet rel x y else (rel (laneInt t x) (laneInt t y), 0)

/-- A comparison; the two-address form reads the vector register of D's number (R245). -/
def vcmp (quiet : Bool) (rel : Int → Int → Bool) (o : VCmp) (s : State) : Out :=
  let srcs := vSources (o.d.setWidth 7) o.a o.y
  vsrcs srcs s fun vs s =>
    let w := WF.width o.t
    let (x, y) := vXy o.t o.y vs
    let rs := (List.range (lanesOf o.t)).map fun i => laneCmp o.t quiet rel (lane w x i) (lane w y i)
    let new := mergeMask (lanesOf o.t) (s.active o.m) (s.mask o.d) (rs.map (·.1))
    vfinish srcs (.mask o.d.toNat new :: flagPend (s.laneFlags o.m (rs.map (·.2)))) s

def execVcmpeq (o : VCmp) (s : State) : Out := vcmp true (fun x y => decide (x = y)) o s
def execVcmplt (o : VCmp) (s : State) : Out := vcmp false (fun x y => decide (x < y)) o s
def execVcmple (o : VCmp) (s : State) : Out := vcmp false (fun x y => decide (x ≤ y)) o s

def execVsel (o : VOp) (s : State) : Out :=
  let srcs := vSources o.d o.a o.y
  vsrcs srcs s fun vs s =>
    vdst o.d s fun put s =>
      let w := WF.width o.t
      let (x, y) := vXy o.t o.y vs
      let rs := (List.range (lanesOf o.t)).map fun i => noFlags (lane w (if (s.mask 0).getLsbD i then x else y) i)
      vfinish srcs (lanePends w o.m o.d put rs s) s

/-! ## Conversion (R251) -/

/-- The source lane of destination lane `k`, if VCVT writes it. -/
def cvtSource (td ts : TypeCode) (p k : Nat) : Option Nat :=
  let es := lanesOf ts
  let ed := lanesOf td
  if ed < es then some (p * ed + k)
  else if p * es ≤ k && k < p * es + es then some (k - p * es) else none

def execVcvt (o : VCvt) (s : State) : Out :=
  vsrcs [o.a] s fun vs s =>
    vdst o.d s fun put s =>
      let w := WF.width o.t
      let old := s.oldDst o.d
      let rs := (List.range (lanesOf o.t)).map fun k =>
        match cvtSource o.t o.src o.part.toNat k with
        | some i => cvtLane o.t o.src o.rz (lane (WF.width o.src) (vs.getD 0 0) i)
        | none => noFlags (lane w old k)
      vfinish [o.a] (lanePends w o.m o.d put rs s) s

/-! ## Lane movement (R252 to R254) -/

def execVbcast (o : VBc) (s : State) : Out :=
  vdst o.d s fun put s =>
    let w := WF.width o.t
    let rs := List.replicate (lanesOf o.t) (noFlags ((s.rv o.v).toNat % 2 ^ w))
    vfinish [] (lanePends w o.m o.d put rs s) s
def execVextr (o : VOp) (s : State) : Out :=
  vsrcs [o.a] s fun vs s =>
    let x := lane (WF.width o.t) (vs.getD 0 0) ((s.off o.y).toNat % lanesOf o.t)
    vfinish [o.a] [.scalar o.d.toNat (wInt (laneInt o.t x))] s
def execVins (o : VOp) (s : State) : Out :=
  vdst o.d s fun put s =>
    let w := WF.width o.t
    let k := (s.off o.y).toNat % lanesOf o.t
    let old := s.oldDst o.d
    let new := (List.range (lanesOf o.t)).map fun i => if i == k then (s.rd o.a).toNat % 2 ^ w else lane w old i
    vfinish [] [put (packLanes w new)] s

/-- The table and the lane of it that VPERM moves to lane i. -/
def permSource (t : TypeCode) (y : Src3) (vs : List VWord) (i : Nat) : Nat :=
  let w := WF.width t
  let e := lanesOf t
  match y with
  | .none => lane w (vs.getD 0 0) (lane w (vs.getD 1 0) i % e)
  | .reg _ => lane w (vs.getD 0 0) (lane w (vs.getD 1 0) i % e)
  | .imm v => lane w (vs.getD 0 0) ((i + v.toNat) % e)
def execVperm (o : VOp) (s : State) : Out :=
  let srcs := vSources o.d o.a o.y
  vsrcs srcs s fun vs s =>
    vdst o.d s fun put s =>
      let rs := (List.range (lanesOf o.t)).map fun i => noFlags (permSource o.t o.y vs i)
      vfinish srcs (lanePends (WF.width o.t) o.m o.d put rs s) s

/-- The active lanes below E, in order. -/
def State.actives (s : State) (m : BitVec 3) (e : Nat) : List Nat := (List.range e).filter fun i => s.active m i

def execVcompr (o : VUn) (s : State) : Out :=
  vsrcs [o.a] s fun vs s =>
    vdst o.d s fun put s =>
      let w := WF.width o.t
      let act := s.actives o.m (lanesOf o.t)
      vfinish [o.a] [put (packLanes w (act.map fun i => lane w (vs.getD 0 0) i)), .scalar 0 (w64 act.length)] s
def execVexpd (o : VUn) (s : State) : Out :=
  vsrcs [o.a] s fun vs s =>
    vdst o.d s fun put s =>
      let w := WF.width o.t
      let act := s.actives o.m (lanesOf o.t)
      let rs := (List.range (lanesOf o.t)).map fun i => noFlags (lane w (vs.getD 0 0) (act.filter (· < i)).length)
      vfinish [o.a] (lanePends w o.m o.d put rs s ++ [.scalar 0 (w64 act.length)]) s

/-! ## Prefix sums and reductions (R255, R256) -/

/-- Running sums of the lanes that are active; an inactive lane adds nothing. -/
def prefixSums (f : Nat → Nat → Flagged) : Nat → List (Nat × Bool) → List Flagged
  | _, [] => []
  | c, (x, act) :: xs =>
    if act then let r := f c x; r :: prefixSums f r.1 xs else (c, 0) :: prefixSums f c xs

def execVpsum (o : VOp) (s : State) : Out :=
  vsrcs [o.a] s fun vs s =>
    vdst o.d s fun put s =>
      let w := WF.width o.t
      let xs := (List.range (lanesOf o.t)).map fun i => (lane w (vs.getD 0 0) i, s.active o.m i)
      let rs := prefixSums (arith o.t o.var (· + ·) fAdd) ((s.off o.y).toNat % 2 ^ w) xs
      vfinish [o.a] (lanePends w o.m o.d put rs s) s

/-- One level of the tree: r[i] and r[i + step] meet (R256). -/
def treeLevel (f : Nat → Nat → Flagged) : List Flagged → List Flagged
  | a :: b :: t => (let r := f a.1 b.1; (r.1, r.2 ||| a.2 ||| b.2)) :: treeLevel f t
  | t => t
/-- The reduction of up to 2^n lanes. -/
def tree (f : Nat → Nat → Flagged) : Nat → List Flagged → List Flagged
  | 0, xs => xs
  | n + 1, xs => tree f n (treeLevel f xs)

/-- A reduction into scalar D: integers at 64 bits, floats at their type; inactive lanes take the identity. -/
def reduce (fi : Int → Int → Int) (ff : FFmt → Nat → Nat → Flagged) (idInt : Int) (idFloat : Nat) (o : VUn) (s : State) : Out :=
  vsrcs [o.a] s fun vs s =>
    let w := WF.width o.t
    let fl := WF.isFloat o.t
    let f (x y : Nat) : Flagged :=
      if fl then ff (fmtOf o.t) x y
      else
        let v (n : Nat) : Int := if signed o.t then sInt 64 n else n
        noFlags (wrapInt 64 (fi (v x) (v y)))
    let ident := if fl then idFloat else wrapInt 64 idInt
    let xs := (List.range (lanesOf o.t)).map fun i =>
      let x := lane w (vs.getD 0 0) i
      noFlags (if s.active o.m i then (if fl then x else wrapInt 64 (laneInt o.t x)) else ident)
    let r := (tree f 6 xs).getD 0 (0, 0)
    vfinish [o.a] (.scalar o.d.toNat (w64 r.1) :: flagPend r.2) s

def execVredadd (o : VUn) (s : State) : Out :=
  reduce (· + ·) fAdd 0 ((fmtOf o.t).sign true) o s
def execVredmin (o : VUn) (s : State) : Out :=
  reduce (fun x y => if y < x then y else x) fMin (tyMax o.t) (fmtOf o.t).inf o s
def execVredmax (o : VUn) (s : State) : Out :=
  reduce (fun x y => if x < y then y else x) fMax (tyMin o.t) ((fmtOf o.t).inf + (fmtOf o.t).sign true) o s

/-! ## Masks (R257) -/

/-- The bits below E. -/
def below (t : TypeCode) (v : Word) : Word := w64 (v.toNat % 2 ^ lanesOf t)
/-- x and y of a mask operation. -/
def mkXy (o : MkOp) (s : State) : Word × Word :=
  match o.b with
  | some b => (s.mask o.a, s.mask b)
  | none => (s.mask o.d, s.mask o.a)
def mkOp (f : Word → Word → Word) (o : MkOp) (s : State) : Out :=
  finish (s.defer [.mask o.d.toNat (below o.t (f (mkXy o s).1 (mkXy o s).2))])
def execMkand (o : MkOp) (s : State) : Out := mkOp (fun x y => x &&& y) o s
def execMkor (o : MkOp) (s : State) : Out := mkOp (fun x y => x ||| y) o s
def execMkxor (o : MkOp) (s : State) : Out := mkOp (fun x y => x ^^^ y) o s
def execMknot (o : MkOp) (s : State) : Out :=
  finish (s.defer [.mask o.d.toNat (below o.t (~~~(s.mask o.a)))])
def execMkpopc (o : MkToReg) (s : State) : Out :=
  finish (s.deferReg o.d (w64 (popN (s.mask o.a).toNat (lanesOf o.t))))
def execMkfirst (o : MkToReg) (s : State) : Out :=
  let n := ctzN (s.mask o.a).toNat (lanesOf o.t)
  finish (s.deferReg o.d (if n == lanesOf o.t then BitVec.allOnes 64 else w64 n))
def execMkset (o : MkFromReg) (s : State) : Out := finish (s.defer [.mask o.d.toNat (below o.t (s.rd o.a))])
def execMkget (o : MkToReg) (s : State) : Out := finish (s.deferReg o.d (below o.t (s.mask o.a)))

end Sys2Proof.Machine
end

