-- ==== Sys2Proof/Machine/Dispatch.lean ====
section
/-! DEFINITION. One arm per instruction and per step of a unit, each a call of its meaning. -/

namespace Sys2Proof.Machine

def exec (i : Instr) (s : State) : Host.Outcome State Fault Refusal :=
  match i with
  | .ill => Sys2Proof.Machine.execIll s
  | .mov o => Sys2Proof.Machine.execMov o s
  | .movi o => Sys2Proof.Machine.execMovi o s
  | .add o => Sys2Proof.Machine.execAdd o s
  | .sub o => Sys2Proof.Machine.execSub o s
  | .and3 o => Sys2Proof.Machine.execAnd o s
  | .or3 o => Sys2Proof.Machine.execOr o s
  | .xor3 o => Sys2Proof.Machine.execXor o s
  | .andn o => Sys2Proof.Machine.execAndn o s
  | .shl o => Sys2Proof.Machine.execShl o s
  | .shr o => Sys2Proof.Machine.execShr o s
  | .sar o => Sys2Proof.Machine.execSar o s
  | .rol o => Sys2Proof.Machine.execRol o s
  | .mul o => Sys2Proof.Machine.execMul o s
  | .mulh o => Sys2Proof.Machine.execMulh o s
  | .mulhn o => Sys2Proof.Machine.execMulhn o s
  | .sdiv o => Sys2Proof.Machine.execDiv o s
  | .divn o => Sys2Proof.Machine.execDivn o s
  | .rem o => Sys2Proof.Machine.execRem o s
  | .remn o => Sys2Proof.Machine.execRemn o s
  | .min o => Sys2Proof.Machine.execMin o s
  | .max o => Sys2Proof.Machine.execMax o s
  | .minn o => Sys2Proof.Machine.execMinn o s
  | .maxn o => Sys2Proof.Machine.execMaxn o s
  | .slt o => Sys2Proof.Machine.execSlt o s
  | .sltn o => Sys2Proof.Machine.execSltn o s
  | .seq o => Sys2Proof.Machine.execSeq o s
  | .sel o => Sys2Proof.Machine.execSel o s
  | .clz o => Sys2Proof.Machine.execClz o s
  | .ctz o => Sys2Proof.Machine.execCtz o s
  | .popc o => Sys2Proof.Machine.execPopc o s
  | .bswap o => Sys2Proof.Machine.execBswap o s
  | .sext o => Sys2Proof.Machine.execSext o s
  | .zext o => Sys2Proof.Machine.execZext o s
  | .bfx o => Sys2Proof.Machine.execBfx o s
  | .bfi o => Sys2Proof.Machine.execBfi o s
  | .crd o => Sys2Proof.Machine.execCrd o s
  | .self o => Sys2Proof.Machine.execSelf o s
  | .clmul o => Sys2Proof.Machine.execClmul o s
  | .clmulh o => Sys2Proof.Machine.execClmulh o s
  | .ld1s o => Sys2Proof.Machine.execLd1s o s
  | .ld1n o => Sys2Proof.Machine.execLd1n o s
  | .ld2s o => Sys2Proof.Machine.execLd2s o s
  | .ld2n o => Sys2Proof.Machine.execLd2n o s
  | .ld4s o => Sys2Proof.Machine.execLd4s o s
  | .ld4n o => Sys2Proof.Machine.execLd4n o s
  | .ld8 o => Sys2Proof.Machine.execLd8 o s
  | .ld16 o => Sys2Proof.Machine.execLd16 o s
  | .st1 o => Sys2Proof.Machine.execSt1 o s
  | .st2 o => Sys2Proof.Machine.execSt2 o s
  | .st4 o => Sys2Proof.Machine.execSt4 o s
  | .st8 o => Sys2Proof.Machine.execSt8 o s
  | .st16 o => Sys2Proof.Machine.execSt16 o s
  | .ldbt o => Sys2Proof.Machine.execLdbt o s
  | .stbt o => Sys2Proof.Machine.execStbt o s
  | .setbp o => Sys2Proof.Machine.execSetbp o s
  | .call o => Sys2Proof.Machine.execCall o s
  | .jmp disp => Sys2Proof.Machine.execJmp disp s
  | .jr o => Sys2Proof.Machine.execJr o s
  | .loopb o => Sys2Proof.Machine.execLoop o s
  | .csrr o => Sys2Proof.Machine.execCsrr o s
  | .csrw o => Sys2Proof.Machine.execCsrw o s
  | .csrs o => Sys2Proof.Machine.execCsrs o s
  | .csrc o => Sys2Proof.Machine.execCsrc o s
  | .waitt a => Sys2Proof.Machine.execWaitt a s
  | .waitph o => Sys2Proof.Machine.execWaitph o s
  | .trap o => Sys2Proof.Machine.execTrap o s
  | .bz disp => Sys2Proof.Machine.execBz disp s
  | .bnz disp => Sys2Proof.Machine.execBnz disp s
  | .bn disp => Sys2Proof.Machine.execBn disp s
  | .bnn disp => Sys2Proof.Machine.execBnn disp s
  | .bp disp => Sys2Proof.Machine.execBp disp s
  | .bnp disp => Sys2Proof.Machine.execBnp disp s
  | .bbs disp => Sys2Proof.Machine.execBbs disp s
  | .bbc disp => Sys2Proof.Machine.execBbc disp s
  | .bmany disp => Sys2Proof.Machine.execBmany disp s
  | .bmnone disp => Sys2Proof.Machine.execBmnone disp s
  | .bal disp => Sys2Proof.Machine.execBal disp s
  | .nop => Sys2Proof.Machine.execNop s
  | .hret => Sys2Proof.Machine.execHret s
  | .yield => Sys2Proof.Machine.execYield s
  | .eret => Sys2Proof.Machine.execEret s
  | .ueret => Sys2Proof.Machine.execUeret s
  | .ebreak => Sys2Proof.Machine.execEbreak s
  | .wfe => Sys2Proof.Machine.execWfe s
  | .syncf => Sys2Proof.Machine.execSyncf s
  | .fenceFull sc => Sys2Proof.Machine.execFenceFull sc s
  | .fenceAcq sc => Sys2Proof.Machine.execFenceAcq sc s
  | .fenceRel sc => Sys2Proof.Machine.execFenceRel sc s
  | .fenceEng sc => Sys2Proof.Machine.execFenceEng sc s
  | .amoadd o => Sys2Proof.Machine.execAmoadd o s
  | .amoand o => Sys2Proof.Machine.execAmoand o s
  | .amoor o => Sys2Proof.Machine.execAmoor o s
  | .amoxor o => Sys2Proof.Machine.execAmoxor o s
  | .amomin o => Sys2Proof.Machine.execAmomin o s
  | .amomax o => Sys2Proof.Machine.execAmomax o s
  | .amominn o => Sys2Proof.Machine.execAmominn o s
  | .amomaxn o => Sys2Proof.Machine.execAmomaxn o s
  | .amoswap o => Sys2Proof.Machine.execAmoswap o s
  | .cas o => Sys2Proof.Machine.execCas o s
  | .casq o => Sys2Proof.Machine.execCasq o s
  | .aaddz o => Sys2Proof.Machine.execAaddz o s
  | .pref o => Sys2Proof.Machine.execPref o s
  | .ringcfg q a => Sys2Proof.Machine.execRingcfg q a s
  | .ringadv q n => Sys2Proof.Machine.execRingadv q n s
  | .ringpop q n => Sys2Proof.Machine.execRingpop q n s
  | .ringq q => Sys2Proof.Machine.execRingq q s
  | .send o => Sys2Proof.Machine.execSend o s
  | .sendw o => Sys2Proof.Machine.execSendw o s
  | .bar n l => Sys2Proof.Machine.execBar n l s
  | .ared o => Sys2Proof.Machine.execAred o s
  | .qadd v => Sys2Proof.Machine.execQadd v s
  | .qwait l => Sys2Proof.Machine.execQwait l s
  | .halt => Sys2Proof.Machine.execHalt s
  | .spawn o => Sys2Proof.Machine.execSpawn o s
  | .launch o => Sys2Proof.Machine.execLaunch o s
  | .cpwait a => Sys2Proof.Machine.execCpwait a s
  | .cpq o => Sys2Proof.Machine.execCpq o s
  | .cpabort a => Sys2Proof.Machine.execCpabort a s
  | .vadd o => Sys2Proof.Machine.execVadd o s
  | .vsub o => Sys2Proof.Machine.execVsub o s
  | .vmul o => Sys2Proof.Machine.execVmul o s
  | .vfma o => Sys2Proof.Machine.execVfma o s
  | .vfms o => Sys2Proof.Machine.execVfms o s
  | .vdiv o => Sys2Proof.Machine.execVdiv o s
  | .vsqrt o => Sys2Proof.Machine.execVsqrt o s
  | .vmin o => Sys2Proof.Machine.execVmin o s
  | .vmax o => Sys2Proof.Machine.execVmax o s
  | .vabs o => Sys2Proof.Machine.execVabs o s
  | .vneg o => Sys2Proof.Machine.execVneg o s
  | .vand o => Sys2Proof.Machine.execVand o s
  | .vor o => Sys2Proof.Machine.execVor o s
  | .vxor o => Sys2Proof.Machine.execVxor o s
  | .vshl o => Sys2Proof.Machine.execVshl o s
  | .vshr o => Sys2Proof.Machine.execVshr o s
  | .vsar o => Sys2Proof.Machine.execVsar o s
  | .vcmpeq o => Sys2Proof.Machine.execVcmpeq o s
  | .vcmplt o => Sys2Proof.Machine.execVcmplt o s
  | .vcmple o => Sys2Proof.Machine.execVcmple o s
  | .vsel o => Sys2Proof.Machine.execVsel o s
  | .vcvt o => Sys2Proof.Machine.execVcvt o s
  | .vpopc o => Sys2Proof.Machine.execVpopc o s
  | .vclmul o => Sys2Proof.Machine.execVclmul o s
  | .vpsum o => Sys2Proof.Machine.execVpsum o s
  | .vredadd o => Sys2Proof.Machine.execVredadd o s
  | .vredmin o => Sys2Proof.Machine.execVredmin o s
  | .vredmax o => Sys2Proof.Machine.execVredmax o s
  | .vbcast o => Sys2Proof.Machine.execVbcast o s
  | .vextr o => Sys2Proof.Machine.execVextr o s
  | .vins o => Sys2Proof.Machine.execVins o s
  | .vperm o => Sys2Proof.Machine.execVperm o s
  | .vcompr o => Sys2Proof.Machine.execVcompr o s
  | .vexpd o => Sys2Proof.Machine.execVexpd o s
  | .mkand o => Sys2Proof.Machine.execMkand o s
  | .mkor o => Sys2Proof.Machine.execMkor o s
  | .mkxor o => Sys2Proof.Machine.execMkxor o s
  | .mknot o => Sys2Proof.Machine.execMknot o s
  | .mkpopc o => Sys2Proof.Machine.execMkpopc o s
  | .mkfirst o => Sys2Proof.Machine.execMkfirst o s
  | .mkset o => Sys2Proof.Machine.execMkset o s
  | .mkget o => Sys2Proof.Machine.execMkget o s
  | .vld o => Sys2Proof.Machine.execVld o s
  | .vst o => Sys2Proof.Machine.execVst o s
  | .vlds o => Sys2Proof.Machine.execVlds o s
  | .vsts o => Sys2Proof.Machine.execVsts o s
  | .vgath o => Sys2Proof.Machine.execVgath o s
  | .vscat o => Sys2Proof.Machine.execVscat o s
  | .vldbt o => Sys2Proof.Machine.execVldbt o s
  | .vtopk o => Sys2Proof.Machine.execVtopk o s
  | .vprune o => Sys2Proof.Machine.execVprune o s
  | .vcbexp o => Sys2Proof.Machine.execVcbexp o s
  | .vrng m d => Sys2Proof.Machine.execVrng m d s
  | .vclaim two => Sys2Proof.Machine.execVclaim two s
  | .vgive slotB rcv => Sys2Proof.Machine.execVgive slotB rcv s
  | .vtake => Sys2Proof.Machine.execVtake s
  | .sbind o => Sys2Proof.Machine.execSbind o s
  | .sunbind n => Sys2Proof.Machine.execSunbind n s
  | .mprobe o => Sys2Proof.Machine.execMprobe o s
  | .mins o => Sys2Proof.Machine.execMins o s
  | .mups o => Sys2Proof.Machine.execMups o s
  | .mrem o => Sys2Proof.Machine.execMrem o s
  | .minit o => Sys2Proof.Machine.execMinit o s
  | .mgrow o => Sys2Proof.Machine.execMgrow o s
  | .mstep o => Sys2Proof.Machine.execMstep o s
  | .mstat d o => Sys2Proof.Machine.execMstat d o s
  | .miter o => Sys2Proof.Machine.execMiter o s
  | .mxlease arr n => Sys2Proof.Machine.execMxlease arr n s
  | .mxfree banks => Sys2Proof.Machine.execMxfree banks s
  | .mxzero bank => Sys2Proof.Machine.execMxzero bank s
  | .mxmul o => Sys2Proof.Machine.execMxmul o s
  | .mxmulr o => Sys2Proof.Machine.execMxmulr o s
  | .mxst o => Sys2Proof.Machine.execMxst o s
  | .mxldc o => Sys2Proof.Machine.execMxldc o s
  | .mxlset d v => Sys2Proof.Machine.execMxlset d v s
  | .rowact o => Sys2Proof.Machine.execRowact o s
  | .rowtake k => Sys2Proof.Machine.execRowtake k s
  | .rowclose k => Sys2Proof.Machine.execRowclose k s
  | .rowq d k => Sys2Proof.Machine.execRowq d k s
  | .tinvAddr sc a => Sys2Proof.Machine.execTinvAddr sc a s
  | .tinvSpace sc a => Sys2Proof.Machine.execTinvSpace sc a s
  | .tinvAddrall sc a => Sys2Proof.Machine.execTinvAddrall sc a s
  | .tinvAll sc a => Sys2Proof.Machine.execTinvAll sc a s
  | .keyld o => Sys2Proof.Machine.execKeyld o s
  | .keyldClr d => Sys2Proof.Machine.execKeyldClr d s
  | .ctxsave o => Sys2Proof.Machine.execCtxsave o s
  | .ctxload o => Sys2Proof.Machine.execCtxload o s
  | .evict o => Sys2Proof.Machine.execEvict o s
  | .evictDrop d => Sys2Proof.Machine.execEvictDrop d s
  | .resume d => Sys2Proof.Machine.execResume d s
  | .resumeXfer o => Sys2Proof.Machine.execResumeXfer o s
  | .migr whole o => Sys2Proof.Machine.execMigr whole o s
  | .migrForce whole o => Sys2Proof.Machine.execMigrForce whole o s
  | .split o => Sys2Proof.Machine.execSplit o s
  | .cpgoRead d => Sys2Proof.Machine.execCpgoRead d s
  | .mbtabWrite k d => Sys2Proof.Machine.execMbtabWrite k d s
  | .faultqHeadWrite k d => Sys2Proof.Machine.execFaultqHeadWrite k d s
  | .waittExpiry => Sys2Proof.Machine.execWaittExpiry s
  | .quiescenceCollection => Sys2Proof.Machine.execQuiescenceCollection s
  | .octetGrant => Sys2Proof.Machine.execOctetGrant s
  | .streamFetch => Sys2Proof.Machine.execStreamFetch s
  | .streamWrite => Sys2Proof.Machine.execStreamWrite s
  | .mapHomeExecution => Sys2Proof.Machine.execMapHomeExecution s
  | .arrayCommand => Sys2Proof.Machine.execArrayCommand s
  | .activationSense => Sys2Proof.Machine.execActivationSense s
  | .rowReady => Sys2Proof.Machine.execRowReady s
  | .rowExpiry => Sys2Proof.Machine.execRowExpiry s
  | .latchValid => Sys2Proof.Machine.execLatchValid s
  | .bankRelease => Sys2Proof.Machine.execBankRelease s
  | .prechargeEnd => Sys2Proof.Machine.execPrechargeEnd s
  | .refreshDue => Sys2Proof.Machine.execRefreshDue s
  | .refreshBlackoutEnd => Sys2Proof.Machine.execRefreshBlackoutEnd s
  | .vaultAccess => Sys2Proof.Machine.execVaultAccess s
  | .scratchpadGrant => Sys2Proof.Machine.execScratchpadGrant s
  | .remoteAccess => Sys2Proof.Machine.execRemoteAccess s
  | .storePerform => Sys2Proof.Machine.execStorePerform s
  | .copyChunk => Sys2Proof.Machine.execCopyChunk s
  | .promiseExpiry => Sys2Proof.Machine.execPromiseExpiry s
  | .messageAdmit => Sys2Proof.Machine.execMessageAdmit s
  | .spillwayMove => Sys2Proof.Machine.execSpillwayMove s
  | .eventMessage => Sys2Proof.Machine.execEventMessage s
  | .dispatch => Sys2Proof.Machine.execDispatch s
  | .activeGather => Sys2Proof.Machine.execActiveGather s
  | .activeScatter => Sys2Proof.Machine.execActiveScatter s
  | .hostQueueWrite => Sys2Proof.Machine.execHostQueueWrite s
  | .hqptrHeadWrite => Sys2Proof.Machine.execHqptrHeadWrite s
  | .launchRecord => Sys2Proof.Machine.execLaunchRecord s
  | .launchPlace => Sys2Proof.Machine.execLaunchPlace s
  | .launchRetire => Sys2Proof.Machine.execLaunchRetire s
  | .lqkick => Sys2Proof.Machine.execLqkick s
  | .launchSlotDecide => Sys2Proof.Machine.execLaunchSlotDecide s
  | .launchSlotReread => Sys2Proof.Machine.execLaunchSlotReread s
  | .lqcfgEnable => Sys2Proof.Machine.execLqcfgEnable s
  | .hqcfgEnable => Sys2Proof.Machine.execHqcfgEnable s
  | .retentionExpiry => Sys2Proof.Machine.execRetentionExpiry s
  | .ptsplitPush => Sys2Proof.Machine.execPtsplitPush s
  | .ptsplitReplace => Sys2Proof.Machine.execPtsplitReplace s
  | .partitionCreate => Sys2Proof.Machine.execPartitionCreate s
  | .partitionDestroy => Sys2Proof.Machine.execPartitionDestroy s
  | .swapOut => Sys2Proof.Machine.execSwapOut s
  | .swapOutSave => Sys2Proof.Machine.execSwapOutSave s
  | .swapIn => Sys2Proof.Machine.execSwapIn s
  | .mrExtend => Sys2Proof.Machine.execMrExtend s
  | .registerWrite => Sys2Proof.Machine.execRegisterWrite s
  | .linkReplay => Sys2Proof.Machine.execLinkReplay s
  | .linkRetrain => Sys2Proof.Machine.execLinkRetrain s
  | .linkDown => Sys2Proof.Machine.execLinkDown s
  | .escapeMode => Sys2Proof.Machine.execEscapeMode s
  | .hostWrite => Sys2Proof.Machine.execHostWrite s
  | .hostRead => Sys2Proof.Machine.execHostRead s
  | .hostUnsupported => Sys2Proof.Machine.execHostUnsupported s
  | .hostRequestTimeout => Sys2Proof.Machine.execHostRequestTimeout s
  | .powerManagerEval => Sys2Proof.Machine.execPowerManagerEval s
  | .temperatureThreshold => Sys2Proof.Machine.execTemperatureThreshold s
  | .packageReset => Sys2Proof.Machine.execPackageReset s
  | .dramTrainingDone => Sys2Proof.Machine.execDramTrainingDone s
  | .getreport => Sys2Proof.Machine.execGetreport s
  | .setlc => Sys2Proof.Machine.execSetlc s
  | .status => Sys2Proof.Machine.execStatus s
  | .mwaitExpiry => Sys2Proof.Machine.execMwaitExpiry s
  | .successfulRetrain => Sys2Proof.Machine.execSuccessfulRetrain s
  | .laneTraining => Sys2Proof.Machine.execLaneTraining s
  | .hostCompletion => Sys2Proof.Machine.execHostCompletion s
  | .clusterSetWrite => Sys2Proof.Machine.execClusterSetWrite s

end Sys2Proof.Machine
end

