-- ==== Sys2Proof/Decode.lean ====
section
/-! DEFINITION. Decoding of chains (spec/08 R164 to R186): the gathering of lead words (R167), the opcode map (R183,
R185), the ranked decode causes (R169), and the encoder that nkas describes (R164 to R176). In this file a lead word is
what the manual calls a prefix word. -/

namespace Sys2Proof

/-! ## Lead words -/

/-- The lead words gathered so far: PI chunks in order, PR, PB and PG payloads, and their number (R166, R167). -/
structure Lead where
  pis : List (BitVec 9) := []
  pr : Option (BitVec 9) := none
  pb : Option RegNo := none
  pg : Option (BitVec 9) := none
  n : Nat := 0
deriving DecidableEq, Repr, Inhabited

/-- Why a chain does not decode, with its length in words (R212) and the word that TADDR receives (R215). -/
inductive DecodeErr where
  /-- PREFIX_MALFORMED of R167 or of rank 3 of R169. -/
  | malformed (len : Nat) (w : Half)
  /-- ILLEGAL_INSTRUCTION of rank 2 of R169. -/
  | illegal (len : Nat) (w : Half)
  /-- ILLEGAL_INSTRUCTION of rank 5 of R169, on the given page; on page 7 in user mode PRIVILEGE ranks ahead. -/
  | reserved (page : Nat) (len : Nat) (w : Half)
  /-- The words given end inside the chain. -/
  | short
deriving DecidableEq, Repr, Inhabited

/-- A decoded chain. -/
structure Chain where
  instr : Instr
  marker : Bool
  len : Nat
  base : Half
deriving DecidableEq, Repr, Inhabited

/-- What one more word makes of the lead words gathered so far. -/
inductive Gather where
  | more (p : Lead)
  | base (p : Lead) (w : Half)
  | bad (e : DecodeErr)
deriving DecidableEq, Repr, Inhabited

def isLead (w : Half) : Bool := w.extractLsb' 11 4 == 0b1110

/-- One pass of the loop of R167. -/
def Lead.step (p : Lead) (w : Half) : Gather :=
  if isLead w then
    if w.getLsbD 15 || 4 ≤ p.n then .bad (.malformed (p.n + 1) w)
    else
      match (w.extractLsb' 9 2).toNat with
      | 0 => .more { p with pis := p.pis ++ [w.extractLsb' 0 9], n := p.n + 1 }
      | 1 => if p.pr.isSome then .bad (.malformed (p.n + 1) w)
             else .more { p with pr := some (w.extractLsb' 0 9), n := p.n + 1 }
      | 2 => if p.pb.isSome || w.extractLsb' 0 2 != 0 then .bad (.malformed (p.n + 1) w)
             else .more { p with pb := some (w.extractLsb' 2 7), n := p.n + 1 }
      | _ => if p.pg.isSome then .bad (.malformed (p.n + 1) w)
             else .more { p with pg := some (w.extractLsb' 0 9), n := p.n + 1 }
  else .base p w

/-! ## Fields of a Form T chain -/

/-- Why a Form T chain that is gathered does not decode. -/
inductive Rej where
  | illegal | badLead | reserved
deriving DecidableEq, Repr, Inhabited

/-- The concatenation of the PI chunks, first chunk highest (R174). -/
def catChunks (cs : List (BitVec 9)) : Nat := cs.foldl (fun acc c => acc * 512 + c.toNat) 0

/-- A `w`-bit number sign-extended to 64 bits. -/
def sextNat (w x : Nat) : Word :=
  if x < 2 ^ (w - 1) then BitVec.ofNat 64 x else BitVec.ofNat 64 (2 ^ 64 - 2 ^ w + x)

/-- The fields of a Form T chain: 7-bit register numbers (R170), predicate select (R171), PB register (R172), PI
chunks, and the modifier bits of PG. -/
structure Flds where
  d : RegNo
  a : RegNo
  m : BitVec 3
  b : Option RegNo
  pis : List (BitVec 9)
  md : BitVec 5
deriving DecidableEq, Repr, Inhabited

namespace Flds

def immS (f : Flds) : Word := if f.pis == [] then 0 else sextNat (9 * f.pis.length) (catChunks f.pis)
def immU (f : Flds) : Word := BitVec.ofNat 64 (catChunks f.pis)
def immO (f : Flds) : Option Word := if f.pis == [] then none else some f.immS
def rr (f : Flds) : RR := ⟨f.d, f.a⟩
def ord (f : Flds) : OrderCode := f.md.extractLsb' 3 2
def sc (f : Flds) : ScopeCode := f.md.extractLsb' 0 3
def t (f : Flds) : TypeCode := f.md.extractLsb' 0 4
def var (f : Flds) : Bool := f.md.getLsbD 4
/-- The A field holds immediate bits, so PR's A high bits must be zero (R175). -/
def aLow (f : Flds) : Bool := f.a.toNat < 16
def wide4Nat (f : Flds) : Nat := catChunks f.pis * 16 + f.a.toNat % 16
def wide4 (f : Flds) : Word := sextNat (9 * f.pis.length + 4) f.wide4Nat
/-- The third operand of R173. -/
def src3 (f : Flds) (uns : Bool) : Src3 :=
  match f.b with
  | some b => .reg b
  | none => if f.pis == [] then .none else .imm (if uns then f.immU else f.immS)
def regOrImm (f : Flds) : RegOrImm := if f.pis == [] then .reg f.a else .imm f.immS
def bitWidth (f : Flds) : RegOrImm := if f.pis == [] then .reg f.a else .imm (f.immU &&& 63)
def bMask (f : Flds) : Bool := match f.b with | none => true | some b => b.toNat < 8
def lone (f : Flds) : Bool := f.b.isNone && f.pis == []

end Flds

/-- Which lead words an opcode accepts (R183, R185), whether PB and PI together have a meaning (R173), and
whether it asks for a PB. -/
structure Accept where
  pi : Bool
  pr : Bool
  pb : Bool
  g0 : Bool
  joint : Bool
  pred : Bool := false
  need : Bool := false
deriving DecidableEq, Repr, Inhabited

/-- ILL takes any chain that R167 admits. -/
def accAny : Accept := ⟨true, true, true, true, true, true, false⟩
def accNone : Accept := ⟨false, false, false, false, false, false, false⟩
def accR : Accept := ⟨false, true, false, false, false, false, false⟩
def accIR : Accept := ⟨true, true, false, false, false, false, false⟩
def accRB : Accept := ⟨false, true, true, false, false, false, false⟩
def accIRB : Accept := ⟨true, true, true, false, false, false, false⟩
def accMem : Accept := ⟨true, true, true, true, false, false, false⟩
def accBit : Accept := ⟨true, true, false, true, false, false, false⟩
def accJoint : Accept := ⟨true, true, true, false, true, false, false⟩
/-- SPAWN asks for its PB (R352). -/
def accSpawn : Accept := { accRB with need := true }
def accRm : Accept := { accR with pred := true }
def accIRm : Accept := { accIR with pred := true }
def accIRBm : Accept := { accIRB with pred := true }
def accJointm : Accept := { accJoint with pred := true }

/-- An assigned opcode: the lead words it accepts and the reading of its fields. -/
structure Row where
  acc : Accept
  build : Flds → Except Rej Instr

/-- The instruction, unless a field outside it or a field of it is reserved (rank 5 of R169). -/
def mk (c : Bool) (i : Instr) : Except Rej Instr := if c && i.wf then .ok i else .error .reserved

/-- A CSR instruction: the number is unsigned and at most 0xFFF (R175); reads of CPGO and writes of MBTAB and FAULTQ
have constructors of their own. -/
def csrInstr (f : Flds) (k : Nat) : Except Rej Instr :=
  let n := f.wide4Nat
  let csr : BitVec 12 := BitVec.ofNat 12 n
  let kind : CsrKind := if k == 1 then .write else if k == 2 then .set else .clear
  if !f.aLow || 0x1000 ≤ n then .error .reserved
  else if k == 0 then (if n == 0x035 then mk true (.cpgoRead f.d) else mk true (.csrr ⟨f.d, csr⟩))
  else if n == 0x024 then mk true (.mbtabWrite kind f.d)
  else if n == 0x420 then mk true (.faultqHeadWrite kind f.d)
  else match kind with
    | .write => mk true (.csrw ⟨f.d, csr⟩)
    | .set => mk true (.csrs ⟨f.d, csr⟩)
    | .clear => mk true (.csrc ⟨f.d, csr⟩)

/-! ## The opcode map -/

/-- OP assignments of page 0 (R183). -/
def page0 : Nat → Option Row
  | 0x00 => some ⟨accAny, fun _ => .ok .ill⟩
  | 0x01 => some ⟨accR, fun f => mk true (.mov f.rr)⟩
  | 0x02 => some ⟨accIR, fun f => mk f.aLow (.movi ⟨f.d, f.wide4⟩)⟩
  | 0x03 => some ⟨accIRB, fun f => mk true (.add ⟨f.d, f.a, f.src3 false⟩)⟩
  | 0x04 => some ⟨accIRB, fun f => mk true (.sub ⟨f.d, f.a, f.src3 false⟩)⟩
  | 0x05 => some ⟨accIRB, fun f => mk true (.and3 ⟨f.d, f.a, f.src3 false⟩)⟩
  | 0x06 => some ⟨accIRB, fun f => mk true (.or3 ⟨f.d, f.a, f.src3 false⟩)⟩
  | 0x07 => some ⟨accIRB, fun f => mk true (.xor3 ⟨f.d, f.a, f.src3 false⟩)⟩
  | 0x08 => some ⟨accIRB, fun f => mk true (.andn ⟨f.d, f.a, f.src3 false⟩)⟩
  | 0x09 => some ⟨accIRB, fun f => mk true (.shl ⟨f.d, f.a, f.src3 false⟩)⟩
  | 0x0a => some ⟨accIRB, fun f => mk true (.shr ⟨f.d, f.a, f.src3 false⟩)⟩
  | 0x0b => some ⟨accIRB, fun f => mk true (.sar ⟨f.d, f.a, f.src3 false⟩)⟩
  | 0x0c => some ⟨accIRB, fun f => mk true (.rol ⟨f.d, f.a, f.src3 false⟩)⟩
  | 0x0d => some ⟨accIRB, fun f => mk true (.mul ⟨f.d, f.a, f.src3 false⟩)⟩
  | 0x0e => some ⟨accIRB, fun f => mk true (.mulh ⟨f.d, f.a, f.src3 false⟩)⟩
  | 0x0f => some ⟨accIRB, fun f => mk true (.mulhn ⟨f.d, f.a, f.src3 true⟩)⟩
  | 0x10 => some ⟨accIRB, fun f => mk true (.sdiv ⟨f.d, f.a, f.src3 false⟩)⟩
  | 0x11 => some ⟨accIRB, fun f => mk true (.divn ⟨f.d, f.a, f.src3 true⟩)⟩
  | 0x12 => some ⟨accIRB, fun f => mk true (.rem ⟨f.d, f.a, f.src3 false⟩)⟩
  | 0x13 => some ⟨accIRB, fun f => mk true (.remn ⟨f.d, f.a, f.src3 true⟩)⟩
  | 0x14 => some ⟨accIRB, fun f => mk true (.min ⟨f.d, f.a, f.src3 false⟩)⟩
  | 0x15 => some ⟨accIRB, fun f => mk true (.max ⟨f.d, f.a, f.src3 false⟩)⟩
  | 0x16 => some ⟨accIRB, fun f => mk true (.minn ⟨f.d, f.a, f.src3 true⟩)⟩
  | 0x17 => some ⟨accIRB, fun f => mk true (.maxn ⟨f.d, f.a, f.src3 true⟩)⟩
  | 0x18 => some ⟨accIRB, fun f => mk true (.slt ⟨f.d, f.a, f.src3 false⟩)⟩
  | 0x19 => some ⟨accIRB, fun f => mk true (.sltn ⟨f.d, f.a, f.src3 true⟩)⟩
  | 0x1a => some ⟨accIRB, fun f => mk true (.seq ⟨f.d, f.a, f.src3 false⟩)⟩
  | 0x1b => some ⟨accIRB, fun f => mk true (.sel ⟨f.d, f.a, f.src3 false⟩)⟩
  | 0x1c => some ⟨accR, fun f => mk true (.clz f.rr)⟩
  | 0x1d => some ⟨accR, fun f => mk true (.ctz f.rr)⟩
  | 0x1e => some ⟨accR, fun f => mk true (.popc f.rr)⟩
  | 0x1f => some ⟨accIRB, fun f => mk true (.sext ⟨f.d, f.a, f.src3 false⟩)⟩
  | 0x20 => some ⟨accIRB, fun f => mk true (.zext ⟨f.d, f.a, f.src3 false⟩)⟩
  | 0x21 => some ⟨accIRB, fun f => mk true (.bfx ⟨f.d, f.a, f.src3 false⟩)⟩
  | 0x22 => some ⟨accIRB, fun f => mk true (.bfi ⟨f.d, f.a, f.src3 false⟩)⟩
  | 0x23 => some ⟨accR, fun f => mk true (.bswap f.rr)⟩
  | 0x24 => some ⟨accIRB, fun f => mk true (.crd ⟨f.d, f.a, f.src3 false⟩)⟩
  | 0x25 => some ⟨accIR, fun f => mk true (.self ⟨f.d, f.a, f.immO⟩)⟩
  | 0x26 => some ⟨accIRB, fun f => mk true (.clmul ⟨f.d, f.a, f.src3 false⟩)⟩
  | 0x27 => some ⟨accIRB, fun f => mk true (.clmulh ⟨f.d, f.a, f.src3 false⟩)⟩
  | 0x28 => some ⟨accMem, fun f => mk true (.ld1s ⟨f.d, f.a, f.src3 false, f.ord, f.sc⟩)⟩
  | 0x29 => some ⟨accMem, fun f => mk true (.ld1n ⟨f.d, f.a, f.src3 false, f.ord, f.sc⟩)⟩
  | 0x2a => some ⟨accMem, fun f => mk true (.ld2s ⟨f.d, f.a, f.src3 false, f.ord, f.sc⟩)⟩
  | 0x2b => some ⟨accMem, fun f => mk true (.ld2n ⟨f.d, f.a, f.src3 false, f.ord, f.sc⟩)⟩
  | 0x2c => some ⟨accMem, fun f => mk true (.ld4s ⟨f.d, f.a, f.src3 false, f.ord, f.sc⟩)⟩
  | 0x2d => some ⟨accMem, fun f => mk true (.ld4n ⟨f.d, f.a, f.src3 false, f.ord, f.sc⟩)⟩
  | 0x2e => some ⟨accMem, fun f => mk true (.ld8 ⟨f.d, f.a, f.src3 false, f.ord, f.sc⟩)⟩
  | 0x2f => some ⟨accMem, fun f => mk true (.ld16 ⟨f.d, f.a, f.src3 false, f.ord, f.sc⟩)⟩
  | 0x30 => some ⟨accMem, fun f => mk true (.st1 ⟨f.d, f.a, f.src3 false, f.ord, f.sc⟩)⟩
  | 0x31 => some ⟨accMem, fun f => mk true (.st2 ⟨f.d, f.a, f.src3 false, f.ord, f.sc⟩)⟩
  | 0x32 => some ⟨accMem, fun f => mk true (.st4 ⟨f.d, f.a, f.src3 false, f.ord, f.sc⟩)⟩
  | 0x33 => some ⟨accMem, fun f => mk true (.st8 ⟨f.d, f.a, f.src3 false, f.ord, f.sc⟩)⟩
  | 0x34 => some ⟨accMem, fun f => mk true (.st16 ⟨f.d, f.a, f.src3 false, f.ord, f.sc⟩)⟩
  | 0x35 => some ⟨accBit, fun f => mk (f.pis == [] || f.a == 0) (.ldbt ⟨f.d, f.bitWidth, f.ord, f.sc⟩)⟩
  | 0x36 => some ⟨accBit, fun f => mk (f.pis == [] || f.a == 0) (.stbt ⟨f.d, f.bitWidth, f.ord, f.sc⟩)⟩
  | 0x37 => some ⟨accIR, fun f => mk true (.setbp ⟨f.d, f.a, f.immS⟩)⟩
  | 0x38 => some ⟨accIR, fun f => mk f.aLow (.call ⟨f.d, f.wide4⟩)⟩
  | 0x39 => some ⟨accIR, fun f => mk (f.aLow && f.d == 0) (.jmp f.wide4)⟩
  | 0x3a => some ⟨accR, fun f => mk true (.jr f.rr)⟩
  | 0x3b => some ⟨accIR, fun f => mk f.aLow (.loopb ⟨f.d, f.wide4⟩)⟩
  | 0x3c => some ⟨accIR, fun f => csrInstr f 0⟩
  | 0x3d => some ⟨accIR, fun f => csrInstr f 1⟩
  | 0x3e => some ⟨accIR, fun f => csrInstr f 2⟩
  | 0x3f => some ⟨accIR, fun f => csrInstr f 3⟩
  | 0x40 => some ⟨accR, fun f => mk (f.d == 0) (.waitt f.a)⟩
  | 0x41 => some ⟨accIR, fun f => mk true (.waitph ⟨f.d, f.a, f.pis == [] || f.immU.getLsbD 0⟩)⟩
  | 0x42 => some ⟨accIR, fun f => mk (f.d == 0) (.trap ⟨f.a, f.immS.setWidth 16⟩)⟩
  | _ => none

/-- Page 1 (R185). -/
def page1 : Nat → Option Row
  | 0x01 => some ⟨accJoint, fun f => mk true (.amoadd ⟨f.d, f.a, f.b, f.immS, f.ord, f.sc⟩)⟩
  | 0x02 => some ⟨accJoint, fun f => mk true (.amoand ⟨f.d, f.a, f.b, f.immS, f.ord, f.sc⟩)⟩
  | 0x03 => some ⟨accJoint, fun f => mk true (.amoor ⟨f.d, f.a, f.b, f.immS, f.ord, f.sc⟩)⟩
  | 0x04 => some ⟨accJoint, fun f => mk true (.amoxor ⟨f.d, f.a, f.b, f.immS, f.ord, f.sc⟩)⟩
  | 0x05 => some ⟨accJoint, fun f => mk true (.amomin ⟨f.d, f.a, f.b, f.immS, f.ord, f.sc⟩)⟩
  | 0x06 => some ⟨accJoint, fun f => mk true (.amomax ⟨f.d, f.a, f.b, f.immS, f.ord, f.sc⟩)⟩
  | 0x07 => some ⟨accJoint, fun f => mk true (.amominn ⟨f.d, f.a, f.b, f.immS, f.ord, f.sc⟩)⟩
  | 0x08 => some ⟨accJoint, fun f => mk true (.amomaxn ⟨f.d, f.a, f.b, f.immS, f.ord, f.sc⟩)⟩
  | 0x09 => some ⟨accJoint, fun f => mk true (.amoswap ⟨f.d, f.a, f.b, f.immS, f.ord, f.sc⟩)⟩
  | 0x0a => some ⟨accRB, fun f => match f.b with | some b => mk true (.cas ⟨f.d, f.a, b, f.ord, f.sc⟩) | none => .error .reserved⟩
  | 0x0b => some ⟨accRB, fun f => match f.b with | some b => mk true (.casq ⟨f.d, f.a, b, f.ord, f.sc⟩) | none => .error .reserved⟩
  | 0x0c => some ⟨accJoint, fun f => mk true (.aaddz ⟨f.d, f.a, f.b, f.immS, f.ord, f.sc⟩)⟩
  | 0x0d => some ⟨accIR, fun f => mk (f.md == 0 && f.d.toNat < 2) (.pref ⟨f.d == 1, f.a, f.immS⟩)⟩
  | 0x0e => some ⟨accIR, fun f => mk (f.md == 0 && f.d.toNat < 16 && f.pis == []) (.ringcfg (f.d.setWidth 4) f.a)⟩
  | 0x0f => some ⟨accIR, fun f => mk (f.md == 0 && f.d.toNat < 16 && f.a == 0 && (f.pis == [] || f.immU.toNat < 65)) (.ringadv (f.d.setWidth 4) (if f.pis == [] then 1 else f.immU.setWidth 7))⟩
  | 0x10 => some ⟨accIR, fun f => mk (f.md == 0 && f.d.toNat < 16 && f.a == 0 && (f.pis == [] || f.immU.toNat < 65)) (.ringpop (f.d.setWidth 4) (if f.pis == [] then 1 else f.immU.setWidth 7))⟩
  | 0x11 => some ⟨accIR, fun f => mk (f.md == 0 && f.d.toNat < 16 && f.a == 0 && f.pis == []) (.ringq (f.d.setWidth 4))⟩
  | _ => none

/-- Page 2 (R185). -/
def page2 : Nat → Option Row
  | 0x01 => some ⟨accR, fun f => mk (f.md == 0) (.send f.rr)⟩
  | 0x02 => some ⟨accR, fun f => mk (f.md == 0) (.sendw f.rr)⟩
  | 0x03 => some ⟨accIR, fun f => mk (f.md == 0 && f.d == 0 && f.a == 0 && f.pis.length == 1 && f.immU.toNat < 128) (.bar (f.immU.extractLsb' 0 4) (f.immU.extractLsb' 4 3))⟩
  | 0x04 => some ⟨accIR, fun f => mk (f.sc == 0 && f.d == 0 && f.pis.length == 2 && f.immU.toNat < 16384) (.ared ⟨f.ord, f.a, f.immU.extractLsb' 0 4, f.immU.extractLsb' 4 3, f.immU.extractLsb' 7 4, f.immU.extractLsb' 11 3⟩)⟩
  | 0x05 => some ⟨accIR, fun f => mk (f.md == 0 && f.d == 0 && (f.pis == [] || f.a == 0)) (.qadd f.regOrImm)⟩
  | 0x06 => some ⟨accIR, fun f => mk (f.md == 0 && f.d == 0 && f.a == 0 && f.immU.toNat < 8) (.qwait (if f.pis == [] then none else some (f.immU.setWidth 3)))⟩
  | 0x07 => some ⟨accNone, fun f => mk (f.md == 0 && f.d == 0 && f.a == 0) .halt⟩
  | 0x08 => some ⟨accSpawn, fun f => match f.b with | some b => mk (f.md == 0) (.spawn ⟨f.d, f.a, b⟩) | none => .error .badLead⟩
  | 0x09 => some ⟨accRB, fun f => mk (f.md == 0) (.launch ⟨f.d, f.a, f.b⟩)⟩
  | 0x0a => some ⟨accR, fun f => mk (f.md == 0 && f.d == 0) (.cpwait f.a)⟩
  | 0x0b => some ⟨accR, fun f => mk (f.md == 0) (.cpq f.rr)⟩
  | 0x0c => some ⟨accR, fun f => mk (f.md == 0 && f.d == 0) (.cpabort f.a)⟩
  | _ => none

/-- Page 3 (R185). -/
def page3 : Nat → Option Row
  | 0x01 => some ⟨accIRBm, fun f => mk true (.vadd ⟨f.t, f.var, f.m, f.d, f.a, f.src3 (WF.isUnsigned f.t)⟩)⟩
  | 0x02 => some ⟨accIRBm, fun f => mk true (.vsub ⟨f.t, f.var, f.m, f.d, f.a, f.src3 (WF.isUnsigned f.t)⟩)⟩
  | 0x03 => some ⟨accIRBm, fun f => mk true (.vmul ⟨f.t, f.var, f.m, f.d, f.a, f.src3 (WF.isUnsigned f.t)⟩)⟩
  | 0x04 => some ⟨accIRBm, fun f => mk true (.vfma ⟨f.t, f.var, f.m, f.d, f.a, f.src3 (WF.isUnsigned f.t)⟩)⟩
  | 0x05 => some ⟨accIRBm, fun f => mk true (.vfms ⟨f.t, f.var, f.m, f.d, f.a, f.src3 (WF.isUnsigned f.t)⟩)⟩
  | 0x06 => some ⟨accIRBm, fun f => mk true (.vdiv ⟨f.t, f.var, f.m, f.d, f.a, f.src3 (WF.isUnsigned f.t)⟩)⟩
  | 0x07 => some ⟨accRm, fun f => mk true (.vsqrt ⟨f.t, f.var, f.m, f.d, f.a⟩)⟩
  | 0x08 => some ⟨accIRBm, fun f => mk true (.vmin ⟨f.t, f.var, f.m, f.d, f.a, f.src3 (WF.isUnsigned f.t)⟩)⟩
  | 0x09 => some ⟨accIRBm, fun f => mk true (.vmax ⟨f.t, f.var, f.m, f.d, f.a, f.src3 (WF.isUnsigned f.t)⟩)⟩
  | 0x0a => some ⟨accRm, fun f => mk true (.vabs ⟨f.t, f.var, f.m, f.d, f.a⟩)⟩
  | 0x0b => some ⟨accRm, fun f => mk true (.vneg ⟨f.t, f.var, f.m, f.d, f.a⟩)⟩
  | 0x0c => some ⟨accIRBm, fun f => mk true (.vand ⟨f.t, f.var, f.m, f.d, f.a, f.src3 (WF.isUnsigned f.t)⟩)⟩
  | 0x0d => some ⟨accIRBm, fun f => mk true (.vor ⟨f.t, f.var, f.m, f.d, f.a, f.src3 (WF.isUnsigned f.t)⟩)⟩
  | 0x0e => some ⟨accIRBm, fun f => mk true (.vxor ⟨f.t, f.var, f.m, f.d, f.a, f.src3 (WF.isUnsigned f.t)⟩)⟩
  | 0x0f => some ⟨accIRBm, fun f => mk true (.vshl ⟨f.t, f.var, f.m, f.d, f.a, f.src3 (WF.isUnsigned f.t)⟩)⟩
  | 0x10 => some ⟨accIRBm, fun f => mk true (.vshr ⟨f.t, f.var, f.m, f.d, f.a, f.src3 (WF.isUnsigned f.t)⟩)⟩
  | 0x11 => some ⟨accIRBm, fun f => mk true (.vsar ⟨f.t, f.var, f.m, f.d, f.a, f.src3 (WF.isUnsigned f.t)⟩)⟩
  | 0x12 => some ⟨accIRBm, fun f => mk (!f.var && f.d.toNat < 8) (.vcmpeq ⟨f.t, f.m, f.d.setWidth 3, f.a, f.src3 (WF.isUnsigned f.t)⟩)⟩
  | 0x13 => some ⟨accIRBm, fun f => mk (!f.var && f.d.toNat < 8) (.vcmplt ⟨f.t, f.m, f.d.setWidth 3, f.a, f.src3 (WF.isUnsigned f.t)⟩)⟩
  | 0x14 => some ⟨accIRBm, fun f => mk (!f.var && f.d.toNat < 8) (.vcmple ⟨f.t, f.m, f.d.setWidth 3, f.a, f.src3 (WF.isUnsigned f.t)⟩)⟩
  | 0x15 => some ⟨accIRBm, fun f => mk true (.vsel ⟨f.t, f.var, f.m, f.d, f.a, f.src3 (WF.isUnsigned f.t)⟩)⟩
  | 0x16 => some ⟨accIRBm, fun f => mk (f.b.isNone && f.pis.length == 1 && f.immU.toNat < 128) (.vcvt ⟨f.t, f.var, f.m, f.d, f.a, f.immU.extractLsb' 0 4, f.immU.extractLsb' 4 3⟩)⟩
  | 0x17 => some ⟨accRm, fun f => mk true (.vpopc ⟨f.t, f.var, f.m, f.d, f.a⟩)⟩
  | 0x18 => some ⟨accIRBm, fun f => mk true (.vclmul ⟨f.t, f.var, f.m, f.d, f.a, f.src3 (WF.isUnsigned f.t)⟩)⟩
  | 0x19 => some ⟨accIRBm, fun f => mk true (.vpsum ⟨f.t, f.var, f.m, f.d, f.a, f.src3 false⟩)⟩
  | 0x1a => some ⟨accRm, fun f => mk true (.vredadd ⟨f.t, f.var, f.m, f.d, f.a⟩)⟩
  | 0x1b => some ⟨accRm, fun f => mk true (.vredmin ⟨f.t, f.var, f.m, f.d, f.a⟩)⟩
  | 0x1c => some ⟨accRm, fun f => mk true (.vredmax ⟨f.t, f.var, f.m, f.d, f.a⟩)⟩
  | 0x1d => some ⟨accIRm, fun f => mk (!f.var && (f.pis == [] || f.a == 0)) (.vbcast ⟨f.t, f.m, f.d, if f.pis == [] then .reg f.a else .imm f.immS⟩)⟩
  | 0x1e => some ⟨accIRBm, fun f => mk true (.vextr ⟨f.t, f.var, f.m, f.d, f.a, f.src3 false⟩)⟩
  | 0x1f => some ⟨accIRBm, fun f => mk true (.vins ⟨f.t, f.var, f.m, f.d, f.a, f.src3 false⟩)⟩
  | 0x20 => some ⟨accIRBm, fun f => mk true (.vperm ⟨f.t, f.var, f.m, f.d, f.a, f.src3 (WF.isUnsigned f.t)⟩)⟩
  | 0x21 => some ⟨accRm, fun f => mk true (.vcompr ⟨f.t, f.var, f.m, f.d, f.a⟩)⟩
  | 0x22 => some ⟨accRm, fun f => mk true (.vexpd ⟨f.t, f.var, f.m, f.d, f.a⟩)⟩
  | 0x23 => some ⟨accRB, fun f => mk (!f.var && f.d.toNat < 8 && f.a.toNat < 8 && f.bMask) (.mkand ⟨f.t, f.d.setWidth 3, f.a.setWidth 3, f.b.map (·.setWidth 3)⟩)⟩
  | 0x24 => some ⟨accRB, fun f => mk (!f.var && f.d.toNat < 8 && f.a.toNat < 8 && f.bMask) (.mkor ⟨f.t, f.d.setWidth 3, f.a.setWidth 3, f.b.map (·.setWidth 3)⟩)⟩
  | 0x25 => some ⟨accRB, fun f => mk (!f.var && f.d.toNat < 8 && f.a.toNat < 8 && f.bMask) (.mkxor ⟨f.t, f.d.setWidth 3, f.a.setWidth 3, f.b.map (·.setWidth 3)⟩)⟩
  | 0x26 => some ⟨accR, fun f => mk (!f.var && f.d.toNat < 8 && f.a.toNat < 8) (.mknot ⟨f.t, f.d.setWidth 3, f.a.setWidth 3, none⟩)⟩
  | 0x27 => some ⟨accR, fun f => mk (!f.var && f.a.toNat < 8) (.mkpopc ⟨f.t, f.d, f.a.setWidth 3⟩)⟩
  | 0x28 => some ⟨accR, fun f => mk (!f.var && f.a.toNat < 8) (.mkfirst ⟨f.t, f.d, f.a.setWidth 3⟩)⟩
  | 0x2a => some ⟨accR, fun f => mk (!f.var && f.a.toNat < 8) (.mkget ⟨f.t, f.d, f.a.setWidth 3⟩)⟩
  | 0x29 => some ⟨accR, fun f => mk (!f.var && f.d.toNat < 8) (.mkset ⟨f.t, f.d.setWidth 3, f.a⟩)⟩
  | _ => none

/-- Page 4 (R185). -/
def page4 : Nat → Option Row
  | 0x01 => some ⟨accIRBm, fun f => mk true (.vld ⟨f.m, f.d, f.a, f.src3 false, f.ord, f.sc⟩)⟩
  | 0x02 => some ⟨accIRBm, fun f => mk true (.vst ⟨f.m, f.d, f.a, f.src3 false, f.ord, f.sc⟩)⟩
  | 0x03 => some ⟨accIRBm, fun f => mk true (.vlds ⟨f.m, f.d, f.a, f.src3 false, f.ord, f.sc⟩)⟩
  | 0x04 => some ⟨accIRBm, fun f => mk true (.vsts ⟨f.m, f.d, f.a, f.src3 false, f.ord, f.sc⟩)⟩
  | 0x05 => some ⟨accJointm, fun f => match f.b with | some b => mk (f.immU.toNat < 16) (.vgath ⟨f.m, f.d, f.a, b, f.immU.getLsbD 0, f.immU.extractLsb' 1 3, f.ord, f.sc⟩) | none => .error .reserved⟩
  | 0x06 => some ⟨accJointm, fun f => match f.b with | some b => mk (f.immU.toNat < 16) (.vscat ⟨f.m, f.d, f.a, b, f.immU.getLsbD 0, f.immU.extractLsb' 1 3, f.ord, f.sc⟩) | none => .error .reserved⟩
  | 0x07 => some ⟨accIRm, fun f => mk (!f.var && f.a == 0 && f.immU.toNat < 65) (.vldbt ⟨f.t, f.m, f.d, f.immU.setWidth 7⟩)⟩
  | 0x08 => some ⟨accIRm, fun f => mk (f.pis != [] && f.immU.toNat < 17) (.vtopk ⟨f.t, f.var, f.m, f.d, f.a, f.immU.setWidth 5⟩)⟩
  | 0x09 => some ⟨accRm, fun f => mk true (.vprune ⟨f.t, f.var, f.m, f.d, f.a⟩)⟩
  | 0x0a => some ⟨accJointm, fun f => match f.b with | some b => mk (!f.var && f.immU.toNat < 97) (.vcbexp ⟨f.t, f.m, f.d, f.a, b, f.immU.setWidth 7⟩) | none => .error .reserved⟩
  | 0x0b => some ⟨accRm, fun f => mk (f.md == 0 && f.a == 0) (.vrng f.m f.d)⟩
  | 0x0c => some ⟨accR, fun f => mk (f.md == 0 && f.d == 0 && (f.a == 1 || f.a == 2)) (.vclaim (f.a == 2))⟩
  | 0x0d => some ⟨accR, fun f => mk (f.md == 0 && f.d.toNat < 2 && (f.a.toNat < 4 || f.a == 8)) (.vgive (f.d == 1) (if f.a == 8 then none else some (f.a.setWidth 2)))⟩
  | 0x0e => some ⟨accR, fun f => mk (f.md == 0 && f.d == 0 && f.a == 0) .vtake⟩
  | 0x0f => some ⟨accIR, fun f => mk (f.md.toNat < 2 && f.d.toNat < 8) (.sbind ⟨f.d.setWidth 3, f.md == 1, f.a, f.immS⟩)⟩
  | 0x10 => some ⟨accR, fun f => mk (f.md == 0 && f.d.toNat < 8 && f.a == 0) (.sunbind (f.d.setWidth 3))⟩
  | _ => none

/-- Page 5 (R185). -/
def page5 : Nat → Option Row
  | 0x01 => some ⟨accJoint, fun f => match f.b with | some b => mk (f.md.toNat < 8) (.mprobe ⟨f.md.getLsbD 0, f.md.extractLsb' 1 2, f.d, f.a, b, f.immS⟩) | none => .error .reserved⟩
  | 0x02 => some ⟨accJoint, fun f => match f.b with | some b => mk (f.md.toNat < 8) (.mins ⟨f.md.getLsbD 0, f.md.extractLsb' 1 2, f.d, f.a, b, f.immS⟩) | none => .error .reserved⟩
  | 0x03 => some ⟨accJoint, fun f => match f.b with | some b => mk (f.md.toNat < 8) (.mups ⟨f.md.getLsbD 0, f.md.extractLsb' 1 2, f.d, f.a, b, f.immS⟩) | none => .error .reserved⟩
  | 0x04 => some ⟨accJoint, fun f => match f.b with | some b => mk (f.md.toNat < 8) (.mrem ⟨f.md.getLsbD 0, f.md.extractLsb' 1 2, f.d, f.a, b, f.immS⟩) | none => .error .reserved⟩
  | 0x05 => some ⟨accIRB, fun f => mk (f.md == 0 && f.b.isNone && f.d == 0) (.minit ⟨f.a, f.immS⟩)⟩
  | 0x06 => some ⟨accIRB, fun f => mk (f.md == 0 && f.b.isNone && f.d == 0) (.mgrow ⟨f.a, f.immS⟩)⟩
  | 0x07 => some ⟨accJoint, fun f => mk (f.md == 0 && f.d == 0) (.mstep ⟨f.a, f.b, f.immS⟩)⟩
  | 0x08 => some ⟨accIRB, fun f => mk (f.md == 0 && f.b.isNone) (.mstat f.d ⟨f.a, f.immS⟩)⟩
  | 0x09 => some ⟨accJoint, fun f => match f.b with | some b => mk (f.md.toNat < 8) (.miter ⟨f.md.getLsbD 0, f.md.extractLsb' 1 2, f.d, f.a, b, f.immS⟩) | none => .error .reserved⟩
  | _ => none

/-- Page 6 (R185). -/
def page6 : Nat → Option Row
  | 0x01 => some ⟨accIRB, fun f => mk (f.md.toNat < 8 && f.b.isNone && f.d == 0 && f.a == 0 && f.immU.toNat < 65) (.mxlease (if f.md.getLsbD 2 then some (f.md.extractLsb' 0 2) else none) (if f.pis == [] then 1 else f.immU.setWidth 7))⟩
  | 0x02 => some ⟨accIRB, fun f => mk (f.md.toNat < 4 && f.lone && f.d == 0 && f.a == 0) (.mxfree (f.md.setWidth 2))⟩
  | 0x03 => some ⟨accIRB, fun f => mk (f.md.toNat < 2 && f.lone && f.d == 0 && f.a == 0) (.mxzero (f.md == 1))⟩
  | 0x04 => some ⟨accIRB, fun f => mk (f.md.toNat < 4 && f.b.isNone && f.pis != [] && f.d == 0 && f.immU.toNat < 256) (.mxmul ⟨f.md.getLsbD 0, f.md.getLsbD 1, f.a, f.immU.extractLsb' 0 4, f.immU.extractLsb' 4 4⟩)⟩
  | 0x05 => some ⟨accIRB, fun f => mk (f.md.toNat < 4 && f.b.isNone && f.pis != [] && f.d == 0 && f.immU.toNat < 256) (.mxmulr ⟨f.md.getLsbD 0, f.md.getLsbD 1, f.a, f.immU.extractLsb' 0 4, f.immU.extractLsb' 4 2, f.immU.extractLsb' 6 2⟩)⟩
  | 0x06 => some ⟨accIRB, fun f => match f.b with | some b => mk (f.md.toNat < 4 && f.d == 0) (.mxst ⟨f.md.getLsbD 0, f.md.getLsbD 1, f.a, b⟩) | none => .error .reserved⟩
  | 0x07 => some ⟨accIRB, fun f => match f.b with | some b => mk (f.md.toNat < 2 && f.d == 0) (.mxldc ⟨f.md.getLsbD 0, false, f.a, b⟩) | none => .error .reserved⟩
  | 0x08 => some ⟨accIRB, fun f => mk (f.md == 0 && f.b.isNone && (f.pis == [] || f.a == 0)) (.mxlset f.d (if f.pis == [] then .reg f.a else .imm f.immU))⟩
  | 0x09 => some ⟨accIRB, fun f => mk (f.md.toNat < 4 && f.b.isNone) (.rowact ⟨f.md.setWidth 2, f.d, f.a, f.immS⟩)⟩
  | 0x0a => some ⟨accIRB, fun f => mk (f.md.toNat < 4 && f.lone && f.d == 0 && f.a == 0) (.rowtake (f.md.setWidth 2))⟩
  | 0x0b => some ⟨accIRB, fun f => mk (f.md.toNat < 4 && f.lone && f.d == 0 && f.a == 0) (.rowclose (f.md.setWidth 2))⟩
  | 0x0c => some ⟨accIRB, fun f => mk (f.md.toNat < 4 && f.lone && f.a == 0) (.rowq f.d (f.md.setWidth 2))⟩
  | _ => none

/-- Page 7 (R185). -/
def page7 : Nat → Option Row
  | 0x01 => some ⟨accR, fun f => mk (f.d == 0) (match f.ord.toNat with | 0 => .tinvAddr f.sc f.a | 1 => .tinvSpace f.sc f.a | 2 => .tinvAddrall f.sc f.a | _ => .tinvAll f.sc f.a)⟩
  | 0x02 => some ⟨accR, fun f => mk (f.md.toNat < 2 && (f.md == 0 || f.a == 0)) (if f.md == 1 then .keyldClr f.d else .keyld f.rr)⟩
  | 0x03 => some ⟨accR, fun f => mk (f.md == 0) (.ctxsave f.rr)⟩
  | 0x04 => some ⟨accR, fun f => mk (f.md == 0) (.ctxload f.rr)⟩
  | 0x05 => some ⟨accR, fun f => mk (f.md.toNat < 2 && (f.md == 0 || f.a == 0)) (if f.md == 1 then .evictDrop f.d else .evict f.rr)⟩
  | 0x06 => some ⟨accR, fun f => mk (f.md.toNat < 2 && (f.md == 1 || f.a == 0)) (if f.md == 1 then .resumeXfer f.rr else .resume f.d)⟩
  | 0x07 => some ⟨accR, fun f => mk (f.md.toNat < 4) (if f.md.getLsbD 0 then .migrForce (f.md.getLsbD 1) f.rr else .migr (f.md.getLsbD 1) f.rr)⟩
  | 0x08 => some ⟨accR, fun f => mk (f.md == 0) (.split f.rr)⟩
  | _ => none

/-- The pages a Form T base word can stand on (R177). -/
def pageRow (page op : Nat) : Option Row :=
  match page with
  | 0 => page0 op
  | 1 => page1 op
  | 2 => page2 op
  | 3 => page3 op
  | 4 => page4 op
  | 5 => page5 op
  | 6 => page6 op
  | 7 => page7 op
  | _ => none

def Lead.page (p : Lead) : Nat := match p.pg with | none => 0 | some g => (g.extractLsb' 5 4).toNat

/-- A Form T base word under its lead words, by the ranks of R169. -/
def decodeT (p : Lead) (w : Half) : Except Rej Instr :=
  match pageRow p.page (w.extractLsb' 8 7).toNat with
  | none => .error .illegal
  | some row =>
    let pr := p.pr.getD 0
    let f : Flds :=
      { d := pr.extractLsb' 6 3 ++ w.extractLsb' 4 4, a := pr.extractLsb' 3 3 ++ w.extractLsb' 0 4,
        m := pr.extractLsb' 0 3, b := p.pb, pis := p.pis, md := (p.pg.getD 0).extractLsb' 0 5 }
    if (!row.acc.pi && p.pis != []) || (!row.acc.pr && p.pr.isSome) || (!row.acc.pb && p.pb.isSome)
        || (p.page == 0 && !row.acc.g0 && p.pg.isSome)
        || (!row.acc.joint && p.pb.isSome && p.pis != []) || (row.acc.need && p.pb.isNone) then .error .badLead
    else if !row.acc.pred && f.m != 0 then .error .reserved
    else row.build f

/-- A Form J base word (R176, R201). -/
def decodeJ (p : Lead) (w : Half) : Except Rej Instr :=
  let disp := sextNat (9 * p.pis.length + 8) (catChunks p.pis * 256 + (w.extractLsb' 0 8).toNat)
  match (w.extractLsb' 8 4).toNat with
  | 0 => .ok (.bz disp)
  | 1 => .ok (.bnz disp)
  | 2 => .ok (.bn disp)
  | 3 => .ok (.bnn disp)
  | 4 => .ok (.bp disp)
  | 5 => .ok (.bnp disp)
  | 6 => .ok (.bbs disp)
  | 7 => .ok (.bbc disp)
  | 8 => .ok (.bmany disp)
  | 9 => .ok (.bmnone disp)
  | 15 => .ok (.bal disp)
  | _ => .error .illegal

/-- A Form Z base word (R183, R223). -/
def decodeZ (w : Half) : Except Rej Instr :=
  match (w.extractLsb' 0 11).toNat with
  | 0 => .ok .nop
  | 1 => .ok .hret
  | 2 => .ok .yield
  | 3 => .ok .eret
  | 4 => .ok .ueret
  | 5 => .ok .ebreak
  | 6 => .ok .wfe
  | 7 => .ok .syncf
  | n =>
    if 0x100 ≤ n && n < 0x200 then
      let sc : ScopeCode := w.extractLsb' 0 3
      if w.extractLsb' 3 3 != 0 || 6 ≤ sc.toNat then .error .reserved
      else match (w.extractLsb' 6 2).toNat with
        | 0 => .ok (.fenceFull sc)
        | 1 => .ok (.fenceAcq sc)
        | 2 => .ok (.fenceRel sc)
        | _ => .ok (.fenceEng sc)
    else .error .illegal

/-- The base word under its lead words (R164, R167, R169). -/
def decodeBase (p : Lead) (w : Half) : Except DecodeErr Chain :=
  let j := w.extractLsb' 12 3 == 0b110
  let z := w.extractLsb' 11 4 == 0b1111
  let len := p.n + 1
  if (j && (p.pr.isSome || p.pb.isSome || p.pg.isSome)) || (z && 0 < p.n) then .error (.malformed len w)
  else
    match (if j then decodeJ p w else if z then decodeZ w else decodeT p w) with
    | .ok i => .ok ⟨i, w.getLsbD 15, len, w⟩
    | .error .illegal => .error (.illegal len w)
    | .error .badLead => .error (.malformed len w)
    | .error .reserved => .error (.reserved p.page len w)

/-- The chain at the head of a list of words, whatever the words are. -/
def decodeFrom (p : Lead) : List Half → Except DecodeErr Chain
  | [] => .error .short
  | w :: ws =>
    match p.step w with
    | .more p' => decodeFrom p' ws
    | .base p' w' => decodeBase p' w'
    | .bad e => .error e

def decodeWords (ws : List Half) : Except DecodeErr Chain := decodeFrom {} ws

/-- The 16-bit words of a list of bytes, little-endian (R5); an odd last byte is dropped. -/
def halves : List Byte → List Half
  | lo :: hi :: rest => (hi ++ lo) :: halves rest
  | _ => []

/-- The decoder on bytes as they lie in memory: total, and it refuses by name. -/
def decode (bytes : List Byte) : Except DecodeErr Chain := decodeWords (halves bytes)

/-- The words of a table row's `nbits` bits. The rows of the table that have two words write the lead word in the high
half (HALT: 0x7640 in bits 31:16), so the word of the lowest address is the highest one (log 6). -/
def tableWords (nbits w : Nat) : List Half :=
  let n := (nbits + 15) / 16
  (List.range n).map fun k => BitVec.ofNat 16 (w / 2 ^ (16 * (n - 1 - k)))

/-- The two bytes of a word in memory order. -/
def halfBytes (h : Half) : List Byte := [h.extractLsb' 0 8, h.extractLsb' 8 8]

def wordBytes (ws : List Half) : List Byte := ws.flatMap halfBytes

/-- The instruction the decoder reads from the bits of a table row. -/
def decodeTableWord (nbits w : Nat) : Option Instr :=
  match decode (wordBytes (tableWords nbits w)) with
  | .ok c => some c.instr
  | .error _ => none

/-! ## The encoder -/

/-- `n` PI chunks of the low 9n bits of `v`, first chunk highest (R174). -/
def chunksN (n : Nat) (v : Word) : List (BitVec 9) :=
  (List.range n).map fun k => v.extractLsb' (9 * (n - 1 - k)) 9

/-- The fewest chunks that hold `v`, signed and unsigned; an offset of 0 takes none. -/
def chunksS (v : Word) : List (BitVec 9) :=
  if WF.immS 1 v then chunksN 1 v else if WF.immS 2 v then chunksN 2 v
  else if WF.immS 3 v then chunksN 3 v else chunksN 4 v
def chunksU (v : Word) : List (BitVec 9) :=
  if WF.immU 1 v then chunksN 1 v else if WF.immU 2 v then chunksN 2 v
  else if WF.immU 3 v then chunksN 3 v else chunksN 4 v
def chunksO (v : Word) : List (BitVec 9) := if v == 0 then [] else chunksS v

/-- The chunks above the low `k` bits that the base word holds (R175, R176). -/
def chunksAbove (k : Nat) (v : Word) : List (BitVec 9) :=
  let hi := v >>> k
  if WF.fitsSigned k v then [] else if WF.fitsSigned (9 + k) v then chunksN 1 hi
  else if WF.fitsSigned (18 + k) v then chunksN 2 hi
  else if WF.fitsSigned (27 + k) v then chunksN 3 hi else chunksN 4 hi

def RegOrImm.regOr0 : RegOrImm → RegNo | .reg a => a | .imm _ => 0
def RegOrImm.immChunks (uns : Bool) : RegOrImm → List (BitVec 9)
  | .reg _ => []
  | .imm v => if uns then chunksU v else chunksS v

/-- A Form T chain before its lead words are laid out. -/
structure EncT where
  pg : Option (BitVec 9)
  op : BitVec 7
  d : RegNo
  a : RegNo
  m : BitVec 3 := 0
  b : Option RegNo := none
  pis : List (BitVec 9) := []
deriving DecidableEq, Repr, Inhabited

inductive Enc where
  | t (e : EncT)
  | j (cond : BitVec 4) (disp : Word)
  | z (sub : BitVec 11)
deriving DecidableEq, Repr, Inhabited

namespace Enc

def t0 (op : BitVec 7) (d a : RegNo) : EncT := { pg := none, op := op, d := d, a := a }
def tp (page : BitVec 4) (md : BitVec 5) (op : BitVec 7) (d a : RegNo) : EncT :=
  { pg := some (page ++ md), op := op, d := d, a := a }
def third (uns : Bool) (y : Src3) (e : EncT) : EncT :=
  match y with
  | .none => e
  | .reg b => { e with b := some b }
  | .imm v => { e with pis := if uns then chunksU v else chunksS v }
def alu (op : BitVec 7) (uns : Bool) (o : Alu) : EncT := third uns o.y (t0 op o.d o.a)
def wide (op : BitVec 7) (d : RegNo) (v : Word) : EncT :=
  { t0 op d ((0 : BitVec 3) ++ v.extractLsb' 0 4) with pis := chunksAbove 4 v }
def mem (op : BitVec 7) (o : MemOp) : EncT :=
  third false o.off { t0 op o.d o.a with pg := if o.ord == 0 then none else some ((0 : BitVec 4) ++ o.ord ++ o.sc) }
def bitop (op : BitVec 7) (o : BitOp) : EncT :=
  { t0 op o.d o.w.regOr0 with
    pg := if o.ord == 0 then none else some ((0 : BitVec 4) ++ o.ord ++ o.sc)
    pis := match o.w with | .reg _ => [] | .imm v => [v.extractLsb' 0 9] }
def csrOp : CsrKind → BitVec 7 | .write => 0x3d | .set => 0x3e | .clear => 0x3f
def csr (op : BitVec 7) (d : RegNo) (n : BitVec 12) : EncT :=
  { t0 op d ((0 : BitVec 3) ++ n.extractLsb' 0 4) with
    pis := if n.extractLsb' 4 8 == 0 then [] else [(0 : BitVec 1) ++ n.extractLsb' 4 8] }
def amo (op : BitVec 7) (o : AmoOp) : EncT :=
  { tp 1 (o.ord ++ o.sc) op o.d o.a with b := o.v, pis := chunksO o.off }
def vmod (var : Bool) (ty : TypeCode) : BitVec 5 := (if var then (1 : BitVec 1) else 0) ++ ty
def two (hi lo : Bool) : BitVec 5 := (if hi then 2 else 0) ||| (if lo then 1 else 0)
def vun (op : BitVec 7) (o : VUn) : EncT := { tp 3 (vmod o.var o.t) op o.d o.a with m := o.m }
def vop (op : BitVec 7) (uns : Bool) (o : VOp) : EncT :=
  third uns o.y { tp 3 (vmod o.var o.t) op o.d o.a with m := o.m }
def mk3 (op : BitVec 7) (o : MkOp) : EncT :=
  { tp 3 (vmod false o.t) op (o.d.setWidth 7) (o.a.setWidth 7) with b := o.b.map (·.setWidth 7) }
def vmem (op : BitVec 7) (o : VMem) : EncT := third false o.off { tp 4 (o.ord ++ o.sc) op o.d o.a with m := o.m }
def vgat (op : BitVec 7) (o : VGat) : EncT :=
  { tp 4 (o.ord ++ o.sc) op o.d o.a with
    m := o.m, b := some o.b
    pis := if !o.w4 && o.sh == 0 then [] else [(0 : BitVec 5) ++ o.sh ++ (if o.w4 then (1 : BitVec 1) else 0)] }
def mapKey (op : BitVec 7) (o : MapKey) : EncT :=
  { tp 5 ((0 : BitVec 2) ++ o.vf ++ (if o.k16 then (1 : BitVec 1) else 0)) op o.d o.a with
    b := some o.b, pis := chunksO o.off }

end Enc

open Enc in
/-- The encoding of an instruction, from R164 to R185 and each description; steps of units have none. -/
def Instr.enc : Instr → Option Enc
  | .ill => some (.t (t0 0x00 0 0))
  | .mov o => some (.t (t0 0x01 o.d o.a))
  | .movi o => some (.t (wide 0x02 o.d o.imm))
  | .add o => some (.t (alu 0x03 false o))
  | .sub o => some (.t (alu 0x04 false o))
  | .and3 o => some (.t (alu 0x05 false o))
  | .or3 o => some (.t (alu 0x06 false o))
  | .xor3 o => some (.t (alu 0x07 false o))
  | .andn o => some (.t (alu 0x08 false o))
  | .shl o => some (.t (alu 0x09 false o))
  | .shr o => some (.t (alu 0x0a false o))
  | .sar o => some (.t (alu 0x0b false o))
  | .rol o => some (.t (alu 0x0c false o))
  | .mul o => some (.t (alu 0x0d false o))
  | .mulh o => some (.t (alu 0x0e false o))
  | .mulhn o => some (.t (alu 0x0f true o))
  | .sdiv o => some (.t (alu 0x10 false o))
  | .divn o => some (.t (alu 0x11 true o))
  | .rem o => some (.t (alu 0x12 false o))
  | .remn o => some (.t (alu 0x13 true o))
  | .min o => some (.t (alu 0x14 false o))
  | .max o => some (.t (alu 0x15 false o))
  | .minn o => some (.t (alu 0x16 true o))
  | .maxn o => some (.t (alu 0x17 true o))
  | .slt o => some (.t (alu 0x18 false o))
  | .sltn o => some (.t (alu 0x19 true o))
  | .seq o => some (.t (alu 0x1a false o))
  | .sel o => some (.t (alu 0x1b false o))
  | .clz o => some (.t (t0 0x1c o.d o.a))
  | .ctz o => some (.t (t0 0x1d o.d o.a))
  | .popc o => some (.t (t0 0x1e o.d o.a))
  | .sext o => some (.t (alu 0x1f false o))
  | .zext o => some (.t (alu 0x20 false o))
  | .bfx o => some (.t (alu 0x21 false o))
  | .bfi o => some (.t (alu 0x22 false o))
  | .bswap o => some (.t (t0 0x23 o.d o.a))
  | .crd o => some (.t (alu 0x24 false o))
  | .self o => some (.t ({ t0 0x25 o.d o.a with pis := match o.imm with | none => [] | some v => chunksS v }))
  | .clmul o => some (.t (alu 0x26 false o))
  | .clmulh o => some (.t (alu 0x27 false o))
  | .ld1s o => some (.t (mem 0x28 o))
  | .ld1n o => some (.t (mem 0x29 o))
  | .ld2s o => some (.t (mem 0x2a o))
  | .ld2n o => some (.t (mem 0x2b o))
  | .ld4s o => some (.t (mem 0x2c o))
  | .ld4n o => some (.t (mem 0x2d o))
  | .ld8 o => some (.t (mem 0x2e o))
  | .ld16 o => some (.t (mem 0x2f o))
  | .st1 o => some (.t (mem 0x30 o))
  | .st2 o => some (.t (mem 0x31 o))
  | .st4 o => some (.t (mem 0x32 o))
  | .st8 o => some (.t (mem 0x33 o))
  | .st16 o => some (.t (mem 0x34 o))
  | .ldbt o => some (.t (bitop 0x35 o))
  | .stbt o => some (.t (bitop 0x36 o))
  | .setbp o => some (.t ({ t0 0x37 o.d o.a with pis := chunksO o.imm }))
  | .call o => some (.t (wide 0x38 o.d o.disp))
  | .jmp v => some (.t (wide 0x39 0 v))
  | .jr o => some (.t (t0 0x3a o.d o.a))
  | .loopb o => some (.t (wide 0x3b o.d o.disp))
  | .csrr o => some (.t (csr 0x3c o.d o.csr))
  | .csrw o => some (.t (csr 0x3d o.d o.csr))
  | .csrs o => some (.t (csr 0x3e o.d o.csr))
  | .csrc o => some (.t (csr 0x3f o.d o.csr))
  | .cpgoRead d => some (.t (csr 0x3c d 0x035))
  | .mbtabWrite k d => some (.t (csr (csrOp k) d 0x024))
  | .faultqHeadWrite k d => some (.t (csr (csrOp k) d 0x420))
  | .waitt a => some (.t (t0 0x40 0 a))
  | .waitph o => some (.t ({ t0 0x41 o.d o.a with pis := if o.p then [] else [0] }))
  | .trap o => some (.t ({ t0 0x42 0 o.a with pis := if o.code == 0 then [] else chunksS (o.code.setWidth 64) }))
  | .amoadd o => some (.t (amo 0x01 o))
  | .amoand o => some (.t (amo 0x02 o))
  | .amoor o => some (.t (amo 0x03 o))
  | .amoxor o => some (.t (amo 0x04 o))
  | .amomin o => some (.t (amo 0x05 o))
  | .amomax o => some (.t (amo 0x06 o))
  | .amominn o => some (.t (amo 0x07 o))
  | .amomaxn o => some (.t (amo 0x08 o))
  | .amoswap o => some (.t (amo 0x09 o))
  | .cas o => some (.t ({ tp 1 (o.ord ++ o.sc) 0x0a o.d o.a with b := some o.b }))
  | .casq o => some (.t ({ tp 1 (o.ord ++ o.sc) 0x0b o.d o.a with b := some o.b }))
  | .aaddz o => some (.t (amo 0x0c o))
  | .pref o => some (.t ({ tp 1 0 0x0d (if o.stage then 1 else 0) o.a with pis := chunksO o.off }))
  | .ringcfg q a => some (.t (tp 1 0 0x0e (q.setWidth 7) a))
  | .ringadv q n => some (.t ({ tp 1 0 0x0f (q.setWidth 7) 0 with pis := if n == 1 then [] else [n.setWidth 9] }))
  | .ringpop q n => some (.t ({ tp 1 0 0x10 (q.setWidth 7) 0 with pis := if n == 1 then [] else [n.setWidth 9] }))
  | .ringq q => some (.t (tp 1 0 0x11 (q.setWidth 7) 0))
  | .send o => some (.t (tp 2 0 0x01 o.d o.a))
  | .sendw o => some (.t (tp 2 0 0x02 o.d o.a))
  | .bar n l => some (.t ({ tp 2 0 0x03 0 0 with pis := [(0 : BitVec 2) ++ l ++ n] }))
  | .ared o => some (.t ({ tp 2 (o.op ++ (0 : BitVec 3)) 0x04 0 o.a with pis := chunksN 2 (((0 : BitVec 50) ++ o.w1 ++ o.t ++ o.l ++ o.n : BitVec 64)) }))
  | .qadd v => some (.t ({ tp 2 0 0x05 0 v.regOr0 with pis := v.immChunks false }))
  | .qwait l => some (.t ({ tp 2 0 0x06 0 0 with pis := match l with | none => [] | some l => [l.setWidth 9] }))
  | .halt => some (.t (tp 2 0 0x07 0 0))
  | .spawn o => some (.t ({ tp 2 0 0x08 o.d o.a with b := some o.b }))
  | .launch o => some (.t ({ tp 2 0 0x09 o.d o.a with b := o.b }))
  | .cpwait a => some (.t (tp 2 0 0x0a 0 a))
  | .cpq o => some (.t (tp 2 0 0x0b o.d o.a))
  | .cpabort a => some (.t (tp 2 0 0x0c 0 a))
  | .vadd o => some (.t (vop 0x01 (WF.isUnsigned o.t) o))
  | .vsub o => some (.t (vop 0x02 (WF.isUnsigned o.t) o))
  | .vmul o => some (.t (vop 0x03 (WF.isUnsigned o.t) o))
  | .vfma o => some (.t (vop 0x04 (WF.isUnsigned o.t) o))
  | .vfms o => some (.t (vop 0x05 (WF.isUnsigned o.t) o))
  | .vdiv o => some (.t (vop 0x06 (WF.isUnsigned o.t) o))
  | .vsqrt o => some (.t (vun 0x07 o))
  | .vmin o => some (.t (vop 0x08 (WF.isUnsigned o.t) o))
  | .vmax o => some (.t (vop 0x09 (WF.isUnsigned o.t) o))
  | .vabs o => some (.t (vun 0x0a o))
  | .vneg o => some (.t (vun 0x0b o))
  | .vand o => some (.t (vop 0x0c (WF.isUnsigned o.t) o))
  | .vor o => some (.t (vop 0x0d (WF.isUnsigned o.t) o))
  | .vxor o => some (.t (vop 0x0e (WF.isUnsigned o.t) o))
  | .vshl o => some (.t (vop 0x0f (WF.isUnsigned o.t) o))
  | .vshr o => some (.t (vop 0x10 (WF.isUnsigned o.t) o))
  | .vsar o => some (.t (vop 0x11 (WF.isUnsigned o.t) o))
  | .vcmpeq o => some (.t (third (WF.isUnsigned o.t) o.y { tp 3 (vmod false o.t) 0x12 (o.d.setWidth 7) o.a with m := o.m }))
  | .vcmplt o => some (.t (third (WF.isUnsigned o.t) o.y { tp 3 (vmod false o.t) 0x13 (o.d.setWidth 7) o.a with m := o.m }))
  | .vcmple o => some (.t (third (WF.isUnsigned o.t) o.y { tp 3 (vmod false o.t) 0x14 (o.d.setWidth 7) o.a with m := o.m }))
  | .vsel o => some (.t (vop 0x15 (WF.isUnsigned o.t) o))
  | .vcvt o => some (.t ({ tp 3 (vmod o.rz o.t) 0x16 o.d o.a with m := o.m, pis := [(0 : BitVec 2) ++ o.part ++ o.src] }))
  | .vpopc o => some (.t (vun 0x17 o))
  | .vclmul o => some (.t (vop 0x18 (WF.isUnsigned o.t) o))
  | .vpsum o => some (.t (vop 0x19 false o))
  | .vredadd o => some (.t (vun 0x1a o))
  | .vredmin o => some (.t (vun 0x1b o))
  | .vredmax o => some (.t (vun 0x1c o))
  | .vbcast o => some (.t ({ tp 3 (vmod false o.t) 0x1d o.d o.v.regOr0 with m := o.m, pis := o.v.immChunks false }))
  | .vextr o => some (.t (vop 0x1e false o))
  | .vins o => some (.t (vop 0x1f false o))
  | .vperm o => some (.t (vop 0x20 (WF.isUnsigned o.t) o))
  | .vcompr o => some (.t (vun 0x21 o))
  | .vexpd o => some (.t (vun 0x22 o))
  | .mkand o => some (.t (mk3 0x23 o))
  | .mkor o => some (.t (mk3 0x24 o))
  | .mkxor o => some (.t (mk3 0x25 o))
  | .mknot o => some (.t (mk3 0x26 o))
  | .mkpopc o => some (.t (tp 3 (vmod false o.t) 0x27 o.d (o.a.setWidth 7)))
  | .mkfirst o => some (.t (tp 3 (vmod false o.t) 0x28 o.d (o.a.setWidth 7)))
  | .mkget o => some (.t (tp 3 (vmod false o.t) 0x2a o.d (o.a.setWidth 7)))
  | .mkset o => some (.t (tp 3 (vmod false o.t) 0x29 (o.d.setWidth 7) o.a))
  | .vld o => some (.t (vmem 0x01 o))
  | .vst o => some (.t (vmem 0x02 o))
  | .vlds o => some (.t (vmem 0x03 o))
  | .vsts o => some (.t (vmem 0x04 o))
  | .vgath o => some (.t (vgat 0x05 o))
  | .vscat o => some (.t (vgat 0x06 o))
  | .vldbt o => some (.t ({ tp 4 (vmod false o.t) 0x07 o.d 0 with m := o.m, pis := [o.w.setWidth 9] }))
  | .vtopk o => some (.t ({ tp 4 (vmod o.nz o.t) 0x08 o.d o.a with m := o.m, pis := [o.k.setWidth 9] }))
  | .vprune o => some (.t ({ tp 4 (vmod o.var o.t) 0x09 o.d o.a with m := o.m }))
  | .vcbexp o => some (.t ({ tp 4 (vmod false o.t) 0x0a o.d o.a with m := o.m, b := some o.b, pis := if o.j == 0 then [] else [o.j.setWidth 9] }))
  | .vrng m d => some (.t ({ tp 4 0 0x0b d 0 with m := m }))
  | .vclaim two => some (.t (tp 4 0 0x0c 0 (if two then 2 else 1)))
  | .vgive s h => some (.t (tp 4 0 0x0d (if s then 1 else 0) (match h with | none => 8 | some h => h.setWidth 7)))
  | .vtake => some (.t (tp 4 0 0x0e 0 0))
  | .sbind o => some (.t ({ tp 4 (if o.wr then 1 else 0) 0x0f (o.n.setWidth 7) o.a with pis := chunksO o.off }))
  | .sunbind n => some (.t (tp 4 0 0x10 (n.setWidth 7) 0))
  | .mprobe o => some (.t (mapKey 0x01 o))
  | .mins o => some (.t (mapKey 0x02 o))
  | .mups o => some (.t (mapKey 0x03 o))
  | .mrem o => some (.t (mapKey 0x04 o))
  | .miter o => some (.t (mapKey 0x09 o))
  | .minit o => some (.t ({ tp 5 0 0x05 0 o.a with pis := chunksO o.off }))
  | .mgrow o => some (.t ({ tp 5 0 0x06 0 o.a with pis := chunksO o.off }))
  | .mstep o => some (.t ({ tp 5 0 0x07 0 o.a with b := o.b, pis := chunksO o.off }))
  | .mstat d o => some (.t ({ tp 5 0 0x08 d o.a with pis := chunksO o.off }))
  | .mxlease k n => some (.t ({ tp 6 (match k with | none => 0 | some k => (1 : BitVec 3) ++ k) 0x01 0 0 with pis := if n == 1 then [] else [n.setWidth 9] }))
  | .mxfree b => some (.t (tp 6 (b.setWidth 5) 0x02 0 0))
  | .mxzero b => some (.t (tp 6 (if b then 1 else 0) 0x03 0 0))
  | .mxmul o => some (.t ({ tp 6 (two o.rep o.bank) 0x04 0 o.a with pis := [(0 : BitVec 1) ++ o.qb ++ o.qa] }))
  | .mxmulr o => some (.t ({ tp 6 (two o.rep o.bank) 0x05 0 o.a with pis := [(0 : BitVec 1) ++ o.chunk ++ o.slot ++ o.qa] }))
  | .mxst o => some (.t ({ tp 6 (two o.bf16 o.bank) 0x06 0 o.a with b := some o.b }))
  | .mxldc o => some (.t ({ tp 6 (two false o.bank) 0x07 0 o.a with b := some o.b }))
  | .mxlset d v => some (.t ({ tp 6 0 0x08 d v.regOr0 with pis := v.immChunks true }))
  | .rowact o => some (.t ({ tp 6 (o.k.setWidth 5) 0x09 o.d o.a with pis := chunksO o.off }))
  | .rowtake k => some (.t (tp 6 (k.setWidth 5) 0x0a 0 0))
  | .rowclose k => some (.t (tp 6 (k.setWidth 5) 0x0b 0 0))
  | .rowq d k => some (.t (tp 6 (k.setWidth 5) 0x0c d 0))
  | .tinvAddr sc a => some (.t (tp 7 ((0 : BitVec 2) ++ sc) 0x01 0 a))
  | .tinvSpace sc a => some (.t (tp 7 ((1 : BitVec 2) ++ sc) 0x01 0 a))
  | .tinvAddrall sc a => some (.t (tp 7 ((2 : BitVec 2) ++ sc) 0x01 0 a))
  | .tinvAll sc a => some (.t (tp 7 ((3 : BitVec 2) ++ sc) 0x01 0 a))
  | .keyld o => some (.t (tp 7 0 0x02 o.d o.a))
  | .keyldClr d => some (.t (tp 7 1 0x02 d 0))
  | .ctxsave o => some (.t (tp 7 0 0x03 o.d o.a))
  | .ctxload o => some (.t (tp 7 0 0x04 o.d o.a))
  | .evict o => some (.t (tp 7 0 0x05 o.d o.a))
  | .evictDrop d => some (.t (tp 7 1 0x05 d 0))
  | .resume d => some (.t (tp 7 0 0x06 d 0))
  | .resumeXfer o => some (.t (tp 7 1 0x06 o.d o.a))
  | .migr w o => some (.t (tp 7 (two w false) 0x07 o.d o.a))
  | .migrForce w o => some (.t (tp 7 (two w true) 0x07 o.d o.a))
  | .split o => some (.t (tp 7 0 0x08 o.d o.a))
  | .bz v => some (.j 0 v)
  | .bnz v => some (.j 1 v)
  | .bn v => some (.j 2 v)
  | .bnn v => some (.j 3 v)
  | .bp v => some (.j 4 v)
  | .bnp v => some (.j 5 v)
  | .bbs v => some (.j 6 v)
  | .bbc v => some (.j 7 v)
  | .bmany v => some (.j 8 v)
  | .bmnone v => some (.j 9 v)
  | .bal v => some (.j 15 v)
  | .nop => some (.z 0)
  | .hret => some (.z 1)
  | .yield => some (.z 2)
  | .eret => some (.z 3)
  | .ueret => some (.z 4)
  | .ebreak => some (.z 5)
  | .wfe => some (.z 6)
  | .syncf => some (.z 7)
  | .fenceFull sc => some (.z ((0b001 : BitVec 3) ++ (0 : BitVec 2) ++ (0 : BitVec 3) ++ sc))
  | .fenceAcq sc => some (.z ((0b001 : BitVec 3) ++ (1 : BitVec 2) ++ (0 : BitVec 3) ++ sc))
  | .fenceRel sc => some (.z ((0b001 : BitVec 3) ++ (2 : BitVec 2) ++ (0 : BitVec 3) ++ sc))
  | .fenceEng sc => some (.z ((0b001 : BitVec 3) ++ (3 : BitVec 2) ++ (0 : BitVec 3) ++ sc))
  | _ => none

/-- The words of a chain in the order nkas emits: PG, PR, PB, PI, base word. -/
def Enc.words (s : Bool) : Enc → List Half
  | .t e =>
    let sb : BitVec 1 := if s then 1 else 0
    (match e.pg with | none => [] | some g => [(0b0111011 : BitVec 7) ++ g])
    ++ (if WF.needsPr e.d e.a e.m
        then [(0b0111001 : BitVec 7) ++ e.d.extractLsb' 4 3 ++ e.a.extractLsb' 4 3 ++ e.m] else [])
    ++ (match e.b with | none => [] | some b => [(0b0111010 : BitVec 7) ++ b ++ (0 : BitVec 2)])
    ++ e.pis.map (fun c => (0b0111000 : BitVec 7) ++ c)
    ++ [sb ++ e.op ++ e.d.extractLsb' 0 4 ++ e.a.extractLsb' 0 4]
  | .j cond disp =>
    (chunksAbove 8 disp).map (fun c => (0b0111000 : BitVec 7) ++ c)
    ++ [(if s then (1 : BitVec 1) else 0) ++ (0b110 : BitVec 3) ++ cond ++ disp.extractLsb' 0 8]
  | .z sub => [(if s then (1 : BitVec 1) else 0) ++ (0b1111 : BitVec 4) ++ sub]

/-- The words of a well-formed instruction with the given switch marker; none for a step of a unit. -/
def encode (i : Instr) (marker : Bool) : List Half :=
  match i.enc with
  | none => []
  | some e => e.words marker

end Sys2Proof
end

