-- ==== Sys2Proof/Machine/Issue.lean ====
section
/-! DEFINITION. Fetching a chain (spec/08 R165 to R168, R190), the traps of fetch and decode (R169, R215), and the choice
of the hart that a core's slot issues for (spec/19 R354). The meaning of instructions is a parameter here. -/

namespace Sys2Proof.Machine

/-! ## Fetch -/

/-- The patch that supplies word `i` of the text, and which word of the patch it is (R189). Of two entries that name one word
the first in the table supplies it (DESIGN CHOICE: the spec names none; log 35). -/
def Launch.patchOf (l : Launch) (i : Nat) : Option (Patch × Nat) :=
  (l.patches.find? fun p => p.word ≤ i && i < p.word + p.count).map fun p => (p, i - p.word)

/-- The payload that a patched PI word takes (R190). -/
def patchWord (w : Half) (p : Patch) (k : Nat) (v : Word) : Half :=
  w.extractLsb' 9 7 ++ v.extractLsb' (p.shift + 9 * (p.count - 1 - k)) 9

/-- A fetch delivers what is in memory now, or what the hart has fetched from there since its last SYNCF; which is open
(R146). -/
def State.fetched (s : State) (h key : Nat) (now : Word) : Word × State :=
  let keep (v : Word) (s : State) : Word × State :=
    (v, s.modHart h fun x => { x with icache := Tab.put x.icache key v })
  match Tab.find? (s.hart h).icache key with
  | none => keep now s
  | some old =>
    if old == now then (now, s)
    else
      let (n, s) := s.draw
      if Config.staleFetch n then (old, s) else keep now s

/-- `n` bytes that hart `h` fetches at `va`, through its caches `lo` past twice their location. -/
def fetchBytes (h : Nat) (acc : Acc) (va : Word) (n lo : Nat) (s : State) : Look Word :=
  (checked h acc va n n s).bind fun p s =>
    (if isHost p.key then hostRead h p.key n 8 va s
     else readOnce h va (fun s =>
      (overLink h none p.key va s (readLocal false false h none p n va s)).bind fun bs s =>
        let (v, s) := s.fetched h (2 * p.key + lo) (w64 (ofBytes bs))
        .ok (toBytes n v.toNat) s) s).bind fun bs s => .ok (w64 (ofBytes bs)) s

/-- The word that hart `h` fetches at `va`. A patched PI word takes its payload from the parameter block, of which `got`
holds the values that this chain has read (R190). DESIGN CHOICE (log 35; R190 gives neither): a read of a parameter that faults
is raised or parked as a fetch at the parameter's address, and a patched position takes its payload also where stores to the
text have put a word there that is no PI word. -/
def fetchWord (h : Nat) (va : Word) (got : Tab Word) (s : State) : Look (Half × Tab Word) :=
  (fetchBytes h .fetch va 2 0 s).bind fun x s =>
    let x := x.setWidth 16
    let l := s.launch (s.hart h).launch
    let i := va - l.text
    match (if i.toNat < l.textsize then l.patchOf (i.toNat / 2) else none) with
    | none => .ok (x, got) s
    | some (pt, k) =>
      match Tab.find? got pt.poff with
      | some v => .ok (patchWord x pt k v, got) s
      | none =>
        (fetchBytes h .load (l.words.getD 1 0 + w64 pt.poff) 8 1 s).bind fun v s =>
          .ok (patchWord x pt k v, Tab.put got pt.poff v) s

/-- The chain of hart `h` from its pc on: words are fetched one at a time until the base word (R165, R167). -/
def fetchChain (h : Nat) (pc : Word) : Nat → Lead → Nat → Tab Word → State → Look (Except DecodeErr Chain)
  | 0, _, _, _, s => .ok (.error .short) s
  | n + 1, p, j, got, s =>
    (fetchWord h (pc + w64 (2 * j)) got s).bind fun (w, got) s =>
      match p.step w with
      | .more p' => fetchChain h pc n p' (j + 1) got s
      | .base p' w' => .ok (decodeBase p' w') s
      | .bad e => .ok (.error e) s

/-- The next chain of hart `h`: a held one has been fetched, and goes on with the accesses that it has made. -/
def fetch (h : Nat) (s : State) : Look (Except DecodeErr Chain) :=
  let s := s.replay h
  match (s.hart h).hold with
  | some ⟨_, _, _, some c⟩ => .ok (.ok ⟨c.instr, c.marker, c.len, c.base⟩) s
  | _ => (fetchChain h (s.hart h).pc 6 {} 0 [] s).bind fun c s => .ok c (s.modHart h fun x => { x with done := [], todo := [] })

/-- The trap of a chain that does not decode: on page 7 in user mode PRIVILEGE ranks ahead of rank 5 (R169). -/
def decodeTrap (h : Nat) (e : DecodeErr) (s : State) : Out :=
  match e with
  | .malformed len w => trap Cause.badLead (w.setWidth 64) { s with cx := { hart := h, len := len, base := w } }
  | .illegal len w => trap Cause.illegal (w.setWidth 64) { s with cx := { hart := h, len := len, base := w } }
  | .reserved page len w =>
    let s := { s with cx := { hart := h, len := len, base := w } }
    if page == 7 && s.me.mode == .user then trap Cause.privilege 0 s else trap Cause.illegal (w.setWidth 64) s
  | .short => trap Cause.badLead 0 { s with cx := { hart := h } }

/-- Hart `h` executes what its fetch gave: the chain, the trap of fetch or decode, a park, or a wait. The first chain of a
handler whose message could not be read raises ECC_UNCORRECTABLE instead (R379). -/
def runFetched (run : Instr → State → Out) (h : Nat) (x : Look (Except DecodeErr Chain)) : Out :=
  match x with
  | .ok (.ok c) s =>
    let s := { s with cx := { hart := h, instr := c.instr, len := c.len, base := c.base, marker := c.marker } }
    match s.me.h.bad with
    | none => run c.instr s
    | some a => trap Cause.ecc a (s.modMe fun x => { x with h := { x.h with bad := none } })
  | .ok (.error e) s => decodeTrap h e s
  | .trap c a s => trap c a { s with cx := { hart := h } }
  | .park r l a s => parkAt r l Acc.fetch.code a { s with cx := { hart := h } }
  | .wait k s => holdAccess k { s with cx := { hart := h } }
  | .host st s => askHost st { s with cx := { hart := h } }
  | .gone s => .next s

def runChain (run : Instr → State → Out) (h : Nat) (s : State) : Out := runFetched run h (fetch h s)

/-! ## Issue selection (R354) -/

/-- The instructions that the vector slot issues: page 3, and page 4 OP 0x01 to 0x0B (R354). -/
def Instr.isVector : Instr → Bool
  | .vadd .. | .vsub .. | .vmul .. | .vfma .. | .vfms .. | .vdiv .. | .vsqrt .. | .vmin .. | .vmax .. | .vabs ..
  | .vneg .. | .vand .. | .vor .. | .vxor .. | .vshl .. | .vshr .. | .vsar .. | .vcmpeq .. | .vcmplt .. | .vcmple ..
  | .vsel .. | .vcvt .. | .vpopc .. | .vclmul .. | .vpsum .. | .vredadd .. | .vredmin .. | .vredmax .. | .vbcast ..
  | .vextr .. | .vins .. | .vperm .. | .vcompr .. | .vexpd .. | .mkand .. | .mkor .. | .mkxor .. | .mknot ..
  | .mkpopc .. | .mkfirst .. | .mkset .. | .mkget .. | .vld .. | .vst .. | .vlds .. | .vsts .. | .vgath .. | .vscat ..
  | .vldbt .. | .vtopk .. | .vprune .. | .vcbexp .. | .vrng .. => true
  | _ => false

/-- Which slot a fetch that gave `x` needs; what traps needs the scalar slot. -/
def slotOf (x : Look (Except DecodeErr Chain)) : Bool :=
  match x with
  | .ok (.ok c) _ => Instr.isVector c.instr
  | _ => false

/-- Holds that end when the held instruction finds its condition met; the others end by a step that names them. -/
def HoldKind.polls : HoldKind → Bool
  | .waitt _ | .claim _ | .lease .. | .qwait _ | .sendw _ | .hostReply _ => false
  | _ => true

/-- Holds in which the instruction has done a part that stands: it goes on from there. In every other hold that polls nothing
has happened yet, and the instruction is executed again. -/
def HoldKind.partway : HoldKind → Bool
  | .migrate .. | .splinter .. | .tinv _ | .arrayMid .. | .save .. | .barrier _ | .halting => true
  | k => !k.polls

/-- What the attempt of a hart leaves stands: it has done a part of the instruction, has made some of its accesses, or has sent a
request to the host. -/
def Hart.stands (x : Hart) (k : Hold) : Bool := k.kind.partway || x.done != []

/-- What an attempt leaves that ended in a hold: where the instruction has done nothing yet, the state before it, with the
hold and the draws it has made (R111). -/
def State.attempt (s : State) (h : Nat) : Out → Out
  | .next t =>
    match (t.hart h).hold with
    | none => .next t
    | some k =>
      if (t.hart h).stands k then .next t
      else .next ({ s with draws := t.draws, cx := t.cx }.modHart h fun x => { x with hold := some k, done := [], todo := [] })
  | o => o

/-- A map operation of the hart waits at its home: what follows it comes after it (R136). -/
def State.mapWaits (s : State) (h : Nat) : Bool := s.clusters.any fun kc => kc.2.mapq.any fun m => m.h == h

/-- The hart can issue a chain now (R182, R354): it is Active, no operation of an ended span and no map operation is under
way, nothing has taken it or holds its scope, and a held instruction would go on, or on to another wait. -/
def ready (run : Instr → State → Out) (h : Nat) (s : State) : Bool :=
  let x := s.hart h
  x.st == .active && !x.span.ended && !s.mapWaits h && !s.withheld h && !s.scopeHeld h &&
    (match x.hold with
     | none => true
     | some k =>
       match k.kind with
       | .hostReply st => !s.hostOut.any fun o => o.h == h && o.stream == st
       | _ => k.kind.polls && (match runChain run h s with
         | .next t => (t.hart h).hold != some k || (t.hart h).done.length != x.done.length
         | _ => true))

/-- Effective priority of a hart (R328, R354). -/
def Hart.priority (x : Hart) : Nat :=
  if 64 ≤ x.waited then 4
  else if x.h.running then fld (Tab.get ({} : Mailbox) x.mbs x.h.mb).w0 53 2 else x.prio

/-- The hart of core `c` that a slot issues for: highest priority, then round robin after the last one issued. -/
def pick (run : Instr → State → Out) (c : Nat) (vec : Bool) (s : State) : Option Nat :=
  let last := if vec then (s.core c).rrVector else (s.core c).rrScalar
  let order := (List.range 4).map fun i => c * 4 + (last + 1 + i) % 4
  let cand := order.filter fun h => ready run h s && slotOf (fetch h s) == vec
  let top := cand.foldl (fun m h => max m (s.hart h).priority) 0
  cand.find? fun h => (s.hart h).priority == top

/-- The harts that were ready for the slot and did not issue have waited one more cycle in a row; one that was not ready
begins anew (R354). `chosen` is the hart that issues, or none of the core. -/
def noteWaits (run : Instr → State → Out) (c : Nat) (vec : Bool) (chosen : Nat) (s : State) : State :=
  let others := ((List.range 4).map fun i => c * 4 + i).filter (· != chosen)
  others.foldl (fun t h =>
    if !ready run h s then if (s.hart h).waited == 0 then t else t.modHart h fun x => { x with waited := 0 }
    else if slotOf (fetch h s) == vec then t.modHart h fun x => { x with waited := x.waited + 1 } else t) s

/-- One issue of a core's slot (R354). -/
def issue (run : Instr → State → Out) (c : Nat) (vec : Bool) (s : State) : Out :=
  match pick run c vec s with
  | none => .next (noteWaits run c vec Config.nHarts s)
  | some h =>
    let t := (noteWaits run c vec h s).modHart h fun x => { x with waited := 0 }
    let t := t.modCore c fun k => if vec then { k with rrVector := h % 4 } else { k with rrScalar := h % 4 }
    t.attempt h (runChain run h t)

end Sys2Proof.Machine
end

