-- ==== Sys2Proof/Machine/Step.lean ====
section
/-! DEFINITION. One step of the package: the agent that the schedule names moves (R126), and the placing of an instruction
where the next step fetches it. -/

namespace Sys2Proof.Machine

/-- What the agent whose turn it is does: a slot of a core issues (R354), or a unit takes a step. -/
def move (s : State) : Host.Outcome State Fault Refusal :=
  match s.turn with
  | .event e x => if e.isEvent then exec e { s with ev := x } else .next s
  | .core c vec => if c < Config.nCores then issue exec c vec s else .next s

/-- The package tick until which a transfer keeps to its promise: nothing has come between them (R321). -/
def Xfer.keeps (x : Xfer) (s : State) : Option Nat :=
  if x.live && !x.suspended && !x.hindered && x.promise != BitVec.allOnes 64 then
    some (x.promise.toNat + (match x.part with | some p => (s.part p).tickOff | none => 0))
  else none
/-- The ticks that may pass, `n` at most: a transfer that keeps to its promise performs its last write before it has passed.
-/
def State.mayPass (s : State) (n : Nat) : Nat :=
  s.cores.foldl (fun n kc => kc.2.xfers.foldl (fun n kx =>
    match kx.2.keeps s with
    | some t => min n (t - s.tick)
    | none => n) n) n

/-- Soft errors strike codewords of data rows and of tag areas, and words of scratchpads (R81, R379). -/
def State.strikeVault (s : State) (x : Bool × Nat) : State :=
  if !(decide (x.2 < 2 ^ 29) || (decide (2 ^ 40 ≤ x.2) && decide (x.2 < 2 ^ 40 + 2 ^ 26))) then s
  else if x.1 then { s with badCodewords := x.2 :: s.badCodewords.filter (· != x.2) }
  else { s with corrCodewords := x.2 :: s.corrCodewords.filter (· != x.2) }
def State.strikeSpad (s : State) (x : Bool × Nat × Nat) : State :=
  if Config.nCores ≤ x.2.1 || spadSize / 8 ≤ x.2.2 then s
  else s.modCore x.2.1 fun c =>
    if x.1 then { c with badWords := x.2.2 :: c.badWords.filter (· != x.2.2) }
    else { c with corrWords := x.2.2 :: c.corrWords.filter (· != x.2.2) }
def State.upsets (s : State) (n : Nat) : State :=
  (Config.spadUpsets n).foldl State.strikeSpad ((Config.vaultUpsets n).foldl State.strikeVault s)

/-- An attempt to retrain a link takes at most 5,000 ticks (R389). -/
def State.linksPass (s : State) (n : Nat) : Nat :=
  s.links.foldl (fun n kx => if kx.2.up && !kx.2.locked then min n (kx.2.since + 5000 - s.tick) else n) n

/-- Time passes, messages move on, soft errors strike, and the schedule names the next agent; all of it is free (logs 4 and 5). -/
def State.elapse (s : State) (n : Nat) : State :=
  { (s.flow n).upsets n with steps := n + 1, turn := Config.turn n, tick := s.tick + s.linksPass (s.mayPass (Config.elapsed n)) }

def step (s : State) : Host.Outcome State Fault Refusal :=
  match move s with
  | .next t => .next (t.elapse s.steps)
  | .fault r => .fault r
  | .refused r => .refused r

/-- Where `withFetchWord` places a chain: the start of the boot SRAM (R411). -/
def fetchBase : Nat := bootSram

/-- The words of a table row, laid out in the boot SRAM where a monitor hart of core 0 fetches next under the reduced
service (R411), with the issue slot that the chain needs (R354). It stands for the load of a program (log 2). -/
def State.withFetchWord (s : State) (nbits w : Nat) : State :=
  let bytes := wordBytes ((tableWords nbits w ++ List.replicate 5 0).take 5)
  let vec := match decodeTableWord nbits w with
    | some i => Instr.isVector i
    | none => false
  let s := s.writeBytes none fetchBase bytes
  let s := s.modHart 0 fun x =>
    { x with st := .active, mode := .monitor, pc := w64 fetchBase, span := {}, hold := none, waited := 64, launch := 0, done := [], todo := [], icache := [] }
  let s := s.modCore 0 fun k => { k with rrScalar := 3, rrVector := 3 }
  { s with turn := .core 0 vec, boot := { s.boot with full := false, step := max s.boot.step 3 } }

end Sys2Proof.Machine
end

