-- ==== Sys2Proof/Safety.lean ====
section
/-! DEFINITION. What a safe run is, and the terms in which claims speak of a step: what a chain leaves once the deferred
writes of its span are in place, and which parts of the package a step leaves alone. -/

namespace Sys2Proof.Machine

/-- The memory is in its canonical form: addresses strictly rising, no entry that an unlisted address would read as. -/
def State.Canonical (s : State) : Prop := Mem.wf s.mem = true

/-- The hart's partition is on its way out or out, or the hart is held back for a save: it performs no event, and progress is
suspended for it (R126). -/
def State.suspended (s : State) (h : Nat) : Prop := s.away (s.hart h) = true ∨ s.withheld h = true

/-- The message leaves the net between the two states: fewer like it are on their way. -/
def Msg.leaves (m : Msg) (s t : State) : Prop :=
  let like (d : Msg) : Bool := d.hdr == m.hdr && d.pay == m.pay && d.sender == m.sender && d.launch == m.launch
  (t.net.filter like).length < (s.net.filter like).length

/-- The progress axiom of R126, of a run that the states `r` are: time passes; every write and every RMW is performed at its home,
every map operation is granted, and every message arrives and is dispatched where the mailbox is enabled and its hart
dispatches handlers. The free values of Config need not give such a run, so a claim that something happens in the end takes
it as its hypothesis. -/
structure Progress (r : Nat → State) : Prop where
  runs : ∀ n, step (r n) = .next (r (n + 1))
  time : ∀ n, ∃ m, n ≤ m ∧ (r n).tick < (r m).tick
  writes : ∀ n h e, e ∈ ((r n).hart h).sbuf → ∃ m, n ≤ m ∧ ((r m).suspended h ∨
    ∀ d ∈ ((r m).hart h).sbuf, d.born ≠ e.born ∨ d.base ≠ e.base)
  elements : ∀ n h k, (Tab.get {} ((r n).hart h).streams k).wr = true → ∃ m, n ≤ m ∧ ((r m).suspended h ∨
    ∀ e ∈ (Tab.get {} ((r m).hart h).streams k).buf, e ∉ (Tab.get {} ((r n).hart h).streams k).buf)
  rmws : ∀ n h k, ((r n).hart h).hold = some k → (∃ w, k.kind = .pad w) ∨ (∃ t pa, k.kind = .bank t pa) →
    ∃ m, n ≤ m ∧ ((r m).suspended h ∨ ((r m).hart h).hold ≠ some k)
  maps : ∀ n g o, o ∈ ((r n).cluster g).mapq → ∃ m, n ≤ m ∧ ((r m).suspended o.h ∨ ∀ p ∈ ((r m).cluster g).mapq, p.wait ≠ o.wait)
  arrivals : ∀ n m, m ∈ (r n).net → (∀ k, n ≤ k → ∃ j, k ≤ j ∧ ∀ h x, (r j).dest m = .mailbox h x → ((r j).mb h x).ringCount < ((r j).mb h x).cap) →
    ∃ k, n ≤ k ∧ m.leaves (r k) (r (k + 1))
  dispatches : ∀ n h x, ((r n).mb h x).ringCount ≠ 0 → ((r n).hart h).u.mben.getLsbD x = true →
    (∀ k, n ≤ k → ∃ j, k ≤ j ∧ ((r j).hart h).openFor = true) →
    ∃ k, n ≤ k ∧ ((r k).suspended h ∨ ((r k).hart h).u.mben.getLsbD x = false ∨ ((r (k + 1)).mb h x).ringCount < ((r k).mb h x).ringCount)

/-- A step goes on. -/
def State.Goes (s : State) : Prop := ∃ t, step s = .next t

/-- The state with the deferred writes of the current hart's span in place, in program order (R179). -/
def State.settled (s : State) : State := s.commit s.cx.hart

/-- The current hart has passed its chain of `len` words and nothing holds it (R178). -/
def Hart.past (x : Hart) (len : Nat) : Hart :=
  { x with pc := x.pc + w64 (2 * len), hold := none, waited := 0, done := [], todo := [] }

/-- What an instruction with the results `ps` leaves: the earlier deferred writes of its span, then `ps`, the chain passed,
and nothing else changed (R178, R179). -/
def State.results (s : State) (ps : List Pend) : State :=
  (ps.foldl (State.land s.cx.hart) s.settled).modHart s.cx.hart fun x => x.past s.cx.len

/-- Every earlier row activation of the current hart has been sensed, and `t` is `s` with every earlier store of it performed,
none of them lost (R120, R228, R229). -/
structure State.Drains (s t : State) : Prop where
  sensed : s.rowsBefore s.cx.hart s.steps false = false
  stores : s.drain s.cx.hart = some t
  lives : t.me.st = s.me.st

/-- The same within scope `sc` (R117, R125): `t` is `s` with every earlier store ordered before what follows for the agents of
that scope; a release of scope hart orders nothing for another hart. -/
structure State.DrainsIn (sc : Nat) (s t : State) : Prop where
  sensed : sc = 0 ∨ s.rowsBefore s.cx.hart s.steps false = false
  stores : s.ordered s.cx.hart sc = some t
  lives : t.me.st = s.me.st

/-- `o` completes an instruction of `s` with the results `ps`. -/
def Completes (o : Out) (s : State) (ps : List Pend) : Prop := ∃ t, o = .next t ∧ t.settled = s.results ps

/-- `o` hands an operation of `s` to another unit: the chain is passed, and the answer `id` takes its place among the
deferred writes of the span (R182). -/
def Awaits (o : Out) (s : State) (id : Nat) : Prop :=
  ∃ t, o = .next t ∧ t.settled = s.results [.wait id] ∧ Pend.wait id ∈ t.me.span.pend

/-- `o` completes an instruction of `s` whose one result `v` is forwarded within its span at once (R180). -/
def Forwards (o : Out) (s : State) (d : RegNo) (v : Word) : Prop :=
  ∃ t, o = .next t ∧ t.settled = s.results [.scalar d.toNat v] ∧ t.me.reg d.toNat = v

/-- The register that a deferred write names (R179). -/
def Pend.names (r : Nat) : Pend → Bool
  | .scalar k _ => k == r
  | _ => false

/-- A scalar register of the current hart as committed, apart from what its span forwards (R179). -/
def State.committed (s : State) (r : Nat) : Word := Tab.get 0 s.me.regs r

/-- Where a control transfer leaves the current hart of a settled state `u` (R178). -/
def Transfers (o : Out) (u : State) (pc : Word) : Prop := o = .next (u.goto pc)

/-- The current hart takes the trap `cause` at its chain, after the earlier deferred writes of its span (R181, R216). -/
def Traps (o : Out) (s : State) (cause code : Nat) (addr : Word) : Prop :=
  o = .next (s.settled.trapEnter s.cx.hart s.cx.len cause code addr)

/-- Nothing stands in the way of a load of hart `h`, or with `rmw` a read-modify-write, of `n` scratchpad bytes at bits `x`
of their absolute address: they lie in the scratchpad (R17) of a cluster of the partition (R18), no link to it is down
(R229), it is its turn at the banks (R42 to R45), every word of them is correctable (R379), and the instruction is at its start:
it does not go on from an answer (R228). -/
structure State.SpadOpen (s : State) (h x n : Nat) (rmw : Bool := false) : Prop where
  coord : x < 2 ^ 30
  inside : x % 2 ^ 17 + n ≤ 0x18000
  inSet : s.inSet (s.hart h).part (coreOfBits x / 64) = true
  way : s.lostLink h (Config.spadKey + x) = none
  turn : s.padTurn (Asker.reads h none) (s.readAsk h none (Config.spadKey + x) n (!rmw) false) = true
  sound : s.eccBad (Config.spadKey + x) n = false
  fresh : (s.hart h).todo = []

/-- The vector sources `rs` of the current hart can be read: `vs` are their values, and `t` is the state once the elements
that they pop have arrived (R34, R40, R269). -/
def State.Reads (s : State) (rs : List RegNo) (vs : List VWord) (t : State) : Prop :=
  vreadList s.cx.hart [] rs s = .ok vs t

/-- The vector destination `d` can be written: `put` is the deferred write that a result becomes, and `t` the state once its
place has been checked (R34, R40, R269). -/
def State.Takes (s : State) (d : RegNo) (put : VWord → Pend) (t : State) : Prop := ∀ k, vdst d s k = k put t

/-- The location of the byte of hart `h`'s own scratchpad that holds local bit address `q` (R46). -/
def ownBit (h q : Nat) : Nat := spadLoc (coreOf h) (q / 8)

end Sys2Proof.Machine
end

