-- ==== Sys2Proof/Certificates/Slice0/Obligations.lean ====
section
/-! DEFINITION. The statements about the model: what each instruction does, what it leaves alone, and what every step
keeps. -/

open Sys2Proof Sys2Proof.Machine

/-! ## Scalar arithmetic (spec/09) -/

/-- R193, R180: the fixed-latency operations of two operands complete with the value of the table, forwarded at once. R173,
R192: with a third operand x is A and y that operand; in the two-address form x is D and y is A. -/
def Obligations.FixedArithmeticCompletes : Prop :=
  (∀ (o : Alu) (s : State), let x := (s.xy o).1; let y := (s.xy o).2
     Forwards (exec (.add o) s) s o.d (x + y) ∧ Forwards (exec (.sub o) s) s o.d (x - y) ∧
     Forwards (exec (.and3 o) s) s o.d (x &&& y) ∧ Forwards (exec (.or3 o) s) s o.d (x ||| y) ∧
     Forwards (exec (.xor3 o) s) s o.d (x ^^^ y) ∧ Forwards (exec (.andn o) s) s o.d (x &&& ~~~y) ∧
     Forwards (exec (.shl o) s) s o.d (BitVec.ofNat 64 (x.toNat * 2 ^ (y.toNat % 64))) ∧
     Forwards (exec (.shr o) s) s o.d (BitVec.ofNat 64 (x.toNat / 2 ^ (y.toNat % 64))) ∧
     Forwards (exec (.sar o) s) s o.d (BitVec.ofInt 64 (x.toInt / 2 ^ (y.toNat % 64))) ∧
     Forwards (exec (.rol o) s) s o.d ((x <<< (y.toNat % 64)) ||| (x >>> (64 - y.toNat % 64))) ∧
     Forwards (exec (.min o) s) s o.d (if x.toInt ≤ y.toInt then x else y) ∧
     Forwards (exec (.max o) s) s o.d (if y.toInt ≤ x.toInt then x else y) ∧
     Forwards (exec (.minn o) s) s o.d (if x.toNat ≤ y.toNat then x else y) ∧
     Forwards (exec (.maxn o) s) s o.d (if y.toNat ≤ x.toNat then x else y) ∧
     Forwards (exec (.slt o) s) s o.d (if x.toInt < y.toInt then 1 else 0) ∧
     Forwards (exec (.sltn o) s) s o.d (if x.toNat < y.toNat then 1 else 0) ∧
     Forwards (exec (.seq o) s) s o.d (if x = y then 1 else 0) ∧
     Forwards (exec (.sel o) s) s o.d (if s.rd 0 = 0 then y else x)) ∧
  (∀ (s : State) (d a b : RegNo) (v : Word),
     s.xy ⟨d, a, .reg b⟩ = (s.rd a, s.rd b) ∧ s.xy ⟨d, a, .imm v⟩ = (s.rd a, v) ∧ s.xy ⟨d, a, .none⟩ = (s.rd d, s.rd a))

/-- R195, R198, R200: MOV and MOVI copy; CLZ, CTZ and POPC give the count that the bits of A force; BSWAP reverses bytes; SELF
gives the absolute address of the offset in the own scratchpad. -/
def Obligations.UnaryFixedCompletes : Prop :=
  ∀ (o : RR) (m : MovI) (e : SelfOp) (s : State), let a := s.rd o.a
    Forwards (exec (.mov o) s) s o.d a ∧ Forwards (exec (.movi m) s) s m.d m.imm ∧
    (∃ n ≤ 64, Forwards (exec (.clz o) s) s o.d (BitVec.ofNat 64 n) ∧
      (∀ i, 64 - n ≤ i → a.getLsbD i = false) ∧ (n < 64 → a.getLsbD (63 - n) = true)) ∧
    (∃ n ≤ 64, Forwards (exec (.ctz o) s) s o.d (BitVec.ofNat 64 n) ∧
      (∀ i, i < n → a.getLsbD i = false) ∧ (n < 64 → a.getLsbD n = true)) ∧
    Forwards (exec (.popc o) s) s o.d (BitVec.ofNat 64 ((List.range 64).countP fun i => a.getLsbD i)) ∧
    (∃ v, Forwards (exec (.bswap o) s) s o.d v ∧
      ∀ i, i < 8 → v.extractLsb' (8 * i) 8 = a.extractLsb' (8 * (7 - i)) 8) ∧
    Forwards (exec (.self e) s) s e.d (0xA000000000000000#64 ||| (s.coord s.cx.hart &&& 0x3FFE0000#64) |||
      ((match e.imm with | some v => s.rd e.a + v | none => s.rd e.d + s.rd e.a) &&& 0x1FFFF#64))

/-- R196: SEXT and ZEXT keep bits b to 0 of x for b = y & 63, BFX extracts and BFI inserts the field at y[5:0] of length
y[11:6] + 1; bits past 63 read as zero and are discarded. R199: CRD of a coordinate address is its absolute form with the
offset moved, wrapping in 17 bits; of any other value it is a plain sum. -/
def Obligations.FieldAndCoordinateOperationsComplete : Prop :=
  (∀ (o : Alu) (s : State), let x := (s.xy o).1; let y := (s.xy o).2; let d := s.rd o.d
     let b := y.toNat % 64; let pos := y.toNat % 64; let len := y.toNat / 64 % 64 + 1
     (∃ v, Forwards (exec (.sext o) s) s o.d v ∧ ∀ i, i < 64 → v.getLsbD i = x.getLsbD (min i b)) ∧
     (∃ v, Forwards (exec (.zext o) s) s o.d v ∧ ∀ i, v.getLsbD i = (decide (i ≤ b) && x.getLsbD i)) ∧
     (∃ v, Forwards (exec (.bfx o) s) s o.d v ∧ ∀ i, v.getLsbD i = (decide (i < len) && x.getLsbD (pos + i))) ∧
     (∃ v, Forwards (exec (.bfi o) s) s o.d v ∧
       ∀ i, i < 64 → v.getLsbD i = if pos ≤ i ∧ i < pos + len then x.getLsbD (i - pos) else d.getLsbD i)) ∧
  (∀ (o : Alu) (s : State), let x := (s.xy o).1; let y := (s.xy o).2; let h := s.cx.hart
     ((x.toNat / 2 ^ 56 = 0xA0 ∧ x.toNat / 2 ^ 30 % 2 ^ 26 = 0) →
       Forwards (exec (.crd o) s) s o.d ((x &&& ~~~0x1FFFF#64) ||| ((x + y) &&& 0x1FFFF#64))) ∧
     ((x.toNat / 2 ^ 56 = 0xA1 ∧ x.toNat / 2 ^ 30 % 2 ^ 26 = 0) →
       Forwards (exec (.crd o) s) s o.d
         (((0xA000000000000000#64 + BitVec.ofNat 64 (resolveRel h x)) &&& ~~~0x1FFFF#64) ||| ((x + y) &&& 0x1FFFF#64))) ∧
     (¬ ((x.toNat / 2 ^ 56 = 0xA0 ∨ x.toNat / 2 ^ 56 = 0xA1) ∧ x.toNat / 2 ^ 30 % 2 ^ 26 = 0) →
       Forwards (exec (.crd o) s) s o.d (x + y)))

/-- R193, R179: MUL, MULH and MULHN complete with the low and high halves of the exact product, deferred. R197: bit k of the
carry-less product is the exclusive or of x[i] and y[k − i] over every i; CLMUL writes bits 63 to 0, CLMULH bits 126 to 64. -/
def Obligations.ProductsComplete : Prop :=
  (∀ (o : Alu) (s : State), let x := (s.xy o).1; let y := (s.xy o).2
     (∃ lo hi hu : Word, Completes (exec (.mul o) s) s [.scalar o.d.toNat lo] ∧
       Completes (exec (.mulh o) s) s [.scalar o.d.toNat hi] ∧ Completes (exec (.mulhn o) s) s [.scalar o.d.toNat hu] ∧
       x.toInt * y.toInt = hi.toInt * 2 ^ 64 + lo.toNat ∧ x.toNat * y.toNat = hu.toNat * 2 ^ 64 + lo.toNat)) ∧
  (∀ (o : Alu) (s : State), let x := (s.xy o).1; let y := (s.xy o).2
     let p : Nat → Bool := fun k => (List.range (k + 1)).foldl (fun b i => b ^^ (x.getLsbD i && y.getLsbD (k - i))) false
     ∃ lo hi : Word, Completes (exec (.clmul o) s) s [.scalar o.d.toNat lo] ∧
       Completes (exec (.clmulh o) s) s [.scalar o.d.toNat hi] ∧
       (∀ k, k < 64 → lo.getLsbD k = p k) ∧ (∀ k, k < 64 → hi.getLsbD k = p (64 + k)))

/-- R194: division never traps; by zero it gives all ones and the dividend; the most negative number by −1 wraps; otherwise x
= q × y + r with |r| < |y| and r zero or of the sign of x (unsigned: r < y). -/
def Obligations.DivisionCompletes : Prop :=
  ∀ (o : Alu) (s : State), let x := (s.xy o).1; let y := (s.xy o).2
    ∃ q r qn rn : Word,
      Completes (exec (.sdiv o) s) s [.scalar o.d.toNat q] ∧ Completes (exec (.rem o) s) s [.scalar o.d.toNat r] ∧
      Completes (exec (.divn o) s) s [.scalar o.d.toNat qn] ∧ Completes (exec (.remn o) s) s [.scalar o.d.toNat rn] ∧
      (y = 0 → q = BitVec.allOnes 64 ∧ qn = BitVec.allOnes 64 ∧ r = x ∧ rn = x) ∧
      (x.toInt = -2 ^ 63 → y.toInt = -1 → q = x ∧ r = 0) ∧
      (y ≠ 0 → ¬ (x.toInt = -2 ^ 63 ∧ y.toInt = -1) →
        x.toInt = q.toInt * y.toInt + r.toInt ∧ r.toInt.natAbs < y.toInt.natAbs ∧
          (0 ≤ x.toInt → 0 ≤ r.toInt) ∧ (x.toInt < 0 → r.toInt ≤ 0)) ∧
      (y ≠ 0 → x.toNat = qn.toNat * y.toNat + rn.toNat ∧ rn.toNat < y.toNat)

/-! ## What a step of a hart leaves alone -/

/-- The frame of settling a span and of every instruction that completes with results `ps` (R178, R179): memory and everything
but the harts and cores is as it was; of the cores only octets held by vector registers differ; of the harts only the current
one does, and of that only registers, vector and mask registers, streams, FFLAGS and what issue keeps. A scalar register that
no result names reads as it does without the instruction, and the last result that names one is its value; the pc has passed
the chain. Within a span, a register reads as the last fixed-latency result for it, and a deferred one changes no read. -/
def Obligations.ResultsFrame : Prop :=
  (∀ (s : State) (ps : List Pend), let t := s.results ps; let x := t.me
     { t with harts := s.harts, cores := s.cores } = s ∧
     (∀ k, k ≠ s.cx.hart → t.hart k = s.hart k) ∧
     (∀ c, { t.core c with octets := (s.core c).octets } = s.core c) ∧
     { x with pc := s.me.pc, regs := s.me.regs, span := s.me.span, v := s.me.v, m := s.me.m, streams := s.me.streams,
              u := { x.u with fflags := s.me.u.fflags }, freshA := s.me.freshA, freshB := s.me.freshB,
              hold := s.me.hold, waited := s.me.waited, done := s.me.done, todo := s.me.todo } = s.me ∧
     x.pc = s.me.pc + BitVec.ofNat 64 (2 * s.cx.len) ∧
     (∀ r, (∀ p ∈ ps, p.names r = false) → t.committed r = s.settled.committed r) ∧
     (∀ r v qs ds, ps = qs ++ .scalar r v :: ds → (∀ p ∈ ds, p.names r = false) → t.committed r = v) ∧
     ((∀ p ∈ ps, ∃ r v, p = .scalar r v) →
       x.v = s.settled.me.v ∧ x.m = s.settled.me.m ∧ x.streams = s.settled.me.streams ∧ x.u = s.settled.me.u ∧
         t.cores = s.settled.cores)) ∧
  (∀ (s : State) (d r : RegNo) (v : Word) (o : Alu), s.cx.marker = false → s.me.span.count < 31 →
     (∃ t, exec (.movi ⟨d, v⟩) s = .next t ∧ t.rd r = if r = d then v else s.rd r) ∧
     (∃ t, exec (.mul o) s = .next t ∧ t.rd r = s.rd r))

/-! ## Control transfer, traps and returns (spec/09) -/

/-- R201: a Form J branch tests the committed c0 or m0 and goes to base word + 2 × displacement, or on with the next chain.
R202 to R204: CALL and JR write the link and LOOP the counter at their own marker, then transfer; JR with D = 0 writes no
link, and JR to an odd target traps with the target recorded and writes none. -/
def Obligations.TransfersComplete : Prop :=
  (∀ (disp : Word) (s : State), s.me.waiting = false →
     let u := s.settled; let c := u.committed 0; let m := Tab.get 0 u.me.m 0
     let taken := s.me.pc + BitVec.ofNat 64 (2 * (s.cx.len - 1)) + 2 * disp
     let next := s.me.pc + BitVec.ofNat 64 (2 * s.cx.len)
     Transfers (exec (.bz disp) s) u (if c = 0 then taken else next) ∧
     Transfers (exec (.bnz disp) s) u (if c ≠ 0 then taken else next) ∧
     Transfers (exec (.bn disp) s) u (if c.toInt < 0 then taken else next) ∧
     Transfers (exec (.bnn disp) s) u (if 0 ≤ c.toInt then taken else next) ∧
     Transfers (exec (.bp disp) s) u (if 0 < c.toInt then taken else next) ∧
     Transfers (exec (.bnp disp) s) u (if c.toInt ≤ 0 then taken else next) ∧
     Transfers (exec (.bbs disp) s) u (if c.getLsbD 0 = true then taken else next) ∧
     Transfers (exec (.bbc disp) s) u (if c.getLsbD 0 = false then taken else next) ∧
     Transfers (exec (.bmany disp) s) u (if m ≠ 0 then taken else next) ∧
     Transfers (exec (.bmnone disp) s) u (if m = 0 then taken else next) ∧
     Transfers (exec (.bal disp) s) u taken) ∧
  (∀ (o : Jump) (r : RR) (s : State), s.me.waiting = false →
     let u := s.settled
     let taken := s.me.pc + BitVec.ofNat 64 (2 * (s.cx.len - 1)) + 2 * o.disp
     let next := s.me.pc + BitVec.ofNat 64 (2 * s.cx.len)
     let count := u.committed o.d.toNat - 1; let target := u.committed r.a.toNat
     Transfers (exec (.jmp o.disp) s) u taken ∧
     Transfers (exec (.call o) s) (u.setReg o.d next) taken ∧
     Transfers (exec (.loopb o) s) (u.setReg o.d count) (if count ≠ 0 then taken else next) ∧
     (target.getLsbD 0 = false →
       Transfers (exec (.jr r) s) (if r.d = 0 then u else u.setReg r.d next) target) ∧
     (target.getLsbD 0 = true → Traps (exec (.jr r) s) s 0x04 0 target))

/-- R178, R180 to R182: a control transfer and a register written at its own marker change only the current hart, and of it
the pc, the span, what holds it, and that register; a hold changes only the hold of the current hart; and an operation that
ends gives a held instruction its results, behind the earlier ones of its span, passes the chain, and changes no other hart.
-/
def Obligations.TransferAndHoldFrames : Prop :=
  (∀ (u : State) (d : RegNo) (v pc : Word), let t := (u.setReg d v).goto pc
     { t with harts := u.harts } = u ∧ (∀ k, k ≠ u.cx.hart → t.hart k = u.hart k) ∧
     (∀ r, t.committed r = if r = d.toNat then v else u.committed r) ∧
     t.me = { u.me with pc := pc, regs := t.me.regs, span := {}, hold := none, waited := 0, done := [], todo := [] }) ∧
  (∀ (k : HoldKind) (s : State), ∃ t c, holdAt k s = .next t ∧ { t with harts := s.harts } = s ∧
     (∀ g, g ≠ s.cx.hart → t.hart g = s.hart g) ∧
     t.me = { s.me with hold := some ⟨k, s.cx.len, s.cx.marker, c⟩, done := [], todo := [] } ∧
     (s.cx.len ≠ 0 → c = some s.cx)) ∧
  (∀ (s : State) (h len : Nat) (mk : Bool) (k : HoldKind) (c : Option Cx) (ps : List Pend),
     (s.hart h).hold = some ⟨k, len, mk, c⟩ →
       (s.release h ps).commit h = (ps.foldl (State.land h) (s.commit h)).modHart h (fun x => x.past len) ∧
       ((s.release h ps).hart h).hold = none ∧ ∀ g, g ≠ h → (s.release h ps).hart g = s.hart g)

/-- R218, R219, R184: TRAP raises SYSCALL with the value of A and the code, EBREAK BREAKPOINT, and ILL ILLEGAL_INSTRUCTION
with its base word, and they have no other effect. R217, R404: ERET restores the saved mode and ie and continues at TEPC, in
monitor mode at MONPC in rmode, and in user mode raises PRIVILEGE; UERET continues at UEPC with utrap clear, or is illegal. -/
def Obligations.TrapsAndReturnsComplete : Prop :=
  (∀ (o : TrapOp) (s : State), s.me.waiting = false →
     Traps (exec (.trap o) s) s 0x13 o.code.toNat (s.settled.committed o.a.toNat) ∧
     Traps (exec .ebreak s) s 0x12 0 0 ∧ Traps (exec .ill s) s 0x01 0 (s.cx.base.setWidth 64)) ∧
  (∀ s : State, s.me.waiting = false → let u := s.settled; let x := s.me
     (x.mode = .kernel → Transfers (exec .eret s)
       (u.modMe fun y => { y with mode := x.t.pmode, t := { x.t with ie := x.t.pie, intrap := false } }) x.t.tepc) ∧
     (x.mode = .monitor → Transfers (exec .eret s)
       (u.modMe fun y => { y with mode := x.mon.rmode, mon := { x.mon with busy := false } }) x.mon.pc) ∧
     (x.mode = .user → Traps (exec .eret s) s 0x03 0 0) ∧
     (x.t.utrap = true → Transfers (exec .ueret s) (u.modMe fun y => { y with t := { x.t with utrap := false } }) x.t.uepc) ∧
     (x.t.utrap = false → Traps (exec .ueret s) s 0x01 0 (s.cx.base.setWidth 64)))

/-- R212, R216, R404: trap entry in user mode with a delegated cause saves pc, cause and value in the user registers and stays
in user mode; any other entry outside a handler saves them in the kernel registers, saves mode and ie, and enters kernel mode;
a monitor hart enters its own handler. R364: a trap inside a kernel or monitor handler that is not delegated is a double trap:
the hart is Stopped with its registers unchanged, and a kind-1 record is posted. Nothing else changes. -/
def Obligations.TrapEntrySaves : Prop :=
  (∀ (s : State) (h len cause code : Nat) (addr : Word),
     let x := s.hart h; let t := s.trapEnter h len cause code addr; let y := t.hart h
     let w := BitVec.ofNat 64
       (cause + 256 * (if x.h.running then 1 else 0) + 512 * (len % 8) + 2 ^ 32 * (code % 2 ^ 16))
     let delegated := x.mode = .user ∧ x.t.tdeleg.getLsbD cause = true ∧ x.t.utvec.getLsbD 0 = true ∧ x.t.utrap = false
     (delegated ∨ (x.mode ≠ .monitor ∧ x.t.intrap = false) →
       { t with harts := s.harts } = s ∧ (∀ k, k ≠ h → t.hart k = s.hart k) ∧
       y = { x with mode := y.mode, pc := y.pc, t := y.t, span := {}, hold := none, waited := 0, done := [], todo := [] }) ∧
     (delegated → y.mode = .user ∧ y.pc = x.t.utvec &&& ~~~1#64 ∧
       y.t = { x.t with uepc := x.pc, utcause := w, utaddr := addr, utrap := true }) ∧
     (¬ delegated → x.mode ≠ .monitor → x.t.intrap = false →
       y.mode = .kernel ∧ y.pc = x.t.tvec &&& ~~~1#64 ∧
       y.t = { x.t with tepc := x.pc, tcause := w, taddr := addr, pmode := x.mode, pie := x.t.ie, ie := false,
                        intrap := true })) ∧
  (∀ (s : State) (h len cause code : Nat) (addr : Word),
     let x := s.hart h; let t := s.trapEnter h len cause code addr
     let w := BitVec.ofNat 64
       (cause + 256 * (if x.h.running then 1 else 0) + 512 * (len % 8) + 2 ^ 32 * (code % 2 ^ 16))
     x.mode = .monitor → x.mon.busy = false →
       { t with harts := s.harts } = s ∧ (∀ k, k ≠ h → t.hart k = s.hart k) ∧
       t.hart h = { x with
         pc := x.mon.vec &&& ~~~1#64, span := {}, hold := none, waited := 0, done := [], todo := [],
         mon := { x.mon with busy := true, rmode := .monitor, pc := x.pc, addr := addr, cause := w } }) ∧
  (∀ (s : State) (h len cause code : Nat) (addr : Word),
     let x := s.hart h; let t := s.trapEnter h len cause code addr
     (x.mode = .monitor ∧ x.mon.busy = true) ∨ (x.mode ≠ .monitor ∧ x.t.intrap = true ∧
       ¬ (x.mode = .user ∧ x.t.tdeleg.getLsbD cause = true ∧ x.t.utvec.getLsbD 0 = true ∧ x.t.utrap = false)) →
       t = (s.setHart h { x with st := .stopped, hold := none, span := {}, done := [], todo := [] }).machineCheck 1 cause h addr x.pc
       ∧ t.harts = (s.setHart h { x with st := .stopped, hold := none, span := {}, done := [], todo := [] }).harts)

/-- R221, R223, R224: NOP only ends its span; YIELD moves the hart behind the others of its core; WFE clears a set event flag
and completes, or is held; WAITT completes once the partition's TICK has reached A, or is held until then. R178, R179: while
an operation of its span has not answered, a serialising instruction is held and changes nothing else. -/
def Obligations.WaitsComplete : Prop :=
  (∀ (a : RegNo) (s : State), let u := s.settled; let next := s.me.pc + BitVec.ofNat 64 (2 * s.cx.len)
     (s.me.waiting = false →
       Transfers (exec .nop s) u next ∧
       Transfers (exec .yield s) (u.modCore (s.cx.hart / 4) fun c =>
         { c with rrScalar := s.cx.hart % 4, rrVector := s.cx.hart % 4 }) next ∧
       (s.me.event = true → Transfers (exec .wfe s) (u.modMe fun x => { x with event := false }) next) ∧
       (s.me.event = false → exec .wfe s = holdAt .wfe u)) ∧
     ((s.rd a).toNat ≤ (s.partTick s.me.part).toNat → Completes (exec (.waitt a) s) s []) ∧
     ((s.partTick s.me.part).toNat < (s.rd a).toNat → exec (.waitt a) s = holdAt (.waitt (s.rd a)) s)) ∧
  (∀ s : State, s.me.waiting = true →
     (∀ d : Word, ∀ f ∈ [Instr.bz, .bnz, .bn, .bnn, .bp, .bnp, .bbs, .bbc, .bmany, .bmnone, .bal, .jmp],
       exec (f d) s = holdAt .span s) ∧
     (∀ o : Jump, exec (.call o) s = holdAt .span s ∧ exec (.loopb o) s = holdAt .span s) ∧
     (∀ (o : RR) (p : TrapOp), exec (.jr o) s = holdAt .span s ∧ exec (.trap p) s = holdAt .span s) ∧
     (∀ o : CsrOp, ∀ f ∈ [Instr.csrr, .csrw, .csrs, .csrc], exec (f o) s = holdAt .span s) ∧
     (∀ i ∈ [Instr.nop, .hret, .yield, .eret, .ueret, .ebreak, .wfe, .syncf], exec i s = holdAt .span s) ∧
     (∀ sc, ∀ f ∈ [Instr.fenceFull, .fenceAcq, .fenceRel, .fenceEng], exec (f sc) s = holdAt .span s))

/-- R128, R238, R239, R125: a fence or SYNCF completes once every earlier row activation of the hart has been sensed and every
earlier store performed; a fence of scope hart, and an acquire fence, at once; one of a scope below the system's also at once,
where no other hart has let one go ahead: the earlier stores but those to host memory are then marked for that scope.
FENCE.eng waits as well while a transfer or array command of the hart is under way, and SYNCF drops what the hart has fetched.
That a fence of scope 1 to 4 goes ahead of the stores it marks as due, and only where no other hart has let one go ahead, is
log 34's DESIGN CHOICE. -/
def Obligations.FencesComplete : Prop :=
  ∀ (sc : ScopeCode) (s t : State), s.me.waiting = false →
    let u := s.settled; let h := s.cx.hart; let past := fun v : State => v.me.pc + BitVec.ofNat 64 (2 * v.cx.len)
    let done := fun v : State => Transfers (exec (.fenceFull sc) s) v (past v) ∧
      Transfers (exec (.fenceRel sc) s) v (past v) ∧
      (u.enginesBusy h = false → Transfers (exec (.fenceEng sc) s) v (past v))
    let quiet := u.rowsBefore h u.steps false = false
    let rows := fun v : State => if 4 ≤ sc.toNat then v.settleOlder h else v
    Transfers (exec (.fenceAcq sc) s) u (past u) ∧ (sc = 0 → done u) ∧
    (quiet → u.Drains t →
      Transfers (exec .syncf s) (t.modMe fun x => { x with icache := [] }) (past t) ∧
      (5 ≤ sc.toNat ∨ (sc ≠ 0 ∧ u.othersOwe h = true ∧ s.me.sbuf ≠ []) → done t)) ∧
    (quiet → 0 < sc.toNat → sc.toNat < 5 → u.othersOwe h = false → s.me.sbuf ≠ [] →
      done (rows (u.modMe fun x => { x with
        sbuf := x.sbuf.map fun d => if isHost d.base then d else { d with due := max d.due sc.toNat } }))) ∧
    (quiet → s.me.sbuf = [] → done (rows u) ∧
      Transfers (exec .syncf s) ((u.settleOlder h).modMe fun x => { x with icache := [] }) (past u)) ∧
    (¬ quiet ∨ u.drain h = none → exec .syncf s = holdAt .again u) ∧
    (¬ quiet ∨ (u.drain h = none ∧ 5 ≤ sc.toNat) → sc ≠ 0 →
      exec (.fenceFull sc) s = holdAt .again u ∧ exec (.fenceRel sc) s = holdAt .again u) ∧
    (u.enginesBusy h = true → exec (.fenceEng sc) s = holdAt .engines u)

/-! ## Control and status registers (spec/09) -/

/-- R206, R207: CSRR writes the CSR's value to D and CSRW, CSRS and CSRC write D, D or'ed in, or D's bits cleared, to its
writable fields, at their own marker. R205: a reserved number raises ILLEGAL_INSTRUCTION, one above the hart's mode PRIVILEGE
with the number, and one with no CSR, or a write of a read-only one, ILLEGAL_INSTRUCTION. -/
def Obligations.CsrAccessCompletes : Prop :=
  (∀ (o : CsrOp) (s : State) (v : Word) (x : Hart), s.me.waiting = false →
     let u := s.settled; let n := o.csr.toNat; let next := s.me.pc + BitVec.ofNat 64 (2 * s.cx.len)
     let d := u.committed o.d.toNat
     n < 0xC00 → n / 0x400 ≤ modeCode s.me.mode → csrValue u s.cx.hart n = some v →
       Transfers (exec (.csrr o) s) (u.setReg o.d v) next ∧
       (csrSet u.me n d = some x → Transfers (exec (.csrw o) s) (u.setHart s.cx.hart x) next) ∧
       (csrSet u.me n (v ||| d) = some x → Transfers (exec (.csrs o) s) (u.setHart s.cx.hart x) next) ∧
       (csrSet u.me n (v &&& ~~~d) = some x → Transfers (exec (.csrc o) s) (u.setHart s.cx.hart x) next)) ∧
  (∀ (o : CsrOp) (s : State), s.me.waiting = false → let n := o.csr.toNat; let u := s.settled
     ∀ f ∈ [Instr.csrr, .csrw, .csrs, .csrc],
       (0xC00 ≤ n → Traps (exec (f o) s) s 0x01 0 (s.cx.base.setWidth 64)) ∧
       (n < 0xC00 → modeCode s.me.mode < n / 0x400 → Traps (exec (f o) s) s 0x03 0 (BitVec.ofNat 64 n)) ∧
       (n < 0xC00 → n / 0x400 ≤ modeCode s.me.mode → csrValue u s.cx.hart n = none →
         csrSet u.me n 0 = none → Traps (exec (f o) s) s 0x01 0 (s.cx.base.setWidth 64)) ∧
       (n ∈ [0x000, 0x001, 0x002, 0x021] → f ≠ .csrr → Traps (exec (f o) s) s 0x01 0 (s.cx.base.setWidth 64)))

/-- R97, R208, R209, R212 to R214, R262, R294, R317, R327, R333, R404: a CSR reads back what was written to its writable
fields, and its other bits read zero; a format register and MONSTAT read back what was written but for a code that leaves a
field unchanged. R210: of STATUS utrap, intrap, pmode, pie and ie are written, pmode keeps its value on a write of 2 or 3, and
right after reset ie reads 1 and the others 0, as the mode of a hart that nothing has placed (log 1). -/
def Obligations.CsrWritesReadBack : Prop :=
  (∀ (s : State) (h : Nat) (v : Word),
     ∀ nm ∈ [(0x003, 0xFFFFF#64), (0x004, 0x1F), (0x012, ~~~0x1F), (0x013, ~~~0x1F), (0x014, 0xFFFF), (0x015, 0xFFFF),
       (0x018, ~~~0), (0x019, ~~~0), (0x020, 0xFF), (0x022, 0xFFFF), (0x030, ~~~0), (0x031, ~~~0),
       (0x032, 0xFFFFFFFFFFFF), (0x033, ~~~0), (0x034, ~~~0x1F), (0x040, ~~~0), (0x041, 0xFFFF00000FFF), (0x042, ~~~0),
       (0x043, ~~~1), (0x401, ~~~1), (0x402, 0xFFFF00000FFF), (0x403, ~~~0), (0x404, ~~~1), (0x405, 0x35FE36),
       (0x410, 0xFFFFFFFFFF000), (0x411, 0xFFFF), (0x801, ~~~1), (0x802, ~~~1), (0x803, 0xFFFF00000FFF), (0x804, ~~~0),
       (0x805, ~~~0)],
       ∃ y, csrSet (s.hart h) nm.1 v = some y ∧ csrValue (s.setHart h y) h nm.1 = some (v &&& nm.2) ∧
         { y with u := (s.hart h).u, cp := (s.hart h).cp, t := (s.hart h).t, mon := (s.hart h).mon } = s.hart h) ∧
  (∀ (s : State) (h : Nat) (v : Word), let x := s.hart h
     (∀ n ∈ [0x010, 0x011], ∃ y old w, csrSet x n v = some y ∧ csrValue s h n = some old ∧ csrValue (s.setHart h y) h n = some w ∧
       { y with u := { y.u with fmta := x.u.fmta, fmtb := x.u.fmtb } } = x ∧ w.toNat / 256 = 0 ∧ w.getLsbD 4 = false ∧
       w.getLsbD 7 = v.getLsbD 7 ∧ w.extractLsb' 5 2 = (if v.extractLsb' 5 2 = 3 then old else v).extractLsb' 5 2 ∧
       w.extractLsb' 0 4 = (if v.toNat % 16 ∈ [8, 12, 13] then v else old).extractLsb' 0 4) ∧
     (∃ y old w, csrSet x 0x800 v = some y ∧ csrValue s h 0x800 = some old ∧ csrValue (s.setHart h y) h 0x800 = some w ∧
       { y with mon := { y.mon with busy := x.mon.busy, rmode := x.mon.rmode } } = x ∧ w.toNat / 16 = 0 ∧ w.getLsbD 2 = false ∧
       w.getLsbD 3 = v.getLsbD 3 ∧ w.extractLsb' 0 2 = (if v.toNat % 4 = 3 then old else v).extractLsb' 0 2)) ∧
  (∀ (s : State) (h : Nat) (v : Word), ∃ y w, csrSet (s.hart h) 0x400 v = some y ∧
     csrValue (s.setHart h y) h 0x400 = some w ∧ y.mode = (s.hart h).mode ∧
     w.extractLsb' 10 2 = v.extractLsb' 10 2 ∧ w.extractLsb' 4 2 = v.extractLsb' 4 2 ∧
     (v.toNat / 256 % 4 < 2 → w.extractLsb' 8 2 = v.extractLsb' 8 2) ∧
     (2 ≤ v.toNat / 256 % 4 → y.t.pmode = (s.hart h).t.pmode) ∧
     w.extractLsb' 6 2 = BitVec.ofNat 2 (modeCode (s.hart h).mode) ∧ w.toNat / 2 ^ 12 = 0 ∧ w.toNat % 16 = 0 ∧
     csrValue State.reset h 0x400 = some 0x10)

/-- R214: TDELEG holds one bit per cause; the bits of the causes that R215 calls delegable are written as given and reset to
0, and all other bits read zero. -/
def Obligations.DelegationRegister : Prop :=
  (∀ (s : State) (h : Nat) (v : Word), ∃ y, csrSet (s.hart h) 0x405 v = some y ∧
    csrValue (s.setHart h y) h 0x405 = some y.t.tdeleg ∧
    ∀ c, y.t.tdeleg.getLsbD c = (decide (c ∈ [0x01, 0x02, 0x04, 0x05, 0x09, 0x0A, 0x0B, 0x0C, 0x0D, 0x0E, 0x0F, 0x10,
      0x12, 0x14, 0x15]) && v.getLsbD c)) ∧
  (∀ h, csrValue State.reset h 0x405 = some 0)

/-! ## Memory access (spec/01, spec/06, spec/10) -/

/-- R9, R17 to R19: an access to coordinate space is granted at its location and changes nothing, or raises only the first of
SPACE_INVALID, MISALIGNED, WINDOW_STRADDLE and PERMISSION that applies, with the address as issued. R11, R13: an address whose
top byte is 0xA0 names the core and offset of its fields, one with 0xA1 those reached from the issuer's by adding each field
modulo its width; a 1 in bits 55 to 30 of either, and any other top byte but 0x00 and 0xFF, is no address. -/
def Obligations.AccessCauseOrder : Prop :=
  (∀ (w : Who) (acc : Acc) (va : Word) (size align x : Nat) (s : State), 0 < align →
     (classify w.h va = .bad → access w acc va size align s = .trap 0x06 va s) ∧
     (classify w.h va ≠ .bad → va.toNat % align ≠ 0 → access w acc va size align s = .trap 0x04 va s) ∧
     (classify w.h va = .coord x → va.toNat % align = 0 →
       (0x18000 < x % 2 ^ 17 + size → access w acc va size align s = .trap 0x05 va s) ∧
       (x % 2 ^ 17 + size ≤ 0x18000 →
         (s.inSet w.part (coreOfBits x / 64) = false → access w acc va size align s = .trap 0x08 va s) ∧
         (s.inSet w.part (coreOfBits x / 64) = true → acc ≠ .fetch → acc ≠ .rowact →
           access w acc va size align s = .ok { key := Config.spadKey + x } s)))) ∧
  (∀ (h : Nat) (va : Word), h < Config.nHarts →
     let top := va.toNat / 2 ^ 56; let zero := va.toNat / 2 ^ 30 % 2 ^ 26 = 0; let c := h / 4
     (top = 0xA0 → zero → classify h va = .coord (va.toNat % 2 ^ 30)) ∧
     (top = 0xA1 → zero → ∃ x, classify h va = .coord x ∧ x < 2 ^ 30 ∧ x % 2 ^ 17 = va.toNat % 2 ^ 17 ∧
       x / 2 ^ 27 = (c / 1024 + va.toNat / 2 ^ 27) % 8 ∧
       x / 2 ^ 25 % 4 = (c / 64 % 4 + va.toNat / 2 ^ 25) % 4 ∧ x / 2 ^ 23 % 4 = (c / 256 % 4 + va.toNat / 2 ^ 23) % 4 ∧
       x / 2 ^ 17 % 64 = (c % 64 + va.toNat / 2 ^ 17) % 64) ∧
     (top = 0xA0 ∨ top = 0xA1 → ¬ zero → classify h va = .bad) ∧
     (top = 0x00 ∨ top = 0xFF → classify h va = .g) ∧
     (top ≠ 0x00 → top ≠ 0xFF → top ≠ 0xA0 → top ≠ 0xA1 → classify h va = .bad))

/-- R93, R98, R111: a checked access leaves harts, cores and arrays as they were, but for rows whose time has passed (R73), in
coordinate space everything, and memory unless it is counted in its leaf. R227, R216: a load, store or atomic with a
misaligned address traps at its chain, for every size, with no other effect. -/
def Obligations.AccessFrameAndTraps : Prop :=
  (∀ (w : Who) (acc : Acc) (va : Word) (size align : Nat) (s t : State) (p : Place),
     access w acc va size align s = .ok p t →
       t.harts = s.harts ∧ t.cores = s.cores ∧ t.launches = s.launches ∧ t.cx = s.cx ∧ t.keys = s.keys ∧
       (∀ g, { t.group g with slots := (s.group g).slots } = s.group g) ∧
       (∀ g k, { t.slot g k with st := (s.slot g k).st, holds := (s.slot g k).holds } = s.slot g k) ∧
       (classify w.h va ≠ .g → t = s) ∧
       ((∀ e entry level u, translate w va s = .ok (e, entry, level) u → bit e 9 = false) →
         t.mem = s.mem ∧ t.encUnits = s.encUnits ∧ t.parts = s.parts)) ∧
  (∀ (o : MemOp) (a : AmoOp) (c : CasOp) (s : State), s.me.waiting = false → s.me.todo = [] → let h := s.cx.hart
     let ea := s.rd o.a + s.off o.off; let ax := s.rd a.a + a.off; let ac := s.rd c.a
     (∀ f ∈ ([(Instr.ld2s, 2), (.ld2n, 2), (.ld4s, 4), (.ld4n, 4), (.ld8, 8), (.ld16, 16), (.st2, 2), (.st4, 4),
         (.st8, 8), (.st16, 16)] : List ((MemOp → Instr) × Nat)),
       classify h ea ≠ .bad → ea.toNat % f.2 ≠ 0 → Traps (exec (f.1 o) s) s 0x04 0 ea) ∧
     (∀ f ∈ [Instr.amoadd, .amoand, .amoor, .amoxor, .amomin, .amomax, .amominn, .amomaxn, .amoswap],
       classify h ax ≠ .bad → ax.toNat % 8 ≠ 0 → Traps (exec (f a) s) s 0x04 0 ax) ∧
     (classify h ax ≠ .bad → ax.toNat % 16 ≠ 0 → Traps (exec (.aaddz a) s) s 0x04 0 ax) ∧
     (classify h ac ≠ .bad → ac.toNat % 8 ≠ 0 → Traps (exec (.cas c) s) s 0x04 0 ac) ∧
     (classify h ac ≠ .bad → ac.toNat % 16 ≠ 0 → Traps (exec (.casq c) s) s 0x04 0 ac))

/-- R227: each scalar load of a readable operand completes with the bytes read, sign- or zero-extended, or as a pair, deferred
to the span's end; R228, R18: of open scratchpad bytes they are those bytes as the hart sees them, its own earlier stores
among them, and nothing else changes but that the banks read are awake and have made one more grant (R20, R42). -/
def Obligations.LoadsComplete : Prop :=
  (∀ (o : MemOp) (s t : State) (bs : List Byte), let h := s.cx.hart; let ea := s.rd o.a + s.off o.off; let d := o.d.toNat
     ∀ f ∈ ([(Instr.ld1s, 1, fun v => [.scalar d ((BitVec.ofNat 8 v).signExtend 64)]),
         (.ld1n, 1, fun v => [.scalar d (BitVec.ofNat 64 v)]),
         (.ld2s, 2, fun v => [.scalar d ((BitVec.ofNat 16 v).signExtend 64)]),
         (.ld2n, 2, fun v => [.scalar d (BitVec.ofNat 64 v)]),
         (.ld4s, 4, fun v => [.scalar d ((BitVec.ofNat 32 v).signExtend 64)]),
         (.ld4n, 4, fun v => [.scalar d (BitVec.ofNat 64 v)]), (.ld8, 8, fun v => [.scalar d (BitVec.ofNat 64 v)]),
         (.ld16, 16, fun v => [.scalar d (BitVec.ofNat 64 v), .scalar (d + 1) (BitVec.ofNat 64 (v / 2 ^ 64))])] :
         List ((MemOp → Instr) × Nat × (Nat → List Pend))),
       loadBytes h ea f.2.1 f.2.1 (acqScope o.ord o.sc) s = .ok bs t → bs.length = f.2.1 →
         Completes (exec (f.1 o) s) t (f.2.2 (ofBytes bs))) ∧
  (∀ (o : MemOp) (s : State) (x : Nat), let h := s.cx.hart; let ea := s.rd o.a + s.off o.off; let d := o.d.toNat
     classify h ea = .coord x → (acqScope o.ord o.sc = 0 ∨ ∀ e ∈ s.me.sbuf, e.sc = 0) →
     ∀ f ∈ ([(Instr.ld1s, 1, fun v => [.scalar d ((BitVec.ofNat 8 v).signExtend 64)]),
         (.ld1n, 1, fun v => [.scalar d (BitVec.ofNat 64 v)]),
         (.ld2s, 2, fun v => [.scalar d ((BitVec.ofNat 16 v).signExtend 64)]),
         (.ld2n, 2, fun v => [.scalar d (BitVec.ofNat 64 v)]),
         (.ld4s, 4, fun v => [.scalar d ((BitVec.ofNat 32 v).signExtend 64)]),
         (.ld4n, 4, fun v => [.scalar d (BitVec.ofNat 64 v)]), (.ld8, 8, fun v => [.scalar d (BitVec.ofNat 64 v)]),
         (.ld16, 16, fun v => [.scalar d (BitVec.ofNat 64 v), .scalar (d + 1) (BitVec.ofNat 64 (v / 2 ^ 64))])] :
         List ((MemOp → Instr) × Nat × (Nat → List Pend))),
       s.SpadOpen h x f.2.1 → ea.toNat % f.2.1 = 0 →
         s.pushedBefore h s.steps (Config.spadKey + x) f.2.1 false = false →
         Completes (exec (f.1 o) s) (s.wake (Config.spadKey + x) f.2.1)
           (f.2.2 (ofBytes ((List.range f.2.1).map fun i => s.viewByte h none (Config.spadKey + x + i)))))

/-- R227, R228: each scalar store to a writable operand completes with the low bytes of D, or of the pair, in the hart's store
buffer, to be performed at the location that the access names, and writes no register and no memory yet; of 16 bytes to host
memory each half is a store of its own. -/
def Obligations.StoresComplete : Prop :=
  ∀ (o : MemOp) (s t : State) (p : Place), let h := s.cx.hart; let ea := s.rd o.a + s.off o.off
    let v := (s.rd o.d).toNat; let w := v + 2 ^ 64 * (s.rd (o.d + 1)).toNat
    ∀ f ∈ ([(Instr.st1, 1, v), (.st2, 2, v), (.st4, 4, v), (.st8, 8, v), (.st16, 16, w)] :
        List ((MemOp → Instr) × Nat × Nat)),
      checked h .store ea f.2.1 f.2.1 s = .ok p t →
        let e : StoreEnt := { base := p.key, bytes := toBytes f.2.1 f.2.2, enc := p.enc, so := p.so,
                              sc := if o.ord.getLsbD 1 then o.sc.toNat else 0, va := ea,
                              pc := (t.hart h).pc, mode := (t.hart h).mode, born := t.steps }
        Completes (exec (f.1 o) s) (t.buffer h
          (if isHost p.key && f.2.1 == 16 then
            [{ e with bytes := e.bytes.take 8 }, { e with base := p.key + 8, bytes := e.bytes.drop 8, va := ea + 8 }]
          else [e])) []

/-- R83, R228: after bytes are written at a location, a read under the same key gives them, and every byte outside reads under
that key as before. R115: a store of the buffer to a scratchpad, performed there over links that are up and in words that are
correctable, writes its bytes from its first location on, and no other byte and no hart changes. -/
def Obligations.WrittenBytesRead : Prop :=
  (∀ (s : State) (enc : Option (BitVec 12)) (a : Nat) (bs : List Byte), let t := s.writeBytes enc a bs
     (∀ i, i < bs.length → t.readKey (s.slotKey enc) (a + i) = bs.getD i 0) ∧
     (∀ b, b < a ∨ a + bs.length ≤ b → t.readKey (s.slotKey enc) b = s.readKey (s.slotKey enc) b) ∧
     t.harts = s.harts ∧ t.cores = s.cores ∧ t.groups = s.groups ∧ t.parts = s.parts ∧ t.keys = s.keys) ∧
  (∀ (s : State) (h : Nat) (e : StoreEnt), isSpad e.base = true → e.mask = [] → e.enc = none →
     s.lostLink h e.base = none → s.eccBad e.base e.bytes.length = false → let t := s.perform h e
       (∀ i, i < e.bytes.length → t.readKey none (e.base + i) = e.bytes.getD i 0) ∧
       (∀ b, b < e.base ∨ e.base + e.bytes.length ≤ b → t.readKey none b = s.readKey none b) ∧
       (∀ k, k ≠ h → t.hart k = s.hart k) ∧ { t.hart h with icache := (s.hart h).icache } = s.hart h)

/-- R230, R231, R46: LDBT delivers bits BITP to BITP + w − 1 of the own scratchpad and STBT writes exactly those, for a width
of 1 to 64 from A or the immediate, and both advance BITP; SETBP sets BITP and returns its former value; a field that runs
past the scratchpad traps. -/
def Obligations.BitAccessCompletes : Prop :=
  ∀ (o : BitOp) (b : SetBp) (s : State), let h := s.cx.hart; let p := s.me.u.bitp.toNat
    let n := (match o.w with | .reg a => s.rd a | .imm v => v).toNat % 64; let w := if n = 0 then 64 else n
    let n8 := (p + w - 1) / 8 - p / 8 + 1
    let adv := fun (t : State) (q : Nat) => t.modMe fun x => { x with u := { x.u with bitp := BitVec.ofNat 20 q } }
    (p + w - 1 ≤ 0xBFFFF →
      (s.padTurn (Asker.reads h none) (s.readAsk h none (ownBit h p) n8 true false) = true → s.me.todo = [] → s.eccBad (ownBit h p) n8 = false →
        (acqScope o.ord o.sc = 0 ∨ ∀ e ∈ s.me.sbuf, e.sc = 0) →
        s.pushedBefore h s.steps (ownBit h p) n8 false = false → h < Config.nHarts →
        ∃ v, Completes (exec (.ldbt o) s) (adv (s.wake (ownBit h p) n8) (p + w)) [.scalar o.d.toNat v] ∧
          ∀ i, v.getLsbD i = (decide (i < w) && (s.viewByte h none (ownBit h (p + i))).getLsbD ((p + i) % 8))) ∧
      (∃ e, Completes (exec (.stbt o) s) (adv (s.buffer h [e]) (p + w)) [] ∧
        ∀ q, q < 0xC0000 → ((s.buffer h [e]).viewByte h none (ownBit h q)).getLsbD (q % 8) =
          if p ≤ q ∧ q < p + w then (s.rd o.d).getLsbD (q - p) else (s.viewByte h none (ownBit h q)).getLsbD (q % 8))) ∧
    (0xBFFFF < p + w - 1 → s.me.waiting = false →
      Traps (exec (.ldbt o) s) s 0x05 0 (BitVec.ofNat 64 p) ∧ Traps (exec (.stbt o) s) s 0x05 0 (BitVec.ofNat 64 p)) ∧
    Completes (exec (.setbp b) s) (adv s (s.rd b.a + b.imm).toNat) [.scalar b.d.toNat (BitVec.ofNat 64 p)]

/-- R232, R233: a read-modify-write of an open aligned doubleword of a scratchpad, with nothing of the hart that has to come
before it, writes the new value at once and returns the old one, deferred; at any other place, and with any annotation, it
completes with the old value that its access gives. -/
def Obligations.AtomicsComplete : Prop :=
  ∀ (o : AmoOp) (s t : State) (x : Nat) (bs : List Byte), let h := s.cx.hart; let ea := s.rd o.a + o.off
    let v := match o.v with | some b => s.rd b | none => s.rd o.d
    ∀ f ∈ ([(Instr.amoadd, true, fun m => m + v), (.amoand, false, fun m => m &&& v), (.amoor, false, fun m => m ||| v),
        (.amoxor, false, fun m => m ^^^ v), (.amomin, false, fun m => if m.toInt ≤ v.toInt then m else v),
        (.amomax, false, fun m => if v.toInt ≤ m.toInt then m else v),
        (.amominn, false, fun m => if m.toNat ≤ v.toNat then m else v),
        (.amomaxn, false, fun m => if v.toNat ≤ m.toNat then m else v), (.amoswap, true, fun _ => v)] :
        List ((AmoOp → Instr) × Bool × (Word → Word))),
      (classify h ea = .coord x → s.SpadOpen h x 8 true → ea.toNat % 8 = 0 →
        (∀ e ∈ s.me.sbuf, e.overlaps (Config.spadKey + x) 8 = false) → (o.ord = 0 ∨ (o.ord = 1 ∧ ∀ e ∈ s.me.sbuf, e.sc = 0)) →
        s.pushedBefore h s.steps (Config.spadKey + x) 8 false = false →
        let old := BitVec.ofNat 64 (ofBytes ((List.range 8).map fun i => s.viewByte h none (Config.spadKey + x + i)))
        Completes (exec (f.1 o) s)
          (((s.wake (Config.spadKey + x) 8).mend (Config.spadKey + x) 8).writeBytes none (Config.spadKey + x)
            (toBytes 8 (f.2.2 old).toNat)) [.scalar o.d.toNat old]) ∧
      (rmw h ea 8 o.ord o.sc f.2.1 (fun old => some (toBytes 8 (f.2.2 (BitVec.ofNat 64 (ofBytes old))).toNat)) s = .ok bs t →
        Completes (exec (f.1 o) s) t [.scalar o.d.toNat (BitVec.ofNat 64 (ofBytes bs))])

/-- R234: CAS and CASQ write the new value where the old one equals D, or pair D, report in c0 whether they did, and deliver
the old value. R235: AADDZ adds to the counter and returns its old value; when the sum is zero it also sends the trigger of
the second word, and waits while the queue of its home holds eight (what that queue counts is log 35's choice); in host memory
it raises PERMISSION. -/
def Obligations.CompareAndSwapAndCountersComplete : Prop :=
  (∀ (o : CasOp) (s t : State) (x : Nat) (bs : List Byte), let h := s.cx.hart; let ea := s.rd o.a
     let d := o.d.toNat; let key := Config.spadKey + x
     let pair := fun r : RegNo => (s.rd r).toNat + 2 ^ 64 * (s.rd (r + 1)).toNat
     let old := fun n => ofBytes ((List.range n).map fun i => s.viewByte h none (key + i))
     let done := fun (u : State) (n new : Nat) => (u.mend key n).writeBytes none key (toBytes n new)
     let first := fun n => (∀ e ∈ s.me.sbuf, e.overlaps key n = false) ∧ (o.ord = 0 ∨ (o.ord = 1 ∧ ∀ e ∈ s.me.sbuf, e.sc = 0)) ∧
       s.pushedBefore h s.steps key n false = false
     let awake := s.wake key
     (classify h ea = .coord x → s.SpadOpen h x 8 true → ea.toNat % 8 = 0 → first 8 →
       Completes (exec (.cas o) s) (if old 8 = (s.rd o.d).toNat then done (awake 8) 8 (s.rd o.b).toNat else awake 8)
         [.scalar 0 (if old 8 = (s.rd o.d).toNat then 1 else 0), .scalar d (BitVec.ofNat 64 (old 8))]) ∧
     (classify h ea = .coord x → s.SpadOpen h x 16 true → ea.toNat % 16 = 0 → first 16 →
       Completes (exec (.casq o) s) (if old 16 = pair o.d then done (awake 16) 16 (pair o.b) else awake 16)
         [.scalar 0 (if old 16 = pair o.d then 1 else 0), .scalar d (BitVec.ofNat 64 (old 16)),
          .scalar (d + 1) (BitVec.ofNat 64 (old 16 / 2 ^ 64))]) ∧
     (rmw h ea 8 o.ord o.sc true
         (fun m => if ofBytes m == (s.rd o.d).toNat then some (toBytes 8 (s.rd o.b).toNat) else none) s = .ok bs t →
       Completes (exec (.cas o) s) t
         [.scalar 0 (if ofBytes bs = (s.rd o.d).toNat then 1 else 0), .scalar d (BitVec.ofNat 64 (ofBytes bs))]) ∧
     (rmw h ea 16 o.ord o.sc true
         (fun m => if ofBytes m == pair o.d then some (toBytes 16 (pair o.b)) else none) s = .ok bs t →
       Completes (exec (.casq o) s) t
         [.scalar 0 (if ofBytes bs = pair o.d then 1 else 0), .scalar d (BitVec.ofNat 64 (ofBytes bs)),
          .scalar (d + 1) (BitVec.ofNat 64 (ofBytes bs / 2 ^ 64))])) ∧
  (∀ (o : AmoOp) (s t u : State) (p : Place) (bs : List Byte), let h := s.cx.hart; let ea := s.rd o.a + o.off
     let v := match o.v with | some b => s.rd b | none => s.rd o.d
     let sum := fun m : List Byte => BitVec.ofNat 64 (ofBytes (m.take 8)) + v
     let queue := (u.net.filter fun m => m.via == 1 && m.home == homeOf p.key).length
     checked h .atomic ea 16 16 s = .ok p t →
     (isHost p.key = true → s.me.waiting = false → Traps (exec (.aaddz o) s) s 0x08 0 ea) ∧
     (isHost p.key = false →
       rmwAt h p ea 16 o.ord o.sc (fun m => some (toBytes 8 (sum m).toNat ++ m.drop 8)) {} t = .ok bs u →
       (sum bs ≠ 0 → Completes (exec (.aaddz o) s) u [.scalar o.d.toNat (BitVec.ofNat 64 (ofBytes (bs.take 8)))]) ∧
       (sum bs = 0 → queue < 8 →
         Completes (exec (.aaddz o) s) (u.sendTrigger h p.key (BitVec.ofNat 64 (ofBytes (bs.drop 8))) ea)
           [.scalar o.d.toNat (BitVec.ofNat 64 (ofBytes (bs.take 8)))]) ∧
       (sum bs = 0 → 8 ≤ queue → o.ord = 0 → t.me.sbuf = [] → exec (.aaddz o) s = holdAccess .trigger t)))

/-- R222, R237: WAITPH delivers word 0 of a readable object whose phase is the awaited one, and is held otherwise; PREF
completes whatever its access comes to, and changes no hart, core, memory or partition, and nothing that its translation did
not. R48 to R56, R240, R241: RINGCFG installs a valid configuration with its counters at zero and the sequence of its low
bits, or leaves the ring; RINGPOP, and RINGADV behind the hart's stores, move head, or tail and sequence with the stamps, by n
and report the values before, or report −1 or −2 and change nothing; RINGQ reports the counters. -/
def Obligations.PollsAndRingsComplete : Prop :=
  (∀ (o : WaitPh) (f : PrefOp) (s t : State) (bs : List Byte), let h := s.cx.hart
     let w := BitVec.ofNat 64 (ofBytes bs); let va := s.rd f.a + f.off
     (loadBytes h (s.rd o.a) 8 16 0 s = .ok bs t →
       (w.getLsbD 63 = o.p → Completes (exec (.waitph o) s) t [.scalar o.d.toNat w]) ∧
       (w.getLsbD 63 ≠ o.p → exec (.waitph o) s = holdAt .waitph t)) ∧
     ∃ v, Completes (exec (.pref f) s) v [] ∧ v.harts = s.harts ∧ v.cores = s.cores ∧ v.mem = s.mem ∧
       v.encUnits = s.encUnits ∧ v.parts = s.parts ∧ (classify h va ≠ .g → v = s) ∧
       (classify h va = .g → s.boot.full = true → ∀ e entry level u p x,
         translate (s.who h) va s = .ok (e, entry, level) u →
         u.physical (s.who h) .load va e (e.toNat / 2 ^ 16 % 2 ^ 36 * 65536 + va.toNat % leafSize level) 1 = .ok p x → v = u)) ∧
  (∀ (q : RingNo) (a : RegNo) (n : BitVec 7) (s t : State), let g := s.cx.hart / 64; let w := s.rd a
     let r := s.ring g q.toNat; let mode := r.cfg.toNat / 2 ^ 62 % 4; let lg := r.cfg.toNat / 2 ^ 55 % 8
     let count := (r.tail - r.head).toNat
     let bad := RingCfg.valid w = false ∨ w.toNat / 2 ^ 62 % 4 = 3 ∨ w.toNat / 2 ^ 55 % 8 = 7 ∨ w.toNat / 2 ^ 16 % 2 ^ 16 ≠ 0
     (bad → Completes (exec (.ringcfg q a) s) s [.scalar 0 0]) ∧
     (¬ bad → Completes (exec (.ringcfg q a) s)
       (s.setRing g q.toNat { cfg := w, head := 0, tail := 0, seq := w.setWidth 16 }) [.scalar 0 1]) ∧
     (mode = 0 → Completes (exec (.ringadv q n) s) s [.scalar 0 (-2)] ∧
       Completes (exec (.ringpop q n) s) s [.scalar 0 (-2)]) ∧
     (mode ≠ 0 → 2 ^ lg < count + n.toNat → Completes (exec (.ringadv q n) s) s [.scalar 0 (-1)]) ∧
     (mode ≠ 0 → count + n.toNat ≤ 2 ^ lg →
       (if s.me.sbuf.any fun e => (List.range n.toNat).any fun i => e.overlaps (r.stampLoc g (r.tail + BitVec.ofNat 16 i)) 2
         then s.Drains t else State.DrainsIn 2 s t) →
       Completes (exec (.ringadv q n) s) ((t.stampSlots g r n.toNat).setRing g q.toNat
         { r with tail := r.tail + n.setWidth 16, seq := r.seq + n.setWidth 16 })
         [.scalar 0 (BitVec.ofNat 64 (r.tail.toNat + r.seq.toNat * 2 ^ 16))]) ∧
     (mode ≠ 0 → count < n.toNat → Completes (exec (.ringpop q n) s) s [.scalar 0 (-1)]) ∧
     (mode ≠ 0 → n.toNat ≤ count →
       (if s.me.sbuf.any fun e => e.overlaps (r.stampLoc g r.head) 2 then s.Drains t
         else State.DrainsIn (s.acquireAfter s.cx.hart 2) s t) →
       Completes (exec (.ringpop q n) s)
         ((t.wake (RingCfg.sideAt g r.cfg (r.head.toNat % 2 ^ lg) 128) 2).setRing g q.toNat
           { r with head := r.head + n.setWidth 16 })
         [.scalar 0 (BitVec.ofNat 64 (r.head.toNat + t.stamp g r (r.head.toNat % 2 ^ lg) * 2 ^ 16))]) ∧
     Completes (exec (.ringq q) s) s [.scalar 0 (BitVec.ofNat 64 (r.seq.toNat * 2 ^ 48 + r.tail.toNat * 2 ^ 32
       + r.head.toNat * 2 ^ 16 + mode * 2 ^ 14 + lg * 2 ^ 11))])

/-! ## Messages, barriers, quiescence (spec/18, spec/19) -/

/-- R337, R331: SEND completes by injecting the message of the header and the payload registers once the hart's earlier stores
are ordered before it for the scope of the destination (within the package marked as due, log 34's DESIGN CHOICE); SENDW
injects it and waits for its fate; while the class is stalled on the route (what counts as stalled is log 8's DEDUCED reading)
both wait. A header with a bit of 20:0 set, a payload that leaves its register file, an event message with a payload or for
the host, a host header with die, cluster, core or hart bits, an active gather (tag 0xF8) or scatter (0xF9) of a wrong form,
an unreachable package, or a cluster outside the partition raises MESSAGE_FORMAT with the header, and nothing is sent. R336,
R358: HRET ends the running handler and continues at HPC; a tracked one also counts down the launch of the hart that ran it
(log 15's DEDUCED reading: R358 does not say whose launch), with the stores ordered at that launch's outermost scope; outside
a handler it is illegal. R327: a write of MBTAB re-reads the eight mailbox entries of the hart; R365, R366: a write of FAULTQ
sets its head and posts held records while there is room, and in user mode raises PRIVILEGE. -/
def Obligations.SendsComplete : Prop :=
  (∀ (o : RR) (s t : State), let h := s.cx.hart; let hdr := s.rd o.a; let n := hdr.toNat / 2 ^ 49 % 8; let d := o.d.toNat
     let pay := (List.range n).map fun i => s.me.reg (d + i)
     (n = 0 ∨ (d + n - 1 < 76 ∧ fileOf d = fileOf (d + n - 1))) →
     s.sendRefused s.me.part (h / 4096) hdr pay = false →
     State.DrainsIn (if hdr.toNat / 2 ^ 21 % 2 ^ 10 = s.pkgnum.toNat then 4 else 5) s t →
       (t.stalled (t.ownMsg hdr pay false) = false → Completes (exec (.send o) s) (t.inject (t.ownMsg hdr pay false)) []) ∧
       (t.stalled (t.ownMsg hdr pay true) = false →
         exec (.sendw o) s = holdAt (.sendw 0) (t.inject (t.ownMsg hdr pay true))) ∧
       (t.stalled (t.ownMsg hdr pay false) = true → exec (.send o) s = holdAt .inject t) ∧
       (t.stalled (t.ownMsg hdr pay true) = true → exec (.sendw o) s = holdAt .inject t) ∧
       (t.ownMsg hdr pay false).hdr = hdr ∧ (t.ownMsg hdr pay false).pay = pay ∧ (t.inject (t.ownMsg hdr pay false)).mem = t.mem) ∧
  (∀ (o : RR) (s : State), s.me.waiting = false → let hdr := s.rd o.a; let n := hdr.toNat / 2 ^ 49 % 8; let d := o.d.toNat
     let bits := fun i k => hdr.toNat / 2 ^ i % 2 ^ k; let h := s.cx.hart; let w3 := (s.me.reg (d + 2)).toNat
     let cls := hdr.toNat / 2 ^ 52 % 16; let pkg := hdr.toNat / 2 ^ 21 % 2 ^ 10
     let cluster := hdr.toNat / 2 ^ 31 % 8 * 16 + hdr.toNat / 2 ^ 34 % 16
     (hdr.toNat % 2 ^ 21 ≠ 0 ∨ (0 < n ∧ (76 ≤ d + n - 1 ∨ fileOf d ≠ fileOf (d + n - 1))) ∨
       (cls = 15 ∧ (n ≠ 0 ∨ pkg = 0x3FF)) ∨ (pkg = s.pkgnum.toNat ∧ s.inSet s.me.part cluster = false) ∨
       (pkg ≠ s.pkgnum.toNat ∧ pkg ≠ 0x3FF ∧ 24 ≤ (Tab.get 0xFF s.tlpkg (h / 16384 * 1024 + pkg)).toNat) ∨
       (pkg = 0x3FF ∧ (bits 31 3 ≠ 0 ∨ bits 34 4 ≠ 0 ∨ bits 38 6 ≠ 0 ∨ bits 44 2 ≠ 0)) ∨
       (bits 56 8 = 0xF8 ∧ (bits 44 5 ≠ 0 ∨ n < 4 ∨ w3 / 2 ^ 32 % 2 ^ 16 + 3 ≠ n ∨ w3 / 2 ^ 48 ≠ 0 ∨
         w3 % 2 ^ 32 % 8 ≠ 0 ∨ w3 % 2 ^ 32 < 8 ∨ 2048 < w3 % 2 ^ 32)) ∨
       (bits 56 8 = 0xF9 ∧ (bits 44 5 ≠ 0 ∨ n < 3 ∨ n % 2 = 0))) →
     Traps (exec (.send o) s) s 0x15 0 hdr ∧ Traps (exec (.sendw o) s) s 0x15 0 hdr) ∧
  (∀ s t : State, s.me.waiting = false → let u := s.settled; let x := s.me
     let done := fun v : State => v.modMe fun y => { y with h := { y.h with running := false, tracked := false } }
     let scopeOf := fun (l : Launch) (k : Nat) => (l.words.getD (8 + k) 0).toNat / 2 ^ 50 % 8
     let outer := scopeOf (u.launch x.launch) ((u.launch x.launch).nlev - 1)
     (x.h.running = true → x.h.tracked = false → Transfers (exec .hret s) (done u) x.h.hpc) ∧
     (x.h.running = true → x.h.tracked = true → State.DrainsIn outer u t →
       Transfers (exec .hret s) (done (t.qAdd (t.cx.hart / 4) x.launch (-1))) x.h.hpc) ∧
     (x.h.running = false → Traps (exec .hret s) s 0x01 0 (s.cx.base.setWidth 64))) ∧
  (∀ (k : CsrKind) (d : RegNo) (s : State), s.me.waiting = false → let u := s.settled; let h := s.cx.hart
     let put := fun old : Word => match k with
       | .write => u.committed d.toNat | .set => old ||| u.committed d.toNat | .clear => old &&& ~~~u.committed d.toNat
     let table := u.modMe fun x =>
       { x with u := { x.u with mbtab := (put (BitVec.ofNat 64 (256 * x.u.mbtab.toNat))).extractLsb' 8 9 } }
     let g := h / 256; let c := u.cluster g
     let queue := u.modCluster g fun x =>
       { x with fqhead := (put (BitVec.ofNat 64 (c.fqtail.toNat * 2 ^ 32 + c.fqhead.toNat))).setWidth 32 }
     Transfers (exec (.mbtabWrite k d) s) (table.rereadTable h) (table.rereadTable h).nextPc ∧
     (s.me.mode ≠ .user → Transfers (exec (.faultqHeadWrite k d) s) (queue.postHeld g c.fqheld.length)
       (queue.postHeld g c.fqheld.length).nextPc) ∧
     (s.me.mode = .user → Traps (exec (.faultqHeadWrite k d) s) s 0x03 0 0x420))

/-- R355: BAR at a level outside the launch is illegal; of a spawned hart it reports −3, at a barrier of its partition open
for another launch −2, and at one opened at another level or by ARED −1; otherwise the hart's arrival is registered and it is
held, and the last one completes the episode. Harts of no partition share barriers of their own, the model's choice (log 35).
R358, R359: QADD adds to the launch's counter of the core, a negative value once the hart's stores have been ordered before
it; QWAIT registers the wait of its level and holds the hart. R356: ARED contributes the hart's value to its level and is
held, or completes the episode, with the codes −1, −2 and −3 of R355. -/
def Obligations.BarriersComplete : Prop :=
  (∀ (n : BitVec 4) (l : BitVec 3) (s t : State) (p : Nat), let h := s.cx.hart; let x := s.me
     let scopeOf := fun (l : Launch) (k : Nat) => (l.words.getD (8 + k) 0).toNat / 2 ^ 50 % 8
     let es := (s.part p).episodes; let i := exec (.bar n l) s
     let mine := es.find? fun e => e.n == n.toNat && e.launch == x.launch && x.idx.drop (e.level + 1) == e.inst
     let e := mine.getD { n := n.toNat, launch := x.launch, level := l.toNat, inst := x.idx.drop (l.toNat + 1) }
     let e' := { e with arrived := e.arrived ++ [(h, 0, [])],
                        mixed := e.mixed || !(e.op == 0 && e.t == 0 && e.w == 0) }
     let joined := (t.modPart p fun y => { y with episodes := y.episodes.filter (fun d => !(d == e)) ++ [e'] }).modMe fun y =>
       { y with arrived := y.arrived ++ [n.toNat] }
     ((s.launch x.launch).nlev ≤ l.toNat → s.me.waiting = false → Traps i s 0x01 0 (s.cx.base.setWidth 64)) ∧
     (l.toNat < (s.launch x.launch).nlev → x.part.getD 128 = p →
       (x.spawned = true → Completes i s [.scalar 0 (-3)]) ∧
       (x.spawned = false → x.arrived.contains n.toNat = false →
         ((∃ d ∈ es, d.n = n.toNat ∧ d.launch ≠ x.launch) → Completes i s [.scalar 0 (-2)]) ∧
         ((∀ d ∈ es, d.n = n.toNat → d.launch = x.launch) →
           (e.level ≠ l.toNat ∨ e.ared = true → Completes i s [.scalar 0 (-1)]) ∧
           (e.level = l.toNat → e.ared = false →
             State.DrainsIn (scopeOf (s.launch x.launch) l.toNat) s t →
             ∃ held, holdAt (.barrier n.toNat) joined = .next held ∧
               i = .next (if held.episodeFull e' then held.completeEpisode p e' else held)))))) ∧
  (∀ (v : RegOrImm) (l : Option (BitVec 3)) (s t : State) (p : Nat), let h := s.cx.hart; let launch := s.me.launch
     let scopeOf := fun (l : Launch) (k : Nat) => (l.words.getD (8 + k) 0).toNat / 2 ^ 50 % 8
     let d := (match v with | .reg a => s.rd a | .imm w => w).toInt
     let level := match l with | some k => k.toNat | none => (s.launch launch).nlev - 1
     (0 ≤ d → Completes (exec (.qadd v) s) (s.qAdd (h / 4) launch d) []) ∧
     (d < 0 → State.DrainsIn (scopeOf (s.launch launch) ((s.launch launch).nlev - 1)) s t →
       Completes (exec (.qadd v) s) (t.qAdd (t.cx.hart / 4) t.me.launch d) []) ∧
     (level < (s.launch launch).nlev → s.me.part.getD 128 = p → exec (.qwait l) s = holdAt (.qwait level)
       (s.modPart p fun x => { x with qwaits := x.qwaits.filter (·.h != h) ++ [{ h := h, level := level }] })) ∧
     ((s.launch launch).nlev ≤ level → s.me.waiting = false → Traps (exec (.qwait l) s) s 0x01 0 (s.cx.base.setWidth 64))) ∧
  (∀ (o : AredOp) (s t u : State) (p y : Nat) (bs : List Byte), let h := s.cx.hart; let va := s.rd o.a
     let w := o.w1.toNat + 1; let n := o.n.toNat; let l := o.l.toNat; let i := exec (.ared o) s
     let scopeOf := fun (l : Launch) (k : Nat) => (l.words.getD (8 + k) 0).toNat / 2 ^ 50 % 8
     let inside := y % 2 ^ 17 + 8 * w ≤ 0x18000; let aligned := va.toNat % 8 = 0
     let x := t.me; let es := (t.part p).episodes
     let mine := es.find? fun e => e.n == n && e.launch == x.launch && x.idx.drop (e.level + 1) == e.inst
     let e := mine.getD { n := n, launch := x.launch, level := l, inst := x.idx.drop (l + 1), ared := true,
                          op := o.op.toNat, t := o.t, w := w }
     let e' := { e with arrived := e.arrived ++ [(t.cx.hart, Config.spadKey + y, wordsOf bs w)],
                        mixed := e.mixed || !(e.op == o.op.toNat && e.t == o.t && e.w == w) }
     let joined := (u.modPart p fun k => { k with episodes := k.episodes.filter (fun d => !(d == e)) ++ [e'] }).modMe
       fun k => { k with arrived := k.arrived ++ [n] }
     l < (s.launch s.me.launch).nlev →
     (s.me.waiting = false → ((∀ z, classify h va ≠ .coord z) → Traps i s 0x06 0 va) ∧
       (classify h va = .coord y → (¬ aligned → Traps i s 0x04 0 va) ∧ (aligned → ¬ inside → Traps i s 0x05 0 va) ∧
         (aligned → inside → coreOfBits y ≠ h / 4 → Traps i s 0x08 0 va))) ∧
     (classify h va = .coord y → aligned → inside → coreOfBits y = h / 4 →
       readPlace h { key := Config.spadKey + y } (8 * w) 0 va s = .ok bs t → x.part.getD 128 = p →
       (x.spawned = true → Completes i t [.scalar 0 (-3)]) ∧
       (x.spawned = false → x.arrived.contains n = false →
         ((∃ d ∈ es, d.n = n ∧ d.launch ≠ x.launch) → Completes i t [.scalar 0 (-2)]) ∧
         ((∀ d ∈ es, d.n = n → d.launch = x.launch) →
           (e.level ≠ l ∨ e.ared = false → Completes i t [.scalar 0 (-1)]) ∧
           (e.level = l → e.ared = true →
             State.DrainsIn (if t.me.sbuf.any (fun d => d.overlaps (Config.spadKey + y) (8 * (wordsOf bs w).length)) then 5
               else scopeOf (t.launch x.launch) l) t u →
             ∃ held, holdAt (.barrier n) joined = .next held ∧
               i = .next (if held.episodeFull e' then held.completeEpisode p e' else held))))))

/-! ## Harts, launches, copies (spec/17, spec/19) -/

/-- R349, R305, R351: HALT, behind its span and the hart's stores, leaves the hart on its core's free list with no context.
R352: SPAWN starts the lowest free hart of the core that B names and delivers its HARTID, or 0 with none free, or −1 outside
the partition. R33, R209, R348: a hart that starts is Active at its entry in its launch's mode with a0 to a3 as given, all
else zero, ie set, and the launch's TVEC, PTROOT and PSPACE. -/
def Obligations.HartsStartAndEnd : Prop :=
  (∀ s t : State, s.me.waiting = false → let u := s.settled; let h := s.cx.hart
     let v := t.endHart h (u.launch s.me.launch)
     ((u.leaveAll h).flushStreams h = some t → t.me.st = (u.leaveAll h).me.st →
       (t.mailBlock h = none → exec .halt s = .next v ∧
         v.hart h = { u := { fflags := ((t.dropMailboxes h).hart h).u.fflags } }) ∧
       (∀ x since pa, t.mailBlock h = some (x, since, pa) →
         exec .halt s = holdAt .halting (t.modMb h x fun b => { b with bank := some (since, pa) }))) ∧
     ((u.leaveAll h).flushStreams h = none → exec .halt s = holdAt .halting (u.leaveAll h))) ∧
  (∀ (o : SpawnOp) (s t : State) (x g : Nat), let h := s.cx.hart; let b := s.rd o.b; let pc := s.rd o.a
     let id := s.me.launch; let free := s.freeHartOf (s.launch id) (coreOfBits x)
     (classify h b = .coord x → pc.getLsbD 0 = false →
       (s.inSet s.me.part (coreOfBits x / 64) = false → Completes (exec (.spawn o) s) s [.scalar o.d.toNat (-1)]) ∧
       (s.inSet s.me.part (coreOfBits x / 64) = true →
         (free = none → Completes (exec (.spawn o) s) s [.scalar o.d.toNat 0]) ∧
         (free = some g → State.DrainsIn 4 s t →
           Completes (exec (.spawn o) s) (t.startHart id g true [] (s.rd o.d) (BitVec.allOnes 64) pc)
             [.scalar o.d.toNat (t.hartId g)]))) ∧
     (s.me.waiting = false → (∀ y, classify h b ≠ .coord y) → Traps (exec (.spawn o) s) s 0x06 0 b) ∧
     (s.me.waiting = false → classify h b = .coord x → pc.getLsbD 0 = true → Traps (exec (.spawn o) s) s 0x04 0 pc)) ∧
  (∀ (s : State) (id g : Nat) (spawned : Bool) (idx : List Nat) (a1 a2 pc : Word), let l := s.launch id
     let x := (s.startHart id g spawned idx a1 a2 pc).hart g
     x.st = .active ∧ x.pc = pc ∧ x.mode = (if l.boot then .monitor else if l.kernel then .kernel else .user) ∧
     x.reg 12 = l.words.getD 1 0 ∧ x.reg 13 = a1 ∧ x.reg 14 = a2 ∧ x.reg 15 = BitVec.ofNat 64 id ∧
     (∀ r, r < 12 ∨ 16 ≤ r → x.reg r = 0) ∧ x.v = [] ∧ x.m = [] ∧ x.streams = [] ∧ x.u = {} ∧ x.cp = {} ∧ x.sbuf = [] ∧
     x.slotA = none ∧ x.slotB = none ∧ x.hold = none ∧ x.launch = id ∧ x.spawned = spawned ∧
     x.t.tvec = l.words.getD 4 0 &&& ~~~1#64 ∧ x.t.ptroot = l.words.getD 5 0 &&& 0xFFFFFFFFFF000#64 ∧
     x.t.pspace = (l.words.getD 6 0).setWidth 16 ∧ x.t.ie = true ∧ x.t.intrap = false ∧ x.t.utrap = false ∧
     x.t.tdeleg = 0 ∧ x.t.utvec = 0)

/-- R353: LAUNCH of a readable record posts it in the slot of tail and delivers the new launch identifier, or 0 where the
queue is full, off or fed by the host. R346, R347, R349, R350, R397, R398: the launch unit reads a posted slot, and again 256
ticks after a torn read; it fails a record of a dead partition with −4, a malformed one with −3, a bad image with −1 and one
of too many harts with −2, and else places its harts where free ones allow it; a launch whose work is over retires with its
message, and a retention that has expired powers its core down. -/
def Obligations.LaunchesComplete : Prop :=
  (∀ (o : LaunchOp) (s t u : State) (p : Nat) (bs : List (List Byte)), let h := s.cx.hart; let a := s.rd o.a
     let k := match o.b with | some b => (s.rd b).toNat | none => 0
     let q := t.lq p k; let slot := q.base + 512 * (q.tail.toNat % 2 ^ q.lgsize)
     let id := u.nextLaunch
     let v := { u with nextLaunch := if id + 1 < 2 ^ 32 then id + 1 else 1 }
     let posted := (v.devWriteFor h slot (bs.flatten ++ toBytes 8 q.tail.toNat)).modLq p k fun x =>
       { x with tail := x.tail + 1, ids := x.ids ++ [id] }
     (8 ≤ k → s.me.waiting = false → Traps (exec (.launch o) s) s 0x01 0 (s.cx.base.setWidth 64)) ∧
     (k < 8 → canonical a = false → s.me.waiting = false → Traps (exec (.launch o) s) s 0x06 0 a) ∧
     (k < 8 → canonical a = true → Look.each (fun i s => loadBytes h (a + BitVec.ofNat 64 (64 * i)) 64 64 0 s) (List.range 4) s = .ok bs t →
       t.me.part = some p →
       (q.open = false ∨ t.boot.full = false → Completes (exec (.launch o) s) t [.scalar o.d.toNat 0]) ∧
       (q.open = true → t.boot.full = true → t.bankFree slot ((t.who h).came slot t.tick) = true →
         t.Drains u → Completes (exec (.launch o) s) posted [.scalar o.d.toNat (BitVec.ofNat 64 id)]))) ∧
  (∀ (s : State), let i := s.ev.i; let j := s.ev.j; let q := s.lq i j
     (i < 128 → j < 8 →
       (q.head ≠ q.tail → q.taken = [] → s.boot.full = true →
         (q.tries = 0 → exec .launchSlotDecide s = .next (s.readSlot i j)) ∧
         (q.tries ≠ 0 → q.retryAt ≤ s.tick → exec .launchSlotReread s = .next (s.readSlot i j))) ∧
       (∀ t rest, q.taken = t :: rest → s.boot.full = true →
         (t.checked = false → let p := (t.words.getD 2 0).toNat % 128; let live := p = i ∧ (s.part i).live = true
           (¬ live → exec .launchRecord s = .next (s.launchFails i j t (-4))) ∧
           (live → recordWf t.words = false → exec .launchRecord s = .next (s.launchFails i j t (-3))) ∧
           (live → recordWf t.words = true → let v := s.imageRead q i t.words; let found := s.checkImage q i t.id t.words
             (found = .bad ∨ found = .ok none → exec .launchRecord s = .next (v.launchFails i j t (-1))) ∧
             (∀ l, found = .ok (some l) → let room := recHarts t.words ≤ 256 * (v.part i).clusters.length
               (¬ room → exec .launchRecord s = .next (v.launchFails i j t (-2))) ∧
               (room → let u := v.modLq i j fun q => { q with taken := { t with checked := true } :: rest }
                 exec .launchRecord s = .next { u with launches := Tab.put u.launches t.id l })))) ∧
         (t.checked = true → let l := s.launch t.id; let hs := s.ev.harts
           (s.part i).swSt = .resident → s.lowerFirst i j = false → s.placeOk (some i) l hs = true → s.claimOk (some i) l hs = true →
             exec .launchPlace s = .next ((s.placeHarts t.id hs).recordDone i j t))) ∧
       (∀ t : Taken, let u := s.modLq i j fun q => { q with taken := q.taken.drop 1, got := [], bank := none }
         let word := fun (o n : Nat) (v : State) => v.devWriteFor 0 (t.slot + o) (toBytes 8 n)
         s.recordDone i j t = (word 264 t.n.toNat (word 272 1 (word 280 (t.id % 2 ^ 64) u))).modLq i j fun q =>
           { q with head := if q.head == t.n then t.n + 1 else q.head, tries := 0, retryAt := 0 })) ∧
     ((s.launch i).placed = true → (s.launch i).retired = false → s.launchOver i = true → exec .launchRetire s =
       .next ((s.modLaunch i fun l => { l with retired := true }).launchDone (s.launch i).part i (s.launch i).words 1)) ∧
     (i < 8192 → (s.core i).resTag ≠ 0 → (s.core i).resUntil ≤ s.tick → exec .retentionExpiry s = .next (s.powerDown i)))

/-- R317, R320, R321: a read of CPGO with a malformed setup delivers all ones, and with no slot free 0; a good one starts a
transfer in the lowest free slot with a new generation, sets the promise, all ones for one that touches host memory or a peer,
and delivers the identifier. R323, R324: CPWAIT and CPQ of an ended, stale or foreign identifier deliver its status at once;
CPQ delivers that of a live one, and CPWAIT is held for it, or raises PROMISE_MISSED; CPABORT ends a live transfer at its
chunk boundary and reports whether there was one. -/
def Obligations.CopyInstructionsComplete : Prop :=
  (∀ (d : RegNo) (s t u : State) (bs : List Byte) (k : Nat) (sv dv : Word), s.me.waiting = false → let h := s.cx.hart
     loadBytes h s.settled.me.cp.param 32 32 0 s.settled = .ok bs t →
     let x := t.setup (wordsOf bs 4); let c := h / 4
     let src := if x.rsrc then .ok x.src else checkEnd t h x.part x.src x.sstride x.rows x.rowlen
     let dst := if x.rdst then .ok x.dst else checkEnd t h x.part x.dst x.dstride x.rows x.rowlen
     let y := { x with src := sv, dst := dv }; let remote := x.rsrc = true ∨ x.rdst = true
     let a := t.touchesHost y sv x.sstride; let b := t.touchesHost y dv x.dstride
     (setupBad x = true → Transfers (exec (.cpgoRead d) s) (t.setReg d (-1)) (t.setReg d (-1)).nextPc) ∧
     (setupBad x = false → src = .ok sv → dst = .ok dv →
       (t.freeXfer c = none → Transfers (exec (.cpgoRead d) s) (t.setReg d 0) (t.setReg d 0).nextPc) ∧
       (t.freeXfer c = some k → (remote ∨ (a ≠ none ∧ b ≠ none)) → t.Drains u →
         let old := (u.xfer c k).gen; let gen := if old + 1 < 8192 then old + 1 else 1
         ∃ v promise, exec (.cpgoRead d) s = .next v ∧
           v.xfer c k = { y with gen := gen, promise := promise } ∧
           (remote ∨ a = some true ∨ b = some true → promise = BitVec.allOnes 64) ∧ v.me.cp.prom = promise ∧
           v.committed d.toNat = BitVec.ofNat 64 (gen * 8 + k) ∧ v.mem = u.mem))) ∧
  (∀ (o : RR) (a : RegNo) (s : State) (c k : Nat) (x : Xfer), let h := s.cx.hart; let v := s.rd a; let w := s.rd o.a
     (s.whose h w = .none → Completes (exec (.cpq o) s) s [.scalar o.d.toNat 0]) ∧
     (s.whose h w = .stale → Completes (exec (.cpq o) s) s [.scalar o.d.toNat 0x21]) ∧
     (s.whose h w = .own c k x → Completes (exec (.cpq o) s) s [.scalar o.d.toNat (s.xferStatus x)]) ∧
     (∀ st, s.me.copyStatus = some st → Completes (exec (.cpwait a) s) s [.scalar 0 st]) ∧
     (s.whose h v = .none → (s.me.copyStatus = none → Completes (exec (.cpwait a) s) s [.scalar 0 0]) ∧
       Completes (exec (.cpabort a) s) s [.scalar 0 0]) ∧
     (s.whose h v = .stale → (s.me.copyStatus = none → Completes (exec (.cpwait a) s) s [.scalar 0 0x21]) ∧
       Completes (exec (.cpabort a) s) s [.scalar 0 0]) ∧
     (s.whose h v = .own c k x →
       (x.live = false → (s.me.copyStatus = none → Completes (exec (.cpwait a) s) s [.scalar 0 (s.xferStatus x)]) ∧
         Completes (exec (.cpabort a) s) s [.scalar 0 0]) ∧
       (x.live = true → s.promiseDue x = false → s.me.copyStatus = none →
         exec (.cpwait a) s = holdAt (.copy (v.toNat % 2 ^ 16) none) s) ∧
       (x.live = true → s.promiseDue x = true → s.me.copyStatus = none → s.me.waiting = false →
         Traps (exec (.cpwait a) s) (s.setXfer c k { x with missed := true }) 0x0C 0 (BitVec.ofNat 64 (v.toNat % 2 ^ 16))) ∧
       (x.live = true → x.resumed = some s.tick → Completes (exec (.cpabort a) s) s [.scalar 0 0]) ∧
       (x.live = true → x.resumed ≠ some s.tick → x.suspended = true ∨ x.chunk = none →
         Completes (exec (.cpabort a) s) (s.endXfer c k 2) [.scalar 0 1]) ∧
       (x.live = true → x.resumed ≠ some s.tick → x.suspended = false → x.chunk ≠ none →
         Completes (exec (.cpabort a) s) (s.setXfer c k { x with aborting := true }) [.scalar 0 1])))

/-! ## Vectors, masks and streams (spec/12) -/

/-- R34, R40, R182, R266, R267, R269: a vector source is the named register or the next element of a bound read stream, and a
result goes to the named register at the span's end or is pushed at the next element of a bound write stream, held while four
elements wait, those of its span among them; an octet register whose slot is empty or was filled in this span raises
VREG_NOT_HELD, and a stream that is unbound, bound the other way or at its end STREAM_UNBOUND, each with the number. -/
def Obligations.VectorOperandsRead : Prop :=
  (∀ (s : State) (r : RegNo), let h := s.cx.hart; let n := r.toNat; let x := s.me
     let held := fun b : Bool => if b then x.slotB.isSome && !x.freshB else x.slotA.isSome && !x.freshA
     (n < 16 → s.Reads [r] [Tab.get 0 x.v n] s) ∧
     (∀ o, 16 ≤ n → n < 32 → held (decide (24 ≤ n)) = true → (if n < 24 then x.slotA else x.slotB) = some o →
       s.Reads [r] [(Tab.get {} (s.core (h / 4)).octets o).data.getD (n % 8) 0] s) ∧
     (16 ≤ n → n < 32 → held (decide (24 ≤ n)) = false →
       vreadList h [] [r] s = .trap 0x0D (BitVec.ofNat 64 n) s) ∧
     (∀ e es, 32 ≤ n → (s.stream h (n - 32)).bound = true → (s.stream h (n - 32)).wr = false →
       (s.stream h (n - 32)).buf = e :: es → s.Reads [r] [e.data] s) ∧
     (32 ≤ n → ((s.stream h (n - 32)).bound = false ∨ (s.stream h (n - 32)).wr = true ∨
         ((s.stream h (n - 32)).buf = [] ∧ (s.stream h (n - 32)).total ≤ (s.stream h (n - 32)).pos)) →
       vreadList h [] [r] s = .trap 0x10 (BitVec.ofNat 64 (n - 32)) s)) ∧
  (∀ (s t : State) (d : RegNo) (p : Place), let h := s.cx.hart; let n := d.toNat; let x := s.me
     let held := fun b : Bool => if b then x.slotB.isSome && !x.freshB else x.slotA.isSome && !x.freshA
     let st := s.stream h (n - 32); let e := st.pos + x.pushes (n - 32)
     (n < 16 ∨ (n < 32 ∧ held (decide (24 ≤ n)) = true) → s.Takes d (fun v => .vec n v) s) ∧
     (16 ≤ n → n < 32 → held (decide (24 ≤ n)) = false → x.waiting = false →
       ∀ k, Traps (vdst d s k) s 0x0D 0 (BitVec.ofNat 64 n)) ∧
     (32 ≤ n → st.bound = false ∨ st.wr = false ∨ st.total ≤ e → x.waiting = false →
       ∀ k, Traps (vdst d s k) s 0x10 0 (BitVec.ofNat 64 (n - 32))) ∧
     (32 ≤ n → st.bound = true → st.wr = true → e < st.total →
       (4 ≤ st.buf.length + x.pushes (n - 32) → ∀ k, vdst d s k = holdAt (.streamFull (n - 32)) s) ∧
       (st.buf.length + x.pushes (n - 32) < 4 → checked h .store (st.addr e) 64 64 s = .ok p t →
         s.Takes d (fun v => .push (n - 32)
           { data := v, key := p.key, enc := p.enc, so := p.so, va := st.addr e, born := t.steps }) t)))

/-- R244 to R249, R250: a lane-wise instruction of two operands writes f of the lanes of x and y to each active lane and keeps
the old value of the others, and raises the flags of the active lanes: integers wrap or saturate in their type's range, a
quotient by zero is all ones, shifts use y modulo the width, and floats are as R249 gives (Flags.lean). -/
def Obligations.VectorArithmeticCompletes : Prop :=
  ∀ (o : VOp) (s t u : State) (vs : List VWord) (put : VWord → Pend), let ty := o.t; let w := WF.width ty
    let srcs := vSources o.d o.a o.y; let x := (vXy ty o.y vs).1; let y := (vXy ty o.y vs).2
    let neg := ty.toNat < 4
    let val := fun n : Nat => if neg ∧ 2 ^ (w - 1) ≤ n then (n : Int) - 2 ^ w else n
    let lo : Int := if neg then -2 ^ (w - 1) else 0; let hi : Int := if neg then 2 ^ (w - 1) - 1 else 2 ^ w - 1
    let wrap := fun (sat : Bool) (v : Int) => ((if sat then max lo (min hi v) else v) % 2 ^ w).toNat
    let fmt := fmtOf ty
    let both := fun (sat : Bool) (g : Int → Int → Int) (ff : FFmt → Nat → Nat → Flagged) (a b : Nat) =>
      if WF.isFloat ty then ff fmt a b else (wrap sat (g (val a) (val b)), 0)
    s.Reads srcs vs t → t.Takes o.d put u →
    ∀ f ∈ ([(Instr.vadd, both o.var (fun a b => a + b) fAdd), (.vsub, both o.var (fun a b => a - b) fSub),
        (.vmul, both o.var (fun a b => a * b) fMul), (.vmin, both false min fMin), (.vmax, both false max fMax),
        (.vdiv, fun a b => if WF.isFloat ty then fDiv fmt a b
          else (if b = 0 then 2 ^ w - 1 else wrap false ((val a).tdiv (val b)), 0)),
        (.vand, fun a b => (a &&& b, 0)), (.vor, fun a b => (a ||| b, 0)), (.vxor, fun a b => (a ^^^ b, 0)),
        (.vshl, fun a b => (a * 2 ^ (b % w) % 2 ^ w, 0)), (.vshr, fun a b => (a / 2 ^ (b % w) % 2 ^ w, 0)),
        (.vsar, fun a b =>
          (((if 2 ^ (w - 1) ≤ a then (a : Int) - 2 ^ w else a) / 2 ^ (b % w) % 2 ^ w).toNat, 0)),
        (.vclmul, fun a b => (if o.var then clmul a b 64 / 2 ^ 64 else clmul a b 64 % 2 ^ 64, 0))] :
        List ((VOp → Instr) × (Nat → Nat → Flagged))),
      ∃ v, Completes (exec (f.1 o) s) (u.pops u.cx.hart srcs)
          (put v :: flagPend (u.laneFlags o.m ((List.range (WF.lanes ty)).map fun i => (f.2 (lane w x i) (lane w y i)).2))) ∧
        ∀ i, i < WF.lanes ty → lane w v i =
          if u.active o.m i then (f.2 (lane w x i) (lane w y i)).1 % 2 ^ w else lane w (u.oldDst o.d) i

/-- R247, R249, R250: VFMA and VFMS add the product of x and y to, or take it from, the old lane of D with one rounding, or
exactly in integers before they wrap or saturate; VSEL takes the lane of x or y that m0 selects; VABS, VNEG, VSQRT and VPOPC
act on each active lane; R251: VCVT converts the lanes of the source type that its part names. -/
def Obligations.VectorFusedAndUnaryComplete : Prop :=
  (∀ (o : VOp) (s t u : State) (vs : List VWord) (put : VWord → Pend), let ty := o.t; let w := WF.width ty
     let srcs := vSources o.d o.a o.y; let x := (vXy ty o.y vs).1; let y := (vXy ty o.y vs).2; let d := vs.getLastD 0
     let f := fun (minus : Bool) (a b c : Nat) =>
       if WF.isFloat ty then fMulAdd (fmtOf ty) minus a b c
       else
         let p := laneInt ty a * laneInt ty b
         (intResult ty o.var (if minus then laneInt ty c - p else p + laneInt ty c), 0)
     t.Takes o.d put u →
     (s.Reads (srcs ++ [o.d]) vs t → ∀ g ∈ [(Instr.vfma, false), (.vfms, true)],
       ∃ v, Completes (exec (g.1 o) s) (u.pops u.cx.hart (srcs ++ [o.d]))
           (put v :: flagPend (u.laneFlags o.m
             ((List.range (WF.lanes ty)).map fun i => (f g.2 (lane w x i) (lane w y i) (lane w d i)).2))) ∧
         ∀ i, i < WF.lanes ty → lane w v i = if u.active o.m i then
           (f g.2 (lane w x i) (lane w y i) (lane w d i)).1 % 2 ^ w else lane w (u.oldDst o.d) i) ∧
     (s.Reads srcs vs t → ∃ v, Completes (exec (.vsel o) s) (u.pops u.cx.hart srcs) [put v] ∧
       ∀ i, i < WF.lanes ty → lane w v i = if u.active o.m i then
         lane w (if (Tab.get 0 u.me.m 0).getLsbD i then x else y) i else lane w (u.oldDst o.d) i)) ∧
  (∀ (o : VUn) (c : VCvt) (s t u : State) (vs : List VWord) (put : VWord → Pend), let ty := o.t; let w := WF.width ty
     let x := vs.getD 0 0; let fl := WF.isFloat ty; let fmt := fmtOf ty
     let es := WF.lanes c.src; let ed := WF.lanes c.t
     let from' := fun k => if ed < es then some (c.part.toNat * ed + k)
       else if c.part.toNat * es ≤ k ∧ k < c.part.toNat * es + es then some (k - c.part.toNat * es) else none
     let cv := fun k => match from' k with
       | some i => cvtLane c.t c.src c.rz (lane (WF.width c.src) x i)
       | none => (lane (WF.width c.t) (u.oldDst c.d) k, 0)
     (s.Reads [o.a] vs t → t.Takes o.d put u →
       ∀ f ∈ ([(Instr.vabs, fun a => if fl then fAbs fmt a else (intResult ty o.var (laneInt ty a).natAbs, 0)),
           (.vneg, fun a => if fl then fNeg fmt a else (intResult ty o.var (-(laneInt ty a)), 0)),
           (.vsqrt, fSqrt fmt), (.vpopc, fun a => ((List.range w).countP fun i => a.testBit i, 0))] :
           List ((VUn → Instr) × (Nat → Flagged))),
         ∃ v, Completes (exec (f.1 o) s) (u.pops u.cx.hart [o.a])
             (put v :: flagPend (u.laneFlags o.m ((List.range (WF.lanes ty)).map fun i => (f.2 (lane w x i)).2))) ∧
           ∀ i, i < WF.lanes ty → lane w v i =
             if u.active o.m i then (f.2 (lane w x i)).1 % 2 ^ w else lane w (u.oldDst o.d) i) ∧
     (s.Reads [c.a] vs t → t.Takes c.d put u →
       ∃ v, Completes (exec (.vcvt c) s) (u.pops u.cx.hart [c.a])
           (put v :: flagPend (u.laneFlags c.m ((List.range ed).map fun k => (cv k).2))) ∧
         ∀ k, k < ed → lane (WF.width c.t) v k = if u.active c.m k then (cv k).1 % 2 ^ WF.width c.t
           else lane (WF.width c.t) (u.oldDst c.d) k))

/-- R250: a comparison writes one bit per lane, the relation where the lane is active and the old bit elsewhere, with zeros
above; a NaN makes it false. R257: the mask operations act on the bits below E of their masks and clear the others; MKPOPC
counts them, MKFIRST gives the lowest one or −1, MKSET and MKGET move them from and to a register. -/
def Obligations.VectorComparesAndMasksComplete : Prop :=
  (∀ (o : VCmp) (s t : State) (vs : List VWord), let ty := o.t; let w := WF.width ty
     let srcs := vSources (o.d.setWidth 7) o.a o.y; let x := (vXy ty o.y vs).1; let y := (vXy ty o.y vs).2
     let nan := fun a b : Nat => ((fmtOf ty).read a).isNan || ((fmtOf ty).read b).isNan
     let sig := fun a b : Nat => ((fmtOf ty).read a).isSig || ((fmtOf ty).read b).isSig
     let f := fun (quiet : Bool) (rel : Int → Int → Bool) (a b : Nat) =>
       if WF.isFloat ty then
         if nan a b then (false, if sig a b || !quiet then 16#5 else 0)
         else (rel (valueKey (fmtOf ty) a) (valueKey (fmtOf ty) b), 0#5)
       else (rel (laneInt ty a) (laneInt ty b), 0#5)
     s.Reads srcs vs t →
     ∀ g ∈ ([(Instr.vcmpeq, f true fun a b => a == b), (.vcmplt, f false fun a b => decide (a < b)),
         (.vcmple, f false fun a b => decide (a ≤ b))] : List ((VCmp → Instr) × (Nat → Nat → Bool × BitVec 5))),
       ∃ m, Completes (exec (g.1 o) s) (t.pops t.cx.hart srcs) (.mask o.d.toNat m ::
           flagPend (t.laneFlags o.m ((List.range (WF.lanes ty)).map fun i => (g.2 (lane w x i) (lane w y i)).2))) ∧
         ∀ i, i < 64 → m.getLsbD i = (decide (i < WF.lanes ty) && if t.active o.m i then
           (g.2 (lane w x i) (lane w y i)).1 else (Tab.get 0 t.me.m o.d.toNat).getLsbD i)) ∧
  (∀ (o : MkOp) (r : MkToReg) (f : MkFromReg) (s : State), let m := fun k : BitVec 3 => Tab.get 0 s.me.m k.toNat
     let x := match o.b with | some _ => m o.a | none => m o.d
     let y := match o.b with | some b => m b | none => m o.a
     let low := fun (t : TypeCode) (v : Word) => BitVec.ofNat 64 (v.toNat % 2 ^ WF.lanes t)
     let e := WF.lanes r.t; let a := m r.a
     Completes (exec (.mkand o) s) s [.mask o.d.toNat (low o.t (x &&& y))] ∧
     Completes (exec (.mkor o) s) s [.mask o.d.toNat (low o.t (x ||| y))] ∧
     Completes (exec (.mkxor o) s) s [.mask o.d.toNat (low o.t (x ^^^ y))] ∧
     Completes (exec (.mknot o) s) s [.mask o.d.toNat (low o.t (~~~m o.a))] ∧
     Completes (exec (.mkpopc r) s) s [.scalar r.d.toNat (BitVec.ofNat 64 ((List.range e).countP fun i => a.getLsbD i))] ∧
     Completes (exec (.mkfirst r) s) s [.scalar r.d.toNat (match (List.range e).find? fun i => a.getLsbD i with
       | some i => BitVec.ofNat 64 i | none => -1)] ∧
     Completes (exec (.mkset f) s) s [.mask f.d.toNat (low f.t (s.rd f.a))] ∧
     Completes (exec (.mkget r) s) s [.scalar r.d.toNat (low r.t a)])

/-- R252 to R254: VBCAST fills the active lanes; VEXTR delivers lane y of A, sign- or zero-extended by its type; VINS writes
one lane; VPERM moves lanes by index or rotation; VCOMPR packs the active lanes from lane 0 with zeros above, and VEXPD
spreads the lowest lanes over the active ones, each with their number in c0. -/
def Obligations.LaneMovementCompletes : Prop :=
  ∀ (b : VBc) (o : VOp) (c : VUn) (s t u : State) (vs : List VWord) (put : VWord → Pend),
    let w := WF.width o.t; let e := WF.lanes o.t; let x := vs.getD 0 0; let z := vs.getD 1 0
    let k := fun s : State => (match o.y with | .none => 0 | .reg r => s.rd r | .imm v => v).toNat % e
    let srcs := vSources o.d o.a o.y
    let act := fun v : State => (List.range (WF.lanes c.t)).filter fun i => v.active c.m i
    (s.Takes b.d put u → ∃ v, Completes (exec (.vbcast b) s) u [put v] ∧ ∀ i, i < WF.lanes b.t →
      lane (WF.width b.t) v i = if u.active b.m i then
        (match b.v with | .reg a => u.rd a | .imm n => n).toNat % 2 ^ WF.width b.t
        else lane (WF.width b.t) (u.oldDst b.d) i) ∧
    (s.Reads [o.a] vs t → Completes (exec (.vextr o) s) (t.pops t.cx.hart [o.a])
      [.scalar o.d.toNat (BitVec.ofInt 64 (laneInt o.t (lane w x (k t))))]) ∧
    (s.Takes o.d put u → ∃ v, Completes (exec (.vins o) s) u [put v] ∧ ∀ i, i < e →
      lane w v i = if i = k u then (u.rd o.a).toNat % 2 ^ w else lane w (u.oldDst o.d) i) ∧
    (s.Reads srcs vs t → t.Takes o.d put u → ∃ v, Completes (exec (.vperm o) s) (u.pops u.cx.hart srcs) [put v] ∧
      ∀ i, i < e → lane w v i = if u.active o.m i then
        lane w x ((match o.y with | .imm n => i + n.toNat | _ => lane w z i) % e) else lane w (u.oldDst o.d) i) ∧
    (s.Reads [c.a] vs t → t.Takes c.d put u →
      (∃ v, Completes (exec (.vcompr c) s) (u.pops u.cx.hart [c.a]) [put v, .scalar 0 (BitVec.ofNat 64 (act u).length)] ∧
        ∀ i, i < WF.lanes c.t → lane (WF.width c.t) v i =
          if h : i < (act u).length then lane (WF.width c.t) x ((act u)[i]) else 0) ∧
      (∃ v, Completes (exec (.vexpd c) s) (u.pops u.cx.hart [c.a]) [put v, .scalar 0 (BitVec.ofNat 64 (act u).length)] ∧
        ∀ i, i < WF.lanes c.t → lane (WF.width c.t) v i = if u.active c.m i then
          lane (WF.width c.t) x (((act u).filter (· < i)).length) else lane (WF.width c.t) (u.oldDst c.d) i))

/-- R255, R256: VPSUM gives the running sums of the active lanes from the operand on; the reductions fold the lanes by a tree
whose inactive lanes hold the identity, integers at 64 bits and floats at their type with its flags, into scalar D. -/
def Obligations.VectorSumsComplete : Prop :=
  ∀ (o : VOp) (r : VUn) (s t u : State) (vs : List VWord) (put : VWord → Pend),
    let w := WF.width o.t; let x := vs.getD 0 0
    let c := (match o.y with | .none => 0 | .reg r => u.rd r | .imm v => v).toNat % 2 ^ w
    let sums := prefixSums (arith o.t o.var (· + ·) fAdd) c
      ((List.range (WF.lanes o.t)).map fun i => (lane w x i, u.active o.m i))
    (s.Reads [o.a] vs t → t.Takes o.d put u →
      ∃ v, Completes (exec (.vpsum o) s) (u.pops u.cx.hart [o.a]) (put v :: flagPend (u.laneFlags o.m (sums.map (·.2)))) ∧
        ∀ i, i < WF.lanes o.t → lane w v i = if u.active o.m i then (sums.getD i (0, 0)).1 % 2 ^ w
          else lane w (u.oldDst o.d) i) ∧
    (s.Reads [r.a] vs t → r.t.toNat < 8 →
      let vals := ((List.range (WF.lanes r.t)).filter fun i => t.active r.m i).map fun i =>
        laneInt r.t (lane (WF.width r.t) x i)
      let lo : Int := if r.t.toNat < 4 then -2 ^ (WF.width r.t - 1) else 0
      let hi : Int := if r.t.toNat < 4 then 2 ^ (WF.width r.t - 1) - 1 else 2 ^ WF.width r.t - 1
      Completes (exec (.vredadd r) s) (t.pops t.cx.hart [r.a]) [.scalar r.d.toNat (BitVec.ofInt 64 vals.sum)] ∧
      Completes (exec (.vredmin r) s) (t.pops t.cx.hart [r.a]) [.scalar r.d.toNat (BitVec.ofInt 64 (vals.foldl min hi))] ∧
      Completes (exec (.vredmax r) s) (t.pops t.cx.hart [r.a]) [.scalar r.d.toNat (BitVec.ofInt 64 (vals.foldl max lo))]) ∧
    (s.Reads [r.a] vs t → 8 ≤ r.t.toNat → r.t.toNat < 12 → ∀ g ∈ ([(Instr.vredadd, fAdd, (fmtOf r.t).sign true),
        (.vredmin, fMin, (fmtOf r.t).inf), (.vredmax, fMax, (fmtOf r.t).inf + (fmtOf r.t).sign true)] :
        List ((VUn → Instr) × (FFmt → Nat → Nat → Flagged) × Nat)),
      let top := (tree (g.2.1 (fmtOf r.t)) 6 ((List.range (WF.lanes r.t)).map fun i =>
        (if t.active r.m i then lane (WF.width r.t) x i else g.2.2, 0))).getD 0 (0, 0)
      Completes (exec (g.1 r) s) (t.pops t.cx.hart [r.a])
        (.scalar r.d.toNat (BitVec.ofNat 64 top.1) :: flagPend top.2))

/-- R258, R259: a vector load or store checks every active lane in lane order before it accesses any; a load writes the
elements read to those lanes, and a store issues the stores of all, unordered among themselves; VLD and VST need 64-byte
alignment. R260: VLDBT delivers to each active lane its field, sign-extended for a signed type, and advances BITP over the
fields of all lanes. The first lane whose check fails raises its cause with no lane accessed. That the lanes of a load are
read in lane order is log 5's DESIGN CHOICE: R138 leaves them unordered. -/
def Obligations.VectorMemoryCompletes : Prop :=
  (∀ (o : VMem) (g : VGat) (s t u q r v : State) (vs : List VWord) (put : VWord → Pend) (ps ps' : List Place)
     (bss : List (List Byte)) (before after : List LaneAt) (l : LaneAt) (c : Nat) (a : Word),
     let load := fun (i : Instr) (n : Nat) (m : BitVec 3) (d : RegNo) (acq : Nat) (whole : Bool) (srcs : List RegNo)
         (addr : Nat → Word) =>
       let ls := ((List.range (64 / n)).filter fun k => u.active m k).map fun k => (k, addr k)
       t.Takes d put u →
       (checkLanes u.cx.hart .load n ls u = .ok ps q →
         (if whole then grantLanes u.cx.hart n ps ((ls.map (·.2)).headD 0) q else .ok ps q) = .ok ps' r →
         readLanes u.cx.hart n acq (ls.zip ps') r = .ok bss v → bss.all (fun bs => bs.length == n) = true → u.me.m = v.me.m →
           ∃ z, Completes (exec i s) (v.pops v.cx.hart srcs) [put z] ∧ ∀ k, k < 64 / n →
             lane (8 * n) z k = if v.active m k then ofBytes ((bss.getD ((ls.map (·.1)).idxOf k) [])) else
               lane (8 * n) (v.oldDst d) k) ∧
       (ls = before ++ l :: after → checkLanes u.cx.hart .load n before u = .ok ps q →
         checked u.cx.hart .load l.2 n n q = .trap c a r → r.me.waiting = false → Traps (exec i s) r c 0 a)
     let ea := s.rd o.a + s.off o.off; let b := s.rd g.a; let n := if g.w4 then 4 else 8
     let step := match o.off with | .none => 8 | .reg b => s.rd b | .imm w => w
     (t = s → ea.toNat % 64 = 0 →
       load (.vld o) 8 o.m o.d (acqScope o.ord o.sc) true [] fun k => ea + BitVec.ofNat 64 (8 * k)) ∧
     (t = s → load (.vlds o) 8 o.m o.d (acqScope o.ord o.sc) false [] fun k => s.rd o.a + BitVec.ofNat 64 k * step) ∧
     (s.Reads [g.b] vs t → load (.vgath g) n g.m g.d (acqScope g.ord g.sc) false [g.b] fun k =>
       b + (BitVec.ofNat 64 (lane (8 * n) (vs.getD 0 0) k) <<< g.sh.toNat)) ∧
     (s.me.waiting = false → classify s.cx.hart ea ≠ .bad → ea.toNat % 64 ≠ 0 → s.Takes o.d put t →
       Traps (exec (.vld o) s) s 0x04 0 ea)) ∧
  (∀ (o : VMem) (g : VGat) (s t q u : State) (vs : List VWord) (ps : List Place) (before after : List LaneAt) (l : LaneAt)
     (c : Nat) (a : Word),
     let store := fun (i : Instr) (n : Nat) (m : BitVec 3) (v : VWord) (rel : Nat) (whole : Bool) (srcs : List RegNo)
         (addr : Nat → Word) =>
       let ls := ((List.range (64 / n)).filter fun k => t.active m k).map fun k => (k, addr k)
       (checkLanes t.cx.hart .store n ls t = .ok ps u →
         Completes (exec i s) ((u.buffer t.cx.hart ((ls.zip ps).map fun (l, p) =>
           { base := p.key, bytes := toBytes n (lane (8 * n) v l.1), enc := p.enc, so := p.so, sc := rel, va := l.2,
             pc := (u.hart t.cx.hart).pc, mode := (u.hart t.cx.hart).mode, born := u.steps, vec := true, whole := whole })).pops u.cx.hart srcs) []) ∧
       (ls = before ++ l :: after → checkLanes t.cx.hart .store n before t = .ok ps q →
         checked t.cx.hart .store l.2 n n q = .trap c a u → u.me.waiting = false → Traps (exec i s) u c 0 a)
     let ea := s.rd o.a + s.off o.off; let b := s.rd g.a; let n := if g.w4 then 4 else 8
     let scope := fun (ord : OrderCode) (sc : ScopeCode) => if ord.getLsbD 1 then sc.toNat else 0
     let step := match o.off with | .none => 8 | .reg b => s.rd b | .imm w => w
     (s.Reads [o.d] vs t →
       (ea.toNat % 64 = 0 → store (.vst o) 8 o.m (vs.getD 0 0) (scope o.ord o.sc) true [o.d] fun k =>
         ea + BitVec.ofNat 64 (8 * k)) ∧
       (t.me.waiting = false → classify t.cx.hart ea ≠ .bad → ea.toNat % 64 ≠ 0 → Traps (exec (.vst o) s) t 0x04 0 ea) ∧
       store (.vsts o) 8 o.m (vs.getD 0 0) (scope o.ord o.sc) false [o.d] fun k => s.rd o.a + BitVec.ofNat 64 k * step) ∧
     (s.Reads [g.b, g.d] vs t → store (.vscat g) n g.m (vs.getD 1 0) (scope g.ord g.sc) false [g.b, g.d] fun k =>
       b + (BitVec.ofNat 64 (lane (8 * n) (vs.getD 0 0) k) <<< g.sh.toNat))) ∧
  (∀ (o : VLdbt) (s t u : State) (put : VWord → Pend) (vs : List Nat), let w := o.w.toNat; let e := WF.lanes o.t
     let p := s.me.u.bitp.toNat; let act := (List.range e).filter fun i => t.active o.m i
     (p + e * w - 1 ≤ 0xBFFFF → s.Takes o.d put t →
       Look.each (fun i s => readBits true t.cx.hart (p + i * w) w 0 s) act t = .ok vs u → u.me.m = t.me.m →
         ∃ v, Completes (exec (.vldbt o) s) (u.modMe fun x => { x with u := { x.u with bitp := BitVec.ofNat 20 (p + e * w) } })
             [put v] ∧
           ∀ i, i < e → lane (WF.width o.t) v i = if t.active o.m i then
             (let n := vs.getD (act.idxOf i) 0
              if o.t.toNat < 4 then ((if n < 2 ^ (w - 1) then (n : Int) else n - 2 ^ w) % 2 ^ WF.width o.t).toNat
              else n % 2 ^ WF.width o.t)
             else lane (WF.width o.t) ((u.modMe fun x => { x with u := { x.u with bitp := BitVec.ofNat 20 (p + e * w) } }).oldDst
               o.d) i) ∧
     (0xBFFFF < p + e * w - 1 → s.Takes o.d put t → t.me.waiting = false →
       Traps (exec (.vldbt o) s) t 0x05 0 (BitVec.ofNat 64 p)))

/-- R261: VTOPK ranks the active lanes of A, without the zeros under .nz, from the largest down, equal ones by lane; D
receives the k first and D + 1 their lanes, and c0 is their number. R265, R57, R64: VCBEXP delivers to each active lane the
codebook entry that its index selects. -/
def Obligations.SelectionAndExpansionComplete : Prop :=
  (∀ (o : VTopk) (s t u v : State) (vs : List VWord) (put put' : VWord → Pend), let ty := o.t; let w := WF.width ty
     let k := o.k.toNat
     let key := fun n : Nat => if WF.isFloat ty then
         if ((fmtOf ty).read n).isNan then (-2 ^ 70 : Int) else valueKey (fmtOf ty) n else laneInt ty n
     let zero := fun n : Nat => if WF.isFloat ty then n % 2 ^ (w - 1) = 0 else n = 0
     let val := fun i => lane w (vs.getD 0 0) i
     let cand := fun i => i < WF.lanes ty ∧ v.active o.m i = true ∧ ¬ (o.nz = true ∧ zero (val i))
     let before := fun i j => key (val j) < key (val i) ∨ (key (val i) = key (val j) ∧ i < j)
     s.Reads [o.a] vs t → t.Takes o.d put u → u.Takes (o.d + 1) put' v → ty.toNat < 12 → k ≤ 16 → k ≤ WF.lanes ty →
       ∃ (x y : VWord) (top : List Nat),
         Completes (exec (.vtopk o) s) (v.pops v.cx.hart [o.a]) [put x, put' y, .scalar 0 (BitVec.ofNat 64 top.length)] ∧
         top.Pairwise before ∧ (∀ i ∈ top, cand i) ∧ top.length ≤ k ∧
         (∀ i, cand i → i ∉ top → top.length = k ∧ ∀ j ∈ top, before j i) ∧
         (∀ j, j < WF.lanes ty → lane w x j = if h : j < top.length then val top[j] else if j < k then lowest ty else 0) ∧
         (∀ j, j < 16 → lane 32 y j = if h : j < top.length then top[j] else if j < k then 0xFFFFFFFF else 0)) ∧
  (∀ (o : VCbexp) (s t u : State) (vs : List VWord) (put : VWord → Pend), let six := o.t = 13
     let srcs := if o.t = 12 then [o.a, o.b] else [o.a, o.b, o.b + 1]
     let index := fun i => lane (WF.width o.t) (vs.getD 0 0) (o.j.toNat + i)
     (o.t = 12 ∨ six) → s.Reads srcs vs t → t.Takes o.d put u →
       ∃ v, Completes (exec (.vcbexp o) s) (u.pops u.cx.hart srcs) [put v] ∧
         ∀ i, i < 32 → lane 16 v i = if u.active o.m i then
           (if six ∧ 85 ≤ o.j.toNat + i then 0 else lane 16 (vs.getD (1 + index i / 32) 0) (index i % 32))
           else lane 16 (u.oldDst o.d) i)

/-- R262, R263: VRNG takes one step of the generator for each active lane in ascending order, and no other; each such lane
receives the sum of the two state words after its step. R264: VPRUNE writes the kept lanes and zero to the others of the
active lanes, and which were kept to m0; each group of four that has an active lane keeps exactly n of its lanes, and one that
has none is skipped, its bits of m0 becoming zero (log 35's choice). -/
def Obligations.RandomLanesAndPruningComplete : Prop :=
  (∀ (m : BitVec 3) (d : RegNo) (s t : State) (put : VWord → Pend),
     let next := fun g : Word × Word =>
       let a := if g.1 = 0 ∧ g.2 = 0 then 0x9E3779B97F4A7C15#64 else g.1
       let b := a ^^^ (a <<< 23)
       (g.2, b ^^^ g.2 ^^^ (b >>> 17) ^^^ (g.2 >>> 26))
     let start := (t.me.u.rnglo, t.me.u.rnghi)
     let rank := fun i => ((List.range i).filter fun j => t.active m j).length
     let after := fun i => Nat.rec (motive := fun _ => Word × Word) start (fun _ g => next g) i
     s.Takes d put t →
       ∃ v, Completes (exec (.vrng m d) s)
           (t.modMe fun x => { x with u := { x.u with rnglo := (after (rank 8)).1, rnghi := (after (rank 8)).2 } }) [put v] ∧
         ∀ i, i < 8 → lane 64 v i = if t.active m i then ((after (rank i + 1)).1 + (after (rank i + 1)).2).toNat
           else lane 64 (t.oldDst d) i) ∧
  (∀ (o : VUn) (s t u : State) (vs : List VWord) (put : VWord → Pend), let w := WF.width o.t; let e := WF.lanes o.t
     let n := if o.var then 1 else 2; let sel := pruneAll o.t n (vs.getD 0 0) o.m (List.range (e / 4)) u
     s.Reads [o.a] vs t → t.Takes o.d put u → o.t.toNat < 12 →
       ∃ v m, Completes (exec (.vprune o) s) (sel.2.pops sel.2.cx.hart [o.a]) [put v, .mask 0 m] ∧
         (∀ i, i < e → lane w v i = if u.active o.m i then (if i ∈ sel.1 then lane w (vs.getD 0 0) i else 0)
           else lane w (u.oldDst o.d) i) ∧
         (∀ i, i < 64 → m.getLsbD i = (decide (i < e) && u.active o.m i && decide (i ∈ sel.1))) ∧ sel.1.Nodup ∧
         (∀ i ∈ sel.1, i < e) ∧ ∀ g, g < e / 4 → (sel.1.filter fun i => i / 4 == g).length =
           if (List.range 4).any fun j => u.active o.m (4 * g + j) then n else 0) ∧
  (∀ (mags : List (Option Nat)) (n : Nat) (s : State), mags.length = 4 → n = 1 ∨ n = 2 →
     let kept := (pruneGroup mags n s).1
     kept.length = n ∧ kept.Nodup ∧ ∀ j ∈ kept, j < 4)

/-- R35, R36, R266: VCLAIM of a hart that holds no octet joins the claim queue and is held; VGIVE gives an octet to a hart of
the core, whose event flag it sets, or to the pool, which clears it; VTAKE puts the oldest gift into the lowest empty slot;
each reports in c0. R267, R268: SBIND releases its stream and binds it where its descriptor is valid, and reports in c0;
SUNBIND releases it, a write stream once its elements have been written. -/
def Obligations.OctetsAndStreamsComplete : Prop :=
  (∀ (two b : Bool) (g : BitVec 2) (s : State) (o : Nat) (os : List Nat), let h := s.cx.hart; let c := h / 4; let x := s.me
     let slot := if b then x.slotB else x.slotA; let fresh := if b then x.freshB else x.freshA
     let gone := (s.flushSlot b).modMe fun x => if b then { x with slotB := none } else { x with slotA := none }
     let to' := c * 4 + g.toNat
     (x.slotA = none → x.slotB = none → exec (.vclaim two) s = holdAt (.claim (if two then 2 else 1))
       (s.modCore c fun k => { k with claims := k.claims ++ [{ h := h, n := if two then 2 else 1 }] })) ∧
     (x.slotA.isSome ∨ x.slotB.isSome → x.waiting = false → Traps (exec (.vclaim two) s) s 0x0E 0 0) ∧
     (slot = none ∨ fresh = true → x.waiting = false →
       Traps (exec (.vgive b (some g)) s) s 0x0D 0 (if b then 24 else 16) ∧
       Traps (exec (.vgive b none) s) s 0x0D 0 (if b then 24 else 16)) ∧
     (slot = some o → fresh = false →
       Completes (exec (.vgive b none) s) (gone.freeOctet c o) [.scalar 0 0] ∧
       ((gone.hart to').st = .free → Completes (exec (.vgive b (some g)) s) (gone.freeOctet c o) [.scalar 0 0]) ∧
       ((gone.hart to').st ≠ .free → Completes (exec (.vgive b (some g)) s)
         (((gone.setOctet c o { gone.octet c o with st := .given h to' }).modCore c fun k =>
           { k with gifts := k.gifts ++ [o] }).modHart to' fun x => { x with event := true }) [.scalar 0 1])) ∧
     (s.giftsTo h = [] → Completes (exec .vtake s) s [.scalar 0 0]) ∧
     (s.giftsTo h = o :: os → x.slotA.isSome → x.slotB.isSome → Completes (exec .vtake s) s [.scalar 0 (-1)]) ∧
     (s.giftsTo h = o :: os → (x.slotA = none ∨ x.slotB = none) → ∃ t, Completes (exec .vtake s) t [.scalar 0 1] ∧
       t.octet c o = { s.octet c o with st := .held h } ∧
       (x.slotA = none → t.me = { x with slotA := some o, freshA := true }) ∧
       (x.slotA ≠ none → t.me = { x with slotB := some o, freshB := true }))) ∧
  (∀ (s : State) (c o : Nat) (st : OctetSt), (s.freeOctet c o).octet c o = {} ∧
     ((s.setOctet c o { s.octet c o with st := st }).octet c o).data = (s.octet c o).data) ∧
  (∀ (o : SBindOp) (n : BitVec 3) (s t u : State) (bs : List Byte), let h := s.cx.hart; let k := o.n.toNat
     let num := fun a m : Nat => ofBytes ((bs.drop a).take m)
     let counts := (List.range 4).map fun i => if i < num 8 1 then num (16 + 4 * i) 4 else 1
     let strides := (List.range 4).map fun i => if i < num 8 1 then BitVec.ofNat 64 (num (32 + 8 * i) 8) else 0
     let valid := num 0 8 % 64 = 0 ∧ 1 ≤ num 8 1 ∧ num 8 1 ≤ 4 ∧ num 9 7 = 0 ∧ (∀ c ∈ counts, 1 ≤ c) ∧
       ∀ d ∈ strides, d.toNat % 64 = 0
     let freed := fun (m : Nat) (v : State) => let x := s.stream h m; let f := s.flushPushes m
       (x.bound = false ∧ v = s) ∨ (x.bound = true ∧ x.wr = false ∧ v = s.modStream h m fun _ => {}) ∨
       (x.bound = true ∧ x.wr = true ∧ ∃ w, State.writeElements h m (f.stream h m).buf.length f = some w ∧
         w.me.st = s.me.st ∧ v = w.modStream h m fun _ => {})
     (freed n.toNat t → Completes (exec (.sunbind n) s) t []) ∧
     (freed k t → loadBytes h (s.rd o.a + o.off) 64 64 0 t = .ok bs u →
       (¬ valid → Completes (exec (.sbind o) s) u [.scalar 0 0]) ∧
       (valid → Completes (exec (.sbind o) s) (u.modStream u.cx.hart k fun _ =>
         { bound := true, wr := o.wr, base := BitVec.ofNat 64 (num 0 8), ndim := num 8 1, counts := counts,
           strides := strides }) [.scalar 0 1])))

/-! ## Maps, arrays and rows (spec/14, spec/15) -/

/-- R276 to R279, R286 to R288: a map instruction, behind the hart's stores, is sent to the home of its descriptor and on to
that of its shard; what that accepts pins its pages, joins the home's queue and leaves its results to it, while no operation
on the same shard is queued there; a misaligned or non-canonical descriptor address, and what a home refuses, traps. -/
def Obligations.MapInstructionsComplete : Prop :=
  ∀ (o : MapKey) (m : MapAddr) (c : MapStep) (d : RegNo) (s : State), let x := s.me; let h := s.cx.hart
    let own := fun op : MapOp => { op with h := h, ptroot := x.t.ptroot, pspace := x.t.pspace, part := x.part, mode := x.mode }
    let pair := fun (two : Bool) (r : RegNo) => if two then [s.rd r, s.rd (r + 1)] else [s.rd r]
    let keyed := fun (kind : MapKind) (takes : Bool) => own
      { kind := kind, k16 := o.k16, vf := o.vf.toNat, d := o.d.toNat, named := s.rd o.a + o.off, key := pair o.k16 o.b,
        val := if takes && o.vf != 2 then pair (o.vf == 1) o.d else [] }
    let plain := fun (kind : MapKind) (r : Nat) => own { kind := kind, d := r, named := s.rd m.a + m.off }
    ∀ f ∈ ([(Instr.mprobe o, keyed .probe false, s.rd o.d), (.mins o, keyed .ins true, s.rd o.d),
        (.mups o, keyed .ups true, s.rd o.d), (.mrem o, keyed .rem false, s.rd o.d), (.minit m, plain .init 0, 0),
        (.mgrow m, plain .grow 0, 0), (.mstat d m, plain .stat d.toNat, 0),
        (.mstep c, own { kind := .step, named := s.rd c.a + c.off,
                         n := match c.b with | some b => min (s.rd b).toNat 64 | none => 1 }, 0),
        (.miter o, own { kind := .iter, k16 := o.k16, d := o.d.toNat, b := o.b.toNat, named := s.rd o.a + o.off,
                         key := [s.rd o.b] }, 0)] : List (Instr × MapOp × Word)),
      let op := f.2.1; let va := op.named; let i := exec f.1 s
      (x.waiting = false → va.toNat % 64 ≠ 0 → Traps i s 0x04 0 va) ∧
      (x.waiting = false → va.toNat % 64 = 0 → canonical va = false → Traps i s 0x06 0 va) ∧
      (∀ (b : Option Nat) (s1 t : State), va.toNat % 64 = 0 → canonical va = true → bufferOf op f.2.2 s = .ok b s1 →
        s1.Drains t → let sent := { op with buf := b }
        (∀ cause a u, mapShard (t.who h) sent t = .trap cause a u → u.me.waiting = false → Traps i u cause 0 a) ∧
        (∀ s2, mapShard (t.who h) sent t = .ok none s2 →
          Completes i (s2.machineCheck 6 0 h va va) [.scalar 0 (-4)]) ∧
        (∀ g d0 sa s2, mapShard (t.who h) sent t = .ok (some (g, d0, sa)) s2 → s2.requestCut h (g * 2 ^ 32) = none →
          (∀ cause a u, acceptMap (s2.who h) sent g d0 sa s2 = .trap cause a u → (s2.cluster g).pinEntries.length < 256 →
            u.me.waiting = false → Traps i u cause 0 a) ∧
          (∀ s3, acceptMap (s2.who h) sent g d0 sa s2 = .ok none s3 → (s2.cluster g).pinEntries.length < 256 →
            Completes i (s3.machineCheck 6 0 h sa sa) [.scalar 0 (-4)]) ∧
          (∀ op' s3, acceptMap (s2.who h) sent g d0 sa s2 = .ok (some op') s3 →
            let pages := (op'.pages.map (·.2.1)).eraseDups
            (∀ e ∈ (s2.cluster g).mapq, e.loc ≠ op'.loc) → s3.replyCut h (g * 2 ^ 32) = none →
            s2.pinRoom g (s2.hart h).part (s2.hart h).t.pspace pages = true →
              let id := s3.draw.1
              let u := pages.foldl (fun v p => v.pin g ⟨x.part, x.t.pspace, p, .mapOp id⟩) s3.draw.2
              Awaits i (u.modCluster g fun k => { k with mapq := k.mapq ++ [{ op' with wait := id }] }) id)))

/-- R274, R275, R280: what a keyed operation does at its home, on a shard that is not growing and stays under its threshold,
in pages checked at acceptance: a key is found in the first bucket of its chain that holds it, and is absent where no bucket
up to the first with a tag-0 slot does. MPROBE and MREM give its value, MREM marks the slot deleted and counts it out, MINS of
a key that is there reports −1, MUPS writes its value; of an absent key MINS and MUPS fill the first slot of tag 0 or 1 along
the chain and count it in, or report −2 where there is none. No other word of the pages changes. -/
def Obligations.MapResults : Prop :=
  ∀ (op : MapOp) (g : Nat) (d : Desc) (s t : State) (a : MapAns),
    let tag := tagOfHash (mapHash (Desc.seed d) op.key); let bs := chainVas d (Desc.w d 1) (mapHash (Desc.seed d) op.key)
    let page := fun va : Word => op.pages.find? fun p => p.1 == va.toNat / 65536
    let word := fun (s : State) (va : Word) => match page va with
      | some p => BitVec.ofNat 64 (ofBytes (s.readBytes p.2.2 (p.2.1 * 65536 + va.toNat % 65536) 8))
      | none => 0
    let at' := fun (va : Word) (n : Nat) => (List.range n).map fun i => va + BitVec.ofNat 64 (8 * i)
    let words := fun (s : State) (va : Word) (n : Nat) => (at' va n).map (word s)
    let tagOf := fun (s : State) (x : SlotAt) => tagAt (word s x.bucket) x.i
    let slots := bs.flatMap fun b => (List.range 4).map fun i => (⟨b, i⟩ : SlotAt)
    let holds := fun x : SlotAt => tagOf s x = tag ∧ words s (x.keyVa d) (Desc.kw d) = op.key
    let found := fun x : SlotAt => x ∈ slots ∧ holds x
    let absent := ∀ (pre post : List Word) (b : Word), bs = pre ++ b :: post → (∀ c ∈ pre, ∀ i, i < 4 → tagOf s ⟨c, i⟩ ≠ 0) →
      ∀ i, i < 4 → ¬ holds ⟨b, i⟩
    let same := fun but : List Word => ∀ va : Word, va.toNat % 8 = 0 → (page va).isSome → va ∉ but → word t va = word s va
    let value := fun x : SlotAt => some (words s (x.valVa d) (Desc.vw d))
    let retag := fun (x : SlotAt) (n : Nat) => tagOf t x = n ∧ ∀ i, i < 4 → i ≠ x.i → tagOf t ⟨x.bucket, i⟩ = tagOf s ⟨x.bucket, i⟩
    let enters := fun c : Word =>
      (∃ pre x post, slots = pre ++ x :: post ∧ (∀ y ∈ pre, 2 ≤ tagOf s y) ∧ tagOf s x < 2 ∧ a.c0 = c ∧ a.out = none ∧
        retag x tag ∧ words t (x.keyVa d) (Desc.kw d) = op.key ∧ words t (x.valVa d) (Desc.vw d) = op.val ∧
        Desc.count a.d = (Desc.count d + 1) % 2 ^ 32 ∧ same (x.bucket :: at' (x.keyVa d) (Desc.kw d + Desc.vw d))) ∨
      ((∀ x ∈ slots, 2 ≤ tagOf s x) ∧ a.c0 = -2 ∧ a.out = none ∧ a.d = d ∧ same [])
    d.length = 8 → Desc.growing d = false → (op.pages.map (·.2.1)).Nodup →
    (∀ b ∈ bs, ∀ va ∈ at' b (Desc.bucket d / 8), (page va).isSome) →
    op.key.length = Desc.kw d → op.val.length = Desc.vw d →
    (Desc.count d + 1) * 8 ≤ Desc.thr d * 2 ^ Desc.lg (Desc.w d 1) * 4 → mapAct op g d s = .ok a t →
      (op.kind = .probe → a.d = d ∧ same [] ∧
        ((∃ x, found x ∧ a.c0 = 1 ∧ a.out = value x) ∨ (absent ∧ a.c0 = 0 ∧ a.out = none))) ∧
      (op.kind = .rem →
        (∃ x, found x ∧ a.c0 = 1 ∧ a.out = value x ∧ retag x 1 ∧ same [x.bucket] ∧
          Desc.count a.d = (Desc.count d + 2 ^ 32 - 1) % 2 ^ 32) ∨
        (absent ∧ a.c0 = 0 ∧ a.out = none ∧ a.d = d ∧ same [])) ∧
      (op.kind = .ins →
        (∃ x, found x ∧ a.c0 = -1 ∧ a.out = none ∧ a.d = d ∧ same []) ∨ (absent ∧ enters 1)) ∧
      (op.kind = .ups →
        (∃ x, found x ∧ a.c0 = 1 ∧ a.out = none ∧ a.d = d ∧ words t (x.valVa d) (Desc.vw d) = op.val ∧
          same (at' (x.valVa d) (Desc.vw d))) ∨ (absent ∧ enters 0))

/-- R291 to R293, R306, R308: MXLEASE takes a free array for its run, reports −1 to a hart that holds one, or is held in the
array's queue; MXFREE ends the lease and releases the banks; MXZERO, and MXLDC and MXST behind the hart's stores, enter a
queue of fewer than eight commands, with the pages of their object pinned; MXLSET sets iteration count and steps and gives the
former ones. -/
def Obligations.MatrixInstructionsComplete : Prop :=
  ∀ (arr : Option (BitVec 2)) (n : BitVec 7) (banks : BitVec 2) (bank : Bool) (o : MxBank) (d : RegNo) (v : RegOrImm)
    (s : State), let h := s.cx.hart; let g := s.curGroup h
    let a := match arr with | some k => k.toNat | none => h / 64 % 4
    let k := h / 256 * 4 + a; let b := s.rd o.b
    let w := match v with | .reg r => s.rd r | .imm w => w
    ((s.leased h).isSome → Completes (exec (.mxlease arr n) s) s [.scalar 0 (-1)]) ∧
    (s.leased h = none → (s.group k).holder = none → (s.group k).lq = [] →
      Completes (exec (.mxlease arr n) s) ((s.modGroup k fun x => { x with holder := some (h, n.toNat) }).modMe fun x =>
        { x with array := a }) [.scalar 0 1]) ∧
    (s.leased h = none → ¬ ((s.group k).holder = none ∧ (s.group k).lq = []) →
      exec (.mxlease arr n) s =
        holdAt (.lease k n.toNat) (s.modGroup k fun x => { x with lq := x.lq ++ [{ h := h, n := n.toNat }] })) ∧
    (let t := s.dropLease h; let u := if banks.getLsbD 0 then t.queueRelease g 0 h else t
     Completes (exec (.mxfree banks) s) (if banks.getLsbD 1 then u.queueRelease g 1 h else u) []) ∧
    ((s.group g).queued < 8 → let id := s.draw.1
      Awaits (exec (.mxzero bank) s) (s.draw.2.modGroup g fun x => { x with cmds := x.cmds ++
        [{ kind := .zero, h := h, bank := if bank then 1 else 0, wait := id, launch := s.me.launch }] }) id) ∧
    (∀ (p : Place) (t u : State), unitPlace .atomic (s.rd o.a) 16 16 s = .ok p t →
      s.pinRoom (g / 4) s.me.part s.me.t.pspace (pagesOf [p]) = true →
      let inside := b.toNat + (if o.bf16 then 512 else 1024) ≤ 0x18000
      ∀ f ∈ [(Instr.mxldc, CmdKind.load), (.mxst, .store)],
        let cmd : Cmd :=
          { kind := f.2, h := h, bank := if o.bank then 1 else 0, obj := p.key, enco := p.enc, pages := pagesOf [p],
            off := b.toNat, bf16 := o.bf16, launch := t.me.launch }
        (t.me.waiting = false → b.toNat % 128 ≠ 0 → Traps (exec (f.1 o) s) t 0x04 0 b) ∧
        (t.me.waiting = false → b.toNat % 128 = 0 → ¬ inside → Traps (exec (f.1 o) s) t 0x05 0 b) ∧
        (b.toNat % 128 = 0 → inside → (t.group g).queued < 8 → t.Drains u →
          Completes (exec (f.1 o) s) ((u.pinCmds g [cmd]).enqueue g [cmd]).2 [])) ∧
    Completes (exec (.mxlset d v) s) (s.modMe fun x =>
      { x with mxl := BitVec.ofNat 10 (w.toNat / 256 % 4 * 256 + w.toNat % 64) }) [.scalar d.toNat (s.me.mxl.setWidth 64)]

/-- R291, R294 to R298, R303, R307: MXMUL and MXMULR with the lease of the current array and a run that covers their
iterations enter one command for each, with its bank, operands and stamps, pin their pages, take the iterations from the run,
whose end ends the lease, and advance the stamps; those that the queue of eight has no room for wait with the hart and enter
later; two codebook operands, and a chunk that the slot's operand does not hold, are illegal, and without the lease or the run
LEASE_NOT_HELD is raised. -/
def Obligations.MatrixProductsComplete : Prop :=
  ∀ (o : MxMul) (q : MxMulR) (s : State), let h := s.cx.hart; let g := s.curGroup h; let f := s.me.u
    let da := depthOf f.fmta; let db := depthOf f.fmtb; let l := max da db
    let bookA := isBook (fmtType f.fmta); let bookB := isBook (fmtType f.fmtb); let books := bookA && bookB
    let w := da / 64; let c := chunksOf (fmtType f.fmtb); let k := q.chunk.toNat
    let chunkOk := fmtSparse f.fmtb = 0 ∧ w ≤ c ∧ k % w = 0 ∧ k < c
    let n := fun rep : Bool => if rep then s.me.mxl.toNat % 64 + 1 else 1
    let bank := fun (b : Bool) (i : Nat) => ((if b then 1 else 0) + (if s.me.mxl.getLsbD 8 then i else 0)) % 2
    let chunk := fun i : Nat => k + (if s.me.mxl.getLsbD 9 then i * w else 0)
    let mul := fun i : Nat => ({ kind := .mul, h := h, bank := bank o.bank i, qa := o.qa.toNat, qb := o.qb.toNat,
                                 depth := l } : Cmd)
    let mulr := fun i : Nat => ({ kind := .mulr, h := h, bank := bank q.bank i, qa := q.qa.toNat, depth := da,
                                  slot := (q.slot.toNat + chunk i / c) % 4, chunk := chunk i % c } : Cmd)
    let done := fun (i : Out) (u : State) (m na nb : Nat) =>
      let charged := match u.leaseRun g u.cx.hart with
        | some r => if r - m = 0 then u.endLease g
          else u.modGroup g fun x => { x with holder := some (u.cx.hart, r - m) }
        | none => u
      Completes i (charged.modMe fun x => { x with
        u := { x.u with seqa := x.u.seqa + BitVec.ofNat 16 (m * na), seqb := x.u.seqb + BitVec.ofNat 16 (m * nb) } }) []
    (s.denseOnly = false → ∀ e ∈ ([(Instr.mxmul o, n o.rep, l / da, l / db, o.a, mul, books = false),
        (.mxmulr q, n q.rep, 1, 0, q.a, mulr, books = false ∧ chunkOk)] :
        List (Instr × Nat × Nat × Nat × RegNo × (Nat → Cmd) × Prop)),
      let i := exec e.1 s; let m := e.2.1; let na := e.2.2.1; let nb := e.2.2.2.1; let a := e.2.2.2.2.1
      let mk := e.2.2.2.2.2.1; let ok := e.2.2.2.2.2.2
      (s.me.waiting = false → ¬ ok → Traps i s 0x01 0 (s.cx.base.setWidth 64)) ∧
      (ok → ∀ x rest y z, s.me.hold = some x → x.kind = .arrayMid rest y z → (s.group g).queued + rest.length ≤ 8 →
        done i (s.enqueue g rest).2 (y / 65536) (y % 65536) z) ∧
      (ok → (∀ x, s.me.hold = some x → ∀ r y z, x.kind ≠ .arrayMid r y z) →
        (s.me.waiting = false → (∀ r, s.leaseRun g h = some r → r < m) → Traps i s 0x0F 0 (BitVec.ofNat 64 (g % 4))) ∧
        (∀ (r : Nat) (po pa pb : Place) (s1 s2 s3 t : State), s.leaseRun g h = some r → m ≤ r →
          unitPlace .atomic (s.rd a) 16 16 s = .ok po s1 → bookPlace f.fmta f.cbka s1 = .ok pa s2 →
          bookPlace f.fmtb f.cbkb s2 = .ok pb s3 →
          let pages := pagesOf (po :: ((if bookA then [pa] else []) ++ if bookB then [pb] else []))
          s.pinRoom (g / 4) s.me.part s.me.t.pspace pages = true → s3.Drains t →
          let cmds := (List.range m).map fun j =>
            { mk j with fmta := f.fmta, fmtb := f.fmtb, cbka := pa.key, enca := pa.enc, cbkb := pb.key, encb := pb.enc,
                        na := na, nb := nb, expA := f.seqa + BitVec.ofNat 16 (j * na),
                        expB := f.seqb + BitVec.ofNat 16 (j * nb), obj := po.key, enco := po.enc,
                        pages := pages, launch := s3.me.launch }
          let u := ((t.pinCmds g cmds).enqueue g cmds).2; let room := 8 - (t.group g).queued
          (m ≤ room → done i u m na nb) ∧
          (room < m → 0 < room → i = holdAt (.arrayMid (cmds.drop room) (m * 65536 + na) nb) u)))) ∧
    (s.denseOnly = true → s.me.waiting = false → Traps (exec (.mxmul o) s) s 0x01 0 (s.cx.base.setWidth 64) ∧
      Traps (exec (.mxmulr q) s) s 0x01 0 (s.cx.base.setWidth 64))

/-- R293, R299, R300: what a product at the head of its queue leaves in its bank, unless the bank is another hart's or its
operands are unusable: in every element, chunk by chunk in ascending order, the old value plus the rounded sum of sixteen
rounded groups of four exact products at the chunk's 64 positions, flushed and unmatched positions +0, times the rounded
product of the scales where an operand is scaled; a free bank becomes the hart's, and the rings' heads pass the slots used.
R317, R318: a chunk of a transfer within the package whose ends do not overlap, once its banks are free and it is its turn at
them, and where nothing that it reads or merges with is uncorrectable and no link is down, writes each byte of its source at
the same place of its destination, under the keys of the two ends, and no other byte; then the cursor stands at the next
chunk, or the transfer ends. -/
def Obligations.ProductAndChunkResults : Prop :=
  (∀ (g : Nat) (c : Cmd) (s t : State),
     let flush := fun x : Nat => if x / 128 % 256 = 0 then x / 32768 * 32768 else x
     let prod := fun a b : Option Nat => match a, b with
       | some x, some y => ((FFmt.read .bf16 (flush x)).mulExact (FFmt.read .bf16 (flush y))).getD (.nan false)
       | _, _ => Fp.fin false 0 0
     let partSum := fun p : Nat → Fp => (List.range 16).foldl (fun acc n =>
       (fAdd .f32 acc (((((p (4 * n)).addExact (p (4 * n + 1))).addExact (p (4 * n + 2))).addExact (p (4 * n + 3))).round .f32
         false).1).1) 0
     let result := fun (n : Nat) (A B : Nat → Operand × Nat) (i j old : Nat) => (List.range n).foldl (fun acc m =>
       let a := A m; let b := B m
       let p := partSum fun k => prod (a.1.value i (a.2 + k)) (b.1.value j (b.2 + k))
       let scale := (fMul .f32 (flush (a.1.scale i) * 65536) (flush (b.1.scale j) * 65536)).1
       (fAdd .f32 acc (if fmtScaled a.1.fmt ∨ fmtScaled b.1.fmt then (fMul .f32 p scale).1 else p)).1) old
     let old := s.abank g c.bank
     let ends := fun (A B : Nat → Operand × Nat) (heads : State → Prop) => ∃ u st, t = (u.countDown g c st).popCmd g ∧
       (u.abank g c.bank).tag = (if old.tag = .free then .owned c.h else old.tag) ∧ heads u ∧
       (st.foreign = true ↔ old.tag ≠ .free ∧ old.tag ≠ .owned c.h) ∧
       ∀ k, k < 4096 → (u.abank g c.bank).elem k =
         if st.fatal then old.elem k else result (c.depth / 64) A B (k / 64) (k % 64) (old.elem k) % 2 ^ 32
     let qa := s.ring g c.qa; let qb := s.ring g c.qb; let da := depthOf c.fmta; let db := depthOf c.fmtb
     let na := BitVec.ofNat 16 c.na; let nb := BitVec.ofNat 16 c.nb
     let slotA := fun m => s.ringOperand g c.fmta qa (qa.head + BitVec.ofNat 16 m) (s.book c.fmta c.cbka c.enca)
     let slotB := fun m => s.ringOperand g c.fmtb qb ((if c.qa = c.qb then qb.head + na else qb.head) + BitVec.ofNat 16 m)
       (s.book c.fmtb c.cbkb c.encb)
     (runMul g c s = some t → c.depth ≤ c.na * da → c.depth ≤ c.nb * db →
       ends (fun m => (slotA (64 * m / da), 64 * m % da)) (fun m => (slotB (64 * m / db), 64 * m % db)) fun u =>
         (c.qa ≠ c.qb → (u.ring g c.qa).head = qa.head + na ∧ (u.ring g c.qb).head = qb.head + nb) ∧
         (c.qa = c.qb → (u.ring g c.qa).head = qa.head + na + nb)) ∧
     (runMulR g c s = some t →
       ends (fun m => (s.ringOperand g c.fmta qa qa.head (s.book c.fmta c.cbka c.enca), 64 * m))
         (fun m => (latchOperand c.fmtb (s.slot g c.slot) (s.book c.fmtb c.cbkb c.encb), 64 * (c.chunk + m))) fun u =>
         (u.ring g c.qa).head = qa.head + 1)) ∧
  (∀ (c k : Nat) (x : Xfer) (src dst : List CopySpan) (e : Option (BitVec 12)) (s : State),
     let reads := spanLocs src; let into := (spanLocs dst).map (·.1); let loc := fun j => reads.getD j (0, none)
     (∀ p ∈ src, p.remote = false ∧ isHost p.key = false) → (∀ p ∈ dst, p.remote = false ∧ p.enc = e) → x.tag = false →
     reads.length = into.length → into.Nodup → (∀ l ∈ reads, l.1 ∉ into ∧ ∀ o ∈ x.old, o.1 ≠ l.1) →
     (∀ w ∈ bankWaits x.banks s.tick ((src ++ dst).filterMap (·.bank)), s.bankFree w.2 w.1 = true) →
     (∀ w ∈ s.chunkAsks c x src dst, s.padTurn (· == .copy c k) w = true) →
     (∀ p ∈ src, p.bad s = false) → (∀ p ∈ dst, p.mergesBad (wholeCodewords dst) s = false) → s.chunkCut x src dst = false →
       ∃ u, performChunk c k x src dst s =
           (if x.aborting then u.endXfer c k 2 else if x.chunks ≤ x.cursor + 1 then u.endXfer c k 0 else u) ∧
         (u.xfer c k).cursor = x.cursor + 1 ∧
         (∀ j, j < into.length →
           u.readKey (s.slotKey e) (into.getD j 0) = s.readKey (s.slotKey (loc j).2) (loc j).1) ∧
         ∀ b, b ∉ into → u.readKey (s.slotKey e) b = s.readKey (s.slotKey e) b)

/-- R73, R77, R80, R291, R309 to R311: ROWACT closes its slot's row and asks the vault for the row, whose ready tick it
awaits, or raises ROW_BANK_BUSY; ROWTAKE moves a Ready row into the latch, or raises ROW_EARLY or ROW_EXPIRED; ROWCLOSE frees
the slot; each needs the array's lease; ROWQ reports. R74 to R76, R79, R81: rows whose ticks have come are sensed in the order
of their plan, become Ready, and expire with their banks released after 3,600 ticks; a bank precharges, and runs its refresh
once an interval, or defers it. The ready tick of a hart of no partition counts package ticks, and a row in no region raises
PERMISSION (log 35's choices). -/
def Obligations.RowsComplete : Prop :=
  (∀ (o : RowAct) (k : BitVec 2) (d : RegNo) (s : State), let h := s.cx.hart; let g := s.curGroup h; let v := g / 4
     let ea := s.rd o.a + o.off; let z := s.senseDue v; let x := z.slot g k.toNat; let st := x.at z.tick
     (s.leaseRun g h = none → s.me.waiting = false →
       ∀ i ∈ [Instr.rowact o, .rowtake k, .rowclose k], Traps (exec i s) s 0x0F 0 (BitVec.ofNat 64 (g % 4))) ∧
     ((s.leaseRun g h).isSome →
       (∀ (p : Place) (t r : State), rowPlace g ea s = .ok p t →
         s.pinRoom v s.me.part s.me.t.pspace [p.key / 65536] = true → t.pushedBefore h t.steps p.key 8192 p.so = false →
         (p.so = false ∨ t.rowsBefore h t.steps true = false) →
         (r = t ∧ (∀ e ∈ t.me.sbuf, e.overlaps p.key 8192 = false ∧ (p.so = false ∨ e.so = false))) ∨
           ((∃ e ∈ t.me.sbuf, e.overlaps p.key 8192 = true ∨ (p.so = true ∧ e.so = true)) ∧ t.Drains r) →
         let y := r.senseDue v
         let u := match (y.slot g o.k.toNat).at y.tick with
           | .free | .expired => y
           | _ => y.closeSlot g o.k.toNat
         let held := ∃ q ∈ u.bankSlots v (bankOf p.key), q.holdsAt u.tick = true
         y.earlierWait g o.k.toNat = false → y.rowHeld g o.k.toNat = false →
         (held → u.me.waiting = false → Traps (exec (.rowact o) s) u 0x0B 0 ea) ∧
         (¬ held →
           let w := match (u.slot g o.k.toNat).at u.tick with | .expired => u.closeSlot g o.k.toNat | _ => u
           let id := w.draw.1; let b := w.draw.2
           Awaits (exec (.rowact o) s) ((b.setSlot g o.k.toNat
               { st := .activating, row := p.key, enc := p.enc.isSome, key := p.enc.getD 0, holds := true, so := p.so,
                 born := b.steps, part := b.me.part, page := p.key / 65536, want := some (b.tick, b.cx.hart, id), va := ea,
                 dest := o.d.toNat }).pin v ⟨b.me.part, b.me.t.pspace, p.key / 65536, .row g o.k.toNat⟩) id)) ∧
       (st = .ready ∨ (st = .taken ∧ x.holdsAt z.tick = true) →
         Completes (exec (.rowtake k) s) (z.takeRow g k.toNat z.cx.hart) []) ∧
       (z.me.waiting = false → st = .activating → Traps (exec (.rowtake k) s) z 0x09 0 x.va) ∧
       (z.me.waiting = false → st = .expired ∨ (st = .taken ∧ x.holdsAt z.tick = false) →
         Traps (exec (.rowtake k) s) z 0x0A 0 x.va) ∧
       (z.me.waiting = false → st = .free → ∃ a, Traps (exec (.rowtake k) s) z 0x0A 0 a) ∧
       ((s.slot g k.toNat).st = .free → Completes (exec (.rowclose k) s) s []) ∧
       ((s.slot g k.toNat).st ≠ .free → z.earlierWait g k.toNat = false → z.rowHeld g k.toNat = false →
         Completes (exec (.rowclose k) s) (z.closeSlot g k.toNat) [])) ∧
     (∃ a c : Word, Completes (exec (.rowq d k) s) z [.scalar d.toNat a, .scalar 0 c] ∧
       c.toNat % 8 = (match st with | .free => 0 | .activating => 1 | .ready => 2 | .taken => 3 | .expired => 4) ∧
       (st = .free ∨ st = .expired → a = 0) ∧ (st = .free → c = 0) ∧
       (st ≠ .free → st ≠ .expired → z.senseOf g k.toNat = none → a = BitVec.ofNat 64 x.ready) ∧
       (st ≠ .free → c.toNat / 2 ^ 32 % 2 ^ 26 = x.row / 8192 % 2 ^ 26 ∧ (c.getLsbD 3 = true ↔ x.poison ≠ [])))) ∧
  (∀ (s : State), let i := s.ev.i; let j := s.ev.j; let x := s.slot i j; let v := i / 4; let b := bankOf x.row
     let y := s.bank i j; let u := s.settleBank i j; let w := (s.senseDue i).settleBank i j; let z := w.bank i j
     (i < 512 → j < 4 →
       (x.want ≠ none → exec .activationSense s = .next (s.senseDue v) ∧
         let plan := s.plan v ((s.rowWaits v).filter fun r => !s.earlierWait r.g r.k && !s.rowHeld r.g r.k)
         s.senseDue v = (plan.filter fun r => decide (r.2 ≤ s.tick)).foldl (fun t r =>
           (t.senseAt r.1.g r.1.k r.2).countDeferred (r.1.g / 4) (decide (r.1.start < r.2))) s) ∧
       (∀ a w, x.want = some w → let t := (s.senseAt i j a).slot i j; let o := s.settleBank v b
         t.want = none ∧ t.a = a ∧ t.units = o.rowUnits x.row ∧ (o.older = [] → t.sensed = o.rowCells x.row) ∧
         t.ready = match x.part with | some p => a + 14 - (o.part p).tickOff | none => a + 14) ∧
       (x.st = .activating → x.at s.tick = .ready → exec .rowReady s = .next (s.setSlot i j { x with st := .ready })) ∧
       (x.holds = true → x.want = none → x.st ≠ .free → x.a + 3600 ≤ s.tick → exec .rowExpiry s =
         .next (((s.setSlot i j { x with st := if x.st = .taken then .taken else .expired, holds := false }).closeBank v b
           (x.a + 3600) [{ tick := x.a + 3600, g := i, k := j, page := x.page, row := x.row, took := x.took }]).settleBank v b)) ∧
       (x.st = .taken → exec .latchValid s = .next (s.setSlot i j { x with latchOk := true }))) ∧
     (i < 128 → j < 256 →
       (exec .bankRelease s = .next u ∧ u.mem = s.mem ∧ u.harts = s.harts ∧
         (y.closing = true → y.release ≤ s.tick → (u.bank i j).closing = false)) ∧
       ((u.bank i j).everOpened = true → (u.bank i j).closing = false → (u.bank i j).release + 14 ≤ s.tick →
         exec .prechargeEnd s = .next (u.modBank i j fun z => { z with everOpened := false })) ∧
       (¬ (z.refreshed = true ∧ s.tick < z.lastRefresh + 3900) →
         let held := ∃ d ∈ w.bankSlots i j, d.want = none ∧ d.holdsAt s.tick = true
         let wait := held ∨ s.tick < w.bankReady i j ∨ s.tick < z.busyUntil
         (wait → ∃ late, (late = true ↔ held) ∧ exec .refreshDue s = .next ((w.modBank i j fun z =>
           { z with refreshed := true, lastRefresh := s.tick, refreshPending := true }).countRefresh i late)) ∧
         (¬ wait → exec .refreshDue s = .next ((w.modBank i j fun z =>
           { z with refreshed := true, lastRefresh := s.tick, blackoutEnd := s.tick + 160 }).countRefresh i false))) ∧
       exec .refreshBlackoutEnd s = .next u))

/-! ## Supervisor instructions (spec/05, spec/20, spec/21) -/

/-- R169: in user mode every instruction of page 7 raises PRIVILEGE and has no other effect, whatever its operands. -/
def Obligations.SupervisorInstructionsTrapInUserMode : Prop :=
  ∀ (sc : ScopeCode) (a : RegNo) (o : RR) (w : Bool) (s : State), s.me.mode = .user → s.me.waiting = false →
    ∀ i ∈ [Instr.tinvAddr sc a, .tinvSpace sc a, .tinvAddrall sc a, .tinvAll sc a, .keyld o, .keyldClr a, .ctxsave o, .ctxload o,
      .evict o, .evictDrop a, .resume a, .resumeXfer o, .migr w o, .migrForce w o, .split o],
      Traps (exec i s) s 0x03 0 0

/-- R106, R107, R112, R373: TINV, behind the hart's stores, removes the matching translations of its partition in scope and
completes once no access in scope still uses one of them or the page it names. SPLIT of an address that no leaf maps gives 0,
of a marked leaf −3, of one of 64 KiB −1, and with the pool empty −2 and a record; else it builds the new table and, where the
entry still holds the leaf, puts it in place and gives 1 once nothing uses the leaf. KEYLD and KEYLD.clr load and clear a key
slot of the partition's range, and any other raises PERMISSION. What the wait of TINV counts as a use is log 22's reading, and
that KEYLD checks the slot before the address log 23's; a monitor hart of no partition may name every slot (log 7's choice).
-/
def Obligations.TranslationAndKeyInstructionsComplete : Prop :=
  ∀ (sc : ScopeCode) (a : RegNo) (o : RR) (s t : State), s.me.mode ≠ .user → let h := s.cx.hart; let va := s.rd a
    let p := s.me.part; let ea := s.rd o.a; let n := (s.rd o.d).toNat % 4096; let m := (s.rd a).toNat % 4096
    let same := fun e : TlbEnt => e.space == s.me.t.pspace; let glb := fun e : TlbEnt => e.leaf.getLsbD 6
    let page := (va.toNat / 65536 * 65536, 65536); let every := (0, 2 ^ 64)
    let removes := fun (i : Instr) (byAddr : Bool) (gone : TlbEnt → Bool) (range : Nat × Nat) =>
      (byAddr = true → canonical va = true) →
        ((∀ k r, s.me.hold = some k → k.kind ≠ .tinv r) → s.Drains t →
          let ranges := range :: t.cachedRanges h sc.toNat p gone; let u := t.invalidate h sc.toNat p gone
          (u.usesLeft h sc.toNat p ranges = false → Completes (exec i s) u []) ∧
          (u.usesLeft h sc.toNat p ranges = true → exec i s = holdAt (.tinv ranges) u)) ∧
        (∀ k r, s.me.hold = some k → k.kind = .tinv r → s.usesLeft h sc.toNat p r = false → Completes (exec i s) s [])
    removes (.tinvAddr sc a) true (fun e => e.covers va && (same e || glb e)) page ∧
    removes (.tinvAddrall sc a) true (fun e => e.covers va && true) page ∧
    removes (.tinvSpace sc a) false (fun e => same e && !glb e) every ∧
    removes (.tinvAll sc a) false (fun _ => true) every ∧
    (canonical va = false → s.me.waiting = false → Traps (exec (.tinvAddr sc a) s) s 0x06 0 va ∧
      Traps (exec (.tinvAddrall sc a) s) s 0x06 0 va) ∧
    ((∀ k e l b w r, s.me.hold = some k → k.kind ≠ .splinter e l b w r) → canonical ea = true → s.Drains t →
      let w := ownWalk ea t; let v := t.walkDone w ea
      ((∃ r l b, w = .fault r l b) ∨ w = .denied → Completes (exec (.split o) s) v [.scalar o.d.toNat 0]) ∧
      (∀ e entry level, w = .leaf e entry level →
        (e.getLsbD 11 = true → Completes (exec (.split o) s) v [.scalar o.d.toNat (-3)]) ∧
        (e.getLsbD 11 = false → level = 0 → Completes (exec (.split o) s) v [.scalar o.d.toNat (-1)]) ∧
        (e.getLsbD 11 = false → level ≠ 0 →
          (∀ q, v.me.part = some q → (v.part q).splitHead = 0 → Completes (exec (.split o) s)
            (v.postFault (v.cx.hart / 256) (faultRecord 2 0 level 0 0 v.cx.hart ea v.me.pc v.me.t.pspace))
            [.scalar o.d.toNat (-2)]) ∧
          (∀ k u, splintStart ea e entry level v = .wait k u → exec (.split o) s = holdAt k u)))) ∧
    (∀ k entry level head old uses, s.me.hold = some k → k.kind = .splinter entry level head old uses →
      let lo := ea.toNat / leafSize level * leafSize level
      let u := if uses then s else (s.devWriteFor h entry (toBytes 8 (head + 1))).invalidate h 4 p fun e =>
        decide (e.base.toNat < lo + leafSize level) && decide (lo < e.base.toNat + leafSize e.level)
      (uses = true ∨ (s.bankFree entry s.tick = true ∧ s.rd8 entry = old)) →
        u.usesLeft h 4 u.me.part [(lo, leafSize level)] = false →
          Completes (exec (.split o) s) u [.scalar o.d.toNat 1]) ∧
    (∀ bs, s.keyRange n = true → loadBytes h ea 64 64 0 s = .ok bs t →
      Completes (exec (.keyld o) s) { t with keys := Tab.put t.keys n (vOfBytes bs) } [.scalar 0 1]) ∧
    (∀ x, s.keyRange n = true → classify h ea = .coord x → s.SpadOpen h x 64 → ea.toNat % 64 = 0 →
      s.pushedBefore h s.steps (Config.spadKey + x) 64 false = false → let u := s.wake (Config.spadKey + x) 64
      Completes (exec (.keyld o) s) { u with
        keys := Tab.put u.keys n (vOfBytes ((List.range 64).map fun i => s.viewByte h none (Config.spadKey + x + i))) }
        [.scalar 0 1]) ∧
    (s.keyRange m = true → Completes (exec (.keyldClr a) s) { s with keys := Tab.put s.keys m 0 } [.scalar 0 1]) ∧
    (s.me.waiting = false →
      (s.keyRange n = false → Traps (exec (.keyld o) s) s 0x08 0 (BitVec.ofNat 64 n)) ∧
      (s.keyRange m = false → Traps (exec (.keyldClr a) s) s 0x08 0 (BitVec.ofNat 64 m)))

/-- R109, R110: MIGR of a leaf that is already marked reports −1, of no leaf 0, and of one that has to be split with the pool
empty −2 and a record; one that needs no splitting it marks, removes its translations, and once no access uses them reports 1
where no pin is left; with pins left it clears the mark and reports −3, and MIGR.force waits for them for the partition's
bound. One that has to be split goes on from the new table with a new walk. -/
def Obligations.MigrationInstructionsComplete : Prop :=
  ∀ (whole : Bool) (o : RR) (s t : State), s.me.mode ≠ .user → let h := s.cx.hart; let va := s.rd o.a; let d := o.d.toNat
    let both := fun P : Instr → Prop => P (.migr whole o) ∧ P (.migrForce whole o)
    ((∀ k, s.me.hold = some k → (∀ e l n r b, k.kind ≠ .migrate e l n r b) ∧ ∀ e l b w r, k.kind ≠ .splinter e l b w r) →
      (canonical va = false → s.me.waiting = false → both fun i => Traps (exec i s) s 0x06 0 va) ∧
      (canonical va = true → s.Drains t → let w := ownWalk va t; let v := t.walkDone w va
        ((∃ r l b, w = .fault r l b) ∨ w = .denied → both fun i => Completes (exec i s) v [.scalar d 0]) ∧
        (∀ e entry level, w = .leaf e entry level → e.getLsbD 11 = true → both fun i =>
          Completes (exec i s) v [.scalar d (-1)]) ∧
        (∀ e entry level, w = .leaf e entry level → e.getLsbD 11 = false → whole = false → level ≠ 0 →
          (∀ q, v.me.part = some q → (v.part q).splitHead = 0 → both fun i => Completes (exec i s)
            (v.postFault (v.cx.hart / 256) (faultRecord 2 0 level 0 0 v.cx.hart va v.me.pc v.me.t.pspace)) [.scalar d (-2)]) ∧
          (∀ k u, splintStart va e entry level v = .wait k u → both fun i => exec i s = holdAt k u)) ∧
        (∀ e entry level, w = .leaf e entry level → e.getLsbD 11 = false → whole = true ∨ level = 0 →
          t.bankFree entry ((t.who t.cx.hart).came entry t.tick) = true →
          let size := leafSize level; let lo := e.toNat / 2 ^ 16 % 2 ^ 36; let n := size / 65536
          let base := va.toNat / size * size
          let u := (v.setMark v.cx.hart entry true).invalidate v.cx.hart 4 v.me.part fun x =>
            decide (x.base.toNat < base + size) && decide (base < x.base.toNat + leafSize x.level)
          let used := u.usesLeft u.cx.hart 4 u.me.part [(base, size)]
          (used = true → both fun i => exec i s = holdAt (.migrate entry lo n d none) u) ∧
          (used = false → u.pinned lo n = false → both fun i => Completes (exec i s) u [.scalar d 1]) ∧
          (used = false → u.pinned lo n = true →
            (u.bankFree entry u.tick = true →
              Completes (exec (.migr whole o) s) (u.setMark u.cx.hart entry false) [.scalar d (-3)]) ∧
            exec (.migrForce whole o) s = holdAt (.migrate entry lo n d (some (u.tick + u.mwait))) u)))) ∧
    (∀ k entry lo n b deadline, s.me.hold = some k → k.kind = .migrate entry lo n b deadline → s.pinned lo n = false →
      (deadline = none → s.usesLeft h 4 s.me.part [(va.toNat / (n * 65536) * (n * 65536), n * 65536)] = false →
        both fun i => Completes (exec i s) s [.scalar d 1]) ∧
      (deadline ≠ none → Completes (exec (.migrForce whole o) s) s [.scalar d 1])) ∧
    (∀ k entry level head old uses, s.me.hold = some k → k.kind = .splinter entry level head old uses → ∀ r u,
      splintGo entry level head old uses va s = .done r u →
        (r = -3 → both fun i => Completes (exec i s) u [.scalar d (-3)]) ∧
        (r ≠ -3 → both fun i => exec i s = holdAt (.tinv []) u))

/-- R367 to R372: a context instruction whose target is no hart of the partition, or the issuer of a save, reports −1, and one
whose target is in the wrong state 0; EVICT of a hart that is not idle reports −3. Otherwise CTXSAVE and EVICT take the hart
and, with its stores performed and its engines done, write its context to the area; CTXLOAD restores a good area, and reports
−2 where any word of it cannot be corrected (the order of its checks after the first codeword is log 23's reading); EVICT.drop
discards a saved context, once the banks of its spillways are free; RESUME makes a parked or stopped hart Active, and
RESUME.xfer lets a suspended transfer go on. All but EVICT.drop come behind the hart's stores. R370, R371: the context that a
save has written to an area of disjoint, whole units loads as it was: pc, registers, masks, vector registers, CSRs of full
width, octets, gifts, lease, MXL, handler, mode and state, and the elements of the hart's spilled banks. -/
def Obligations.ContextInstructionsComplete : Prop :=
  (∀ (o : RR) (r : RegNo) (s t q u : State) (g : Nat) (area : Area), s.me.mode ≠ .user → let va := s.rd o.a
     let saves := [Instr.ctxsave o, .evict o]
     (∀ x, s.me.hold = some x → ∀ k a, x.kind ≠ .save k a) →
     (areaParts true va s = .ok area t → t.Drains q → let me := q.cx.hart
       (q.ctxTarget (q.rd o.d) = none ∨ q.ctxTarget (q.rd o.d) = some me → ∀ i ∈ saves, Completes (exec i s) q [.scalar 0 (-1)]) ∧
       (q.ctxTarget (q.rd o.d) = some g → g ≠ me → let x := q.hart g
         let fit := x.frozen = false ∧ (x.st = .active ∨ x.st = .parked ∨ x.st = .stopped)
         (¬ fit → ∀ i ∈ saves, Completes (exec i s) q [.scalar 0 0]) ∧
         (fit → q.evictable g = false → Completes (exec (.evict o) s) q [.scalar 0 (-3)]) ∧
         (fit → x.boundary = true →
           let pinned := area.foldl (fun v p => v.pin (me / 256) ⟨v.me.part, v.me.t.pspace, p.1 / 65536, .area me⟩) q
           let taken := pinned.freeze g
           taken.enginesDone g = true → taken.flushStreams g = some u →
             u.areaBlock area (fun _ => u.tick) = none →
             let saved := ((u.stow g).areaServe area false).writeContext area g
             let v := saved.unpin (taken.cx.hart / 256) fun p => p.holder == .area taken.cx.hart
             Completes (exec (.ctxsave o) s) v [.scalar 0 1] ∧
             (q.evictable g = true → Completes (exec (.evict o) s) v [.scalar 0 1])))) ∧
     (areaParts false va s = .ok area t → t.Drains q →
       let me := q.cx.hart; let size := 0x24000
       (q.ctxTarget (q.rd o.d) = none → Completes (exec (.ctxload o) s) q [.scalar 0 (-1)]) ∧
       (q.ctxTarget (q.rd o.d) = some g → let x := q.hart g
         (x.st ≠ .saved → Completes (exec (.ctxload o) s) q [.scalar 0 0]) ∧
         (x.st = .saved → q.areaBlock area (fun pa => (q.who me).came pa q.tick) = none → let head := (areaAt area 0).1
           (q.eccBad head 8 = true → Completes (exec (.ctxload o) s) (q.countBad head) [.scalar 0 (-2)]) ∧
           (q.eccBad head 8 = false → let w := q.areaGet area 0
             let good := w.toNat / 2 ^ 56 = 0xC7 ∧ w.toNat % 2 ^ 25 = (q.hartId g).toNat
             (¬ good → Completes (exec (.ctxload o) s) q [.scalar 0 0]) ∧
             (good → ∀ pre p post, area = pre ++ p :: post → (∀ r ∈ pre, q.eccBad r.1 r.2.2 = false) →
               (∀ r ∈ area, r.2.2 ≤ size) → q.eccBad p.1 p.2.2 = true →
               Completes (exec (.ctxload o) s) (q.countBad p.1) [.scalar 0 (-2)]) ∧
             (good → (∀ p ∈ area, q.eccBad p.1 (min p.2.2 size) = false) →
               Completes (exec (.ctxload o) s) ((q.areaServe area true).readContext area g) [.scalar 0 1]))))) ∧
     (s.ctxTarget (s.rd r) = none → Completes (exec (.evictDrop r) s) s [.scalar 0 (-1)]) ∧
     (s.ctxTarget (s.rd r) = some g →
       ((s.hart g).st = .saved → s.mailBlock g = none → Completes (exec (.evictDrop r) s) (s.discard g) [.scalar 0 1]) ∧
       ((s.hart g).st ≠ .saved → Completes (exec (.evictDrop r) s) s [.scalar 0 0])) ∧
     (s.Drains t →
       (t.ctxTarget (t.rd r) = none → Completes (exec (.resume r) s) t [.scalar 0 (-1)]) ∧
       (t.ctxTarget (t.rd r) = some g → let x := t.hart g
         let fit := x.frozen = false ∧ (x.st = .parked ∨ x.st = .stopped)
         (fit → Completes (exec (.resume r) s) (t.modHart g fun x => { x with st := .active }) [.scalar 0 1]) ∧
         (¬ fit → Completes (exec (.resume r) s) t [.scalar 0 0])) ∧
       (t.ctxTarget (t.rd o.d) = none → Completes (exec (.resumeXfer o) s) t [.scalar 0 (-1)]) ∧
       (t.ctxTarget (t.rd o.d) = some g →
         (∀ c k x, t.whose g (t.rd o.a) = .own c k x → x.live = true → x.faultSusp = true →
           Completes (exec (.resumeXfer o) s)
             ((t.setXfer c k { x with faultSusp := false, resumed := some t.tick }).modHart g fun y => { y with event := true }) [.scalar 0 1]) ∧
         ((∀ c k x, t.whose g (t.rd o.a) = .own c k x → ¬ (x.live = true ∧ x.faultSusp = true)) →
           Completes (exec (.resumeXfer o) s) t [.scalar 0 0])))) ∧
  (∀ (s : State) (g : Nat) (area : Area), let x := s.hart g; let v := s.writeContext area g
     let bank := fun (w : State) (k : Nat) => w.abank (g / 64 / 4 * 4 + k / 2) (k % 2)
     g < 2 ^ 15 → (area.map (·.2.2)).sum = 0x24000 → (∀ p ∈ area, p.1 % 64 = 0 ∧ p.2.2 % 64 = 0) →
     area.Pairwise (fun p q => p.1 + p.2.2 ≤ q.1 ∨ q.1 + q.2.2 ≤ p.1) →
     (∀ p ∈ area, ∀ b, p.1 ≤ b → b < p.1 + p.2.2 → s.shadowDraw b = none) →
     x.savedSlots ∈ [[], [false], [true], [false, true]] → x.savedOctets.length = x.savedSlots.length →
     x.savedOctets.length + x.savedGifts.length ≤ 4 →
       (v.areaGet area 0).toNat / 2 ^ 56 = 0xC7 ∧ (v.areaGet area 0).toNat % 2 ^ 25 = (s.hartId g).toNat ∧
       ∃ w y, v.readContext area g = (((w.setHart g y).restartXfers g).mailboxesBack g).reclaim g ∧
         y.pc = x.pc &&& ~~~1 ∧ (∀ r, r < 76 → Tab.get 0 y.regs r = Tab.get 0 x.regs r) ∧
         (∀ i, i < 8 → Tab.get 0 y.m i = Tab.get 0 x.m i) ∧ (∀ i, i < 16 → Tab.get 0 y.v i = Tab.get 0 x.v i) ∧
         (∀ n ∈ [0x018, 0x019, 0x030, 0x031, 0x033, 0x040, 0x042, 0x403],
           csrValue (s.setHart g y) g n = csrValue s g n) ∧
         y.mxl = x.mxl &&& 0x33F ∧ y.array = x.array % 4 ∧ y.savedLease = x.savedLease.map (fun l => (l.1 % 4, l.2 % 128)) ∧
         y.savedSlots = x.savedSlots ∧ y.savedOctets.length = x.savedOctets.length ∧
         y.savedGifts.length = x.savedGifts.length ∧
         (∀ i j, j < 8 → (y.savedOctets.getD i []).getD j 0 = (x.savedOctets.getD i []).getD j 0) ∧
         (∀ i j, j < 8 → (y.savedGifts.getD i []).getD j 0 = (x.savedGifts.getD i []).getD j 0) ∧
         y.h.running = x.h.running ∧ y.h.hpc = x.h.hpc &&& ~~~1 ∧ y.h.mb = x.h.mb % 8 ∧
         (modeCode x.mode < 2 → y.mode = x.mode) ∧ y.event = true ∧
         y.st = (if x.wasParked then .parked else if x.wasStopped then .stopped else .active) ∧
         ∀ k, k < 8 → (bank s k).tag = .spilled g →
           (bank w k).tag = .owned g ∧ ∀ e, e < 4096 → (bank w k).elem e = (bank s k).elem e)

/-! ## The steps of the other agents -/

/-- R43 to R45, R70, R78, R82, R123 to R126, R221, R228, R229: a store that may be performed is performed at a home that is
free, and else reaches it and waits there; so does a waiting write of a unit. A scratchpad bank serves the first of its
requests, which has lost four arbitrations or more, the most; else the class, else the oldest; what is granted has all its
banks, and each of them has made one more grant, which is what the requests that wait there have lost. An access of a peer's
copy engine to a cluster of a partition waits in its place at the scratchpad and is performed there in class 5 (that the
cluster decides whether it may: log 9). WAITT ends once TICK has reached its operand. -/
def Obligations.StoreStepsComplete : Prop :=
  ∀ (s : State) (e : StoreEnt), let i := s.ev.i; let j := s.ev.j; let x := s.hart i; let free := s.entryFree i j e
    let reqs := (s.bankReqs i).filter (·.uses j)
    (i < 32768 → x.sbuf[j]? = some e → s.storeMay i j = true →
      (e.toReg = false → isSpad e.base = false → free = true → exec .storePerform s = .next (s.performEntry i j e)) ∧
      (e.toReg = false → isSpad e.base = true ∨ free = false → exec .storePerform s =
        .next (s.modEntry i j fun d => if d.sent then d else { d with
          sent := true, came := s.tick, seen := if isSpad d.base then (s.core (padCore d.base)).grants else [] })) ∧
      (s.ev.ok = false → e.sent = true → isVault e.base = true → free = true →
        exec .vaultAccess s = .next (s.performEntry i j e)) ∧
      (s.ev.ok = false → e.sent = true → e.remote i = true → s.granted i j e = true → exec .remoteAccess s = .next (s.grant i j e))) ∧
    (∀ d, s.ev.ok = true → s.devPend[i]? = some d → s.devFree i d = true → exec .vaultAccess s = .next (s.devServe i d)) ∧
    (i < 8192 → j < 16 → reqs ≠ [] → ∃ r ∈ reqs, (∀ y ∈ reqs, y.before r = false) ∧
      (∀ h k d, r.asker = .store h k → (s.hart h).sbuf[k]? = some d → s.granted h k d = true →
        exec .scratchpadGrant s = .next (s.grant h k d)) ∧
      ((∀ h k, r.asker ≠ .store h k) → exec .scratchpadGrant s = .next s)) ∧
    (∀ (h k : Nat) (d : StoreEnt), d.whole = false → (s.hart h).sbuf[k]? = some d → s.grant h k d = s.performEntry h k d) ∧
    (s.ev.ok = true → s.trained ≠ [] → s.boot.full = true → 0 < s.ev.w → s.ev.w ≤ 4096 → let bs := s.ev.bytes
      bs = [] ∨ bs.length = s.ev.w → let y := s.ev.v.toNat % 2 ^ 30
      s.ev.v.toNat / 2 ^ 30 = 0xA0 * 2 ^ 26 → y % 2 ^ 17 + s.ev.w ≤ 0x18000 → (s.partOf (coreOfBits y / 64)).isSome →
        exec .remoteAccess s = .next { s with peerPend := s.peerPend ++
          [{ key := Config.spadKey + y, data := if bs = [] then none else some bs, n := s.ev.w }] }) ∧
    (∀ r : PeerReq, s.ev.ok = true → s.ev.w = 0 → s.peerPend[i]? = some r →
      let w := (s.ask (padCore r.key) (spadWords (r.key % 2 ^ 17) r.n) r.data.isNone 5).kept r.pad
      (s.padTurn (· == .peer i) w = false →
        exec .remoteAccess s = .next { s with peerPend := s.peerPend.set i { r with pad := some w } }) ∧
      (s.padTurn (· == .peer i) w = true → ∃ t, exec .remoteAccess s = .next t ∧ t.peerPend = s.peerPend.eraseIdx i ∧
        (∀ bs, r.data = some bs → s.eccBad r.key r.n = false → t.answers = s.answers ++ [.done] ∧ ∀ a, Mem.get t.mem a = Mem.get (s.writeBytes none r.key bs).mem a))) ∧
    (∀ a n b, isSpad a = true → b < 16 → let c := padCore a
      Tab.get 0 ((s.wake a n).core c).grants b =
        Tab.get 0 (s.core c).grants b + if b ∈ spadBanks (a % 2 ^ 17) n then 1 else 0) ∧
    (∀ v n m c, i < 32768 → x.st = .active → x.hold = some ⟨.waitt v, n, m, c⟩ → v.toNat ≤ (s.partTick x.part).toNat →
      exec .waittExpiry s = .next (s.release i []))

/-- R35, R110, R139, R269, R277, R285, R302, R318, R320, R324, R359: the octet pool grants its oldest claim whole; a stream
fetches ahead, and asks the host for what lies there, and its oldest element leaves as eight stores; a map home executes its
oldest operation that need not wait and answers it; an array executes the command at the head of its queue; a copy slot
translates and pins a chunk, and performs it; a promise that has passed, the bound of MIGR.force and a second collection that
finds the launch quiet end the waits for them. -/
def Obligations.UnitStepsComplete : Prop :=
  ∀ (s : State), let i := s.ev.i; let j := s.ev.j
    (∀ q rest, i < 8192 → (s.core i).claims = q :: rest → q.n ≤ (s.freeOctets i).length → q.resumed = false →
      let os := (s.freeOctets i).take q.n; let t := s.modCore i fun k => { k with claims := rest }
      exec .octetGrant s = .next (((os.foldl (fun v o => v.setOctet i o { st := .held q.h }) t).modHart q.h fun x =>
        { x with slotA := os[0]?, slotB := os[1]?, freshA := true, freshB := true }).release q.h [])) ∧
    (∀ v t, i < 32768 → j < 8 → (s.stream i j).bound = true → (s.stream i j).wr = false → (s.stream i j).buf.length < 4 →
      (s.hart i).st ≠ .free → (s.hart i).st ≠ .saved → s.scopeHeld i = false → s.withheld i = false →
      fetchElement i j s = .ok v t ∨ (∃ st, fetchElement i j s = .host st t) → exec .streamFetch s = .next t) ∧
    (∀ e rest, i < 32768 → j < 8 → let t := s.stream i j; t.bound = true → t.wr = true → t.buf = e :: rest →
      (s.hart i).sbuf.any (·.stream == some j) = false → exec .streamWrite s =
        .next ((s.modStream i j fun t => { t with buf := rest }).modHart i fun x => { x with
          sbuf := x.sbuf.filter (·.born < e.born) ++ e.stores j (s.hart i)
            ++ x.sbuf.filter fun d => !decide (d.born < e.born) })) ∧
    (∀ op pre rest, i < 128 → (s.cluster i).mapq = pre ++ op :: rest → (∀ d ∈ pre, s.mapRun i d = none) →
      s.scopeHeld op.h = false → let ends := fun (t : State) (ps : List Pend) =>
        ((t.modCluster i fun k => { k with mapq := k.mapq.filter (·.wait != op.wait) }).unpin i
          fun p => p.holder == .mapOp op.wait).resolve op.h op.wait ps
      (∀ ps t, runMap op i s = .ok ps t → exec .mapHomeExecution s = .next (ends t ps)) ∧
      (∀ va key, runMap op i s = .ecc va key → exec .mapHomeExecution s =
        .next (ends ((s.countBad key).machineCheck 6 0 op.h op.desc va) [.scalar 0 (-4)]))) ∧
    (∀ c rest, i < 512 → (s.group i).cmds = c :: rest → s.scopeHeld c.h = false → (s.hart c.h).owes = false →
      s.arrayRefused i c = false → let ws := bankWaits (s.group i).waits s.tick c.vaults
      (ws.any fun w => !s.bankFree w.2 w.1) = false →
      (c.kind = .zero → exec .arrayCommand s = .next (runZero i c s)) ∧
      (c.kind = .load → exec .arrayCommand s = .next (runLoad i c s)) ∧
      (c.kind = .store → exec .arrayCommand s = .next (runStore i c s)) ∧
      (c.kind = .release → exec .arrayCommand s = .next (s.settleQueue i)) ∧
      (∀ t, c.kind = .mul → runMul i c s = some t → exec .arrayCommand s = .next t) ∧
      (∀ t, c.kind = .mulr → runMulR i c s = some t → exec .arrayCommand s = .next t)) ∧
    (i < 8192 → j < 8 → let x := s.xfer i j
      x.live = true → x.suspended = false → s.scopeHeld x.issuer = false → (s.hart x.issuer).owes = false →
        (∀ a b, x.chunk = some (a, b) → exec .copyChunk s = .next (performChunk i j x a b s)) ∧
        (∀ a b t, x.chunk = none → chunkSpans x s = .ok (a, b) t →
          s.pinRoom (i / 64) x.part x.pspace (spanPages (a ++ b)) = true →
          exec .copyChunk s = .next (((spanPages (a ++ b)).foldl (fun v p =>
            v.pin (i / 64) ⟨x.part, x.pspace, p, .xfer i j⟩) t).setXfer i j { x with chunk := some (a, b) }))) ∧
    (i < 8192 → j < 8 → let x := s.xfer i j; ∀ n m c, (s.hart x.issuer).hold = some ⟨.copy (x.id j) none, n, m, c⟩ →
      (s.hart x.issuer).st = .active → s.promiseDue x = true → (s.hart x.issuer).waiting = false →
        exec .promiseExpiry s = .next (((s.setXfer i j { x with missed := true }).commit x.issuer).trapEnter x.issuer n 0x0C 0
          (BitVec.ofNat 64 (x.id j)))) ∧
    (∀ entry lo n d t len m c, i < 32768 → (s.hart i).hold = some ⟨.migrate entry lo n d (some t), len, m, c⟩ → t ≤ s.tick →
      s.pinned lo n = true → s.bankFree entry s.tick = true →
        exec .mwaitExpiry s = .next ((s.setMark i entry false).release i [.scalar d (-3)])) ∧
    (∀ p q l n m c, i < 32768 → (s.hart i).part.getD 128 = p → (s.hart i).hold = some ⟨.qwait l, n, m, c⟩ →
      (s.part p).qwaits.find? (·.h == i) = some q → let k := (s.hart i).launch; let ext := (s.launch k).extent q.level
      let counts := (s.cores.filter fun kc => kc.1 * 4 / ext == i / ext).map fun kc => Tab.get (0, 0) kc.2.qcount k
      let quiet := ∀ kx ∈ s.harts, kx.2.launch = k → kx.1 / ext = i / ext → s.quiet kx.1 = true
      (counts.map (·.1)).sum = 0 → (q.first = some counts → quiet → (s.launch k).fabric q.level = false →
          exec .quiescenceCollection s = .next ((s.modPart p fun x =>
            { x with qwaits := x.qwaits.filter (·.h != i) }).release i [.scalar 0 1])) ∧
        (q.first = none → exec .quiescenceCollection s = .next (s.modPart p fun x =>
          { x with qwaits := x.qwaits.map fun d => if d.h = i then { d with first := some counts } else d })))

/-- R326, R329 to R331, R334, R335, R337 to R342, R377, R399: a message of the host or a peer comes in; one that has arrived
is admitted by its sluice, leaves for a peer, sets the event flag of its hart, is written to its host queue or waits there,
or, as an active message whose checks pass, moves the words it names at its owner, in its turn at the banks; a gather that
fails moves none and reports the cause; a spillway message moves to its ring; an open hart dispatches from the mailbox whose
oldest message has the highest class, once none has its oldest message in the spillway. (Where the spec names no host queue,
for a sender of no partition, those of partition 0 are the model's choice: log 35.) -/
def Obligations.MessageStepsComplete : Prop :=
  ∀ (s : State) (m : Msg), let i := s.ev.i; let j := s.ev.j
    let turn := fun (m : Msg) (asks : List PadWait) => (asks.map fun w =>
      w.kept (m.pads.find? fun o => o.core == w.core && o.words == w.words)).all (s.padTurn (· == .sluice))
    (s.ev.ok = true → let n := outsideMsg s.ev; let g := Hdr.hart n.hdr / 256
      ∀ p, s.partOf g = some p → Hdr.pkg n.hdr = s.pkgnum.toNat →
        (n.origin = 1 → s.boot.hostLink = true) → (n.origin = 2 → s.trained ≠ []) →
          exec .messageAdmit s = .next { s with net := s.net ++ [{ n with part := some p }] }) ∧
    (s.net[i]? = some m → s.arrived i m = true →
      (s.ev.ok = false → (∀ h x, s.dest m = .mailbox h x →
          exec .messageAdmit s = .next (s.atHart h m.part fun s => s.accept i m h x)) ∧
        (s.dest m = .peer → ∃ v, (v = 1 ∨ v = 2 ∨ v = BitVec.allOnes 64) ∧
          exec .messageAdmit s = .next ((s.unsend i).fate m v))) ∧
      (∀ h, s.dest m = .event h → ∃ v, exec .eventMessage s = .next
        (((s.unsend i).atHart h m.part fun s => s.modHart h fun x => { x with event := true }).fate m v)) ∧
      (∀ c, s.dest m = .gather c → s.coreHeld c = false → let w := (m.pay.getD 2 0).toNat; let l := w % 2 ^ 32
        let offs := (List.range (w / 2 ^ 32 % 2 ^ 16)).map fun k => (m.pay.getD (3 + k) 0).toNat; let d := m.pay.getD 1 0
        let base := Config.spadKey + d.toNat % 2 ^ 30
        let bad := (offs.filterMap fun o => activeCheck s m.part c o l) ++ (gatherDest s m.part d (offs.length * l)).toList
        (∀ e rest, bad = e :: rest →
          ∃ u, activeEnd s i m c (BitVec.ofInt 64 (-(e : Int))) = .next u ∧ exec .activeGather s = .next u) ∧
        (bad = [] → (turn m [s.ask c (wordsAt offs l) true 5,
            s.ask (padCore base) (wordsAt [base % 2 ^ 17] (offs.length * l)) false 5]) = true →
          let t := offs.zipIdx.foldl (fun t ok => (t.wake (spadLoc c ok.1) l).putSpad
            (base + ok.2 * l) (t.readBytes none (spadLoc c ok.1) l)) s
          ∃ u, activeEnd t i m c 1 = .next u ∧ exec .activeGather s = .next u)) ∧
      (∀ c, s.dest m = .scatter c → s.coreHeld c = false → let ps := pairsOf (m.pay.drop 1)
        (∀ p ∈ ps, activeCheck s m.part c p.1 8 = none ∨ activeCheck s m.part c p.1 8 = some 0x11) →
        turn m [s.ask c (wordsAt (ps.map (·.1)) 8) false 5] = true →
          ∃ u, activeEnd (ps.foldl (fun t p => t.putSpad (spadLoc c p.1) (toBytes 8 p.2.toNat)) s)
            i m c 1 = .next u ∧ exec .activeScatter s = .next u) ∧
      (∀ p, s.dest m = .host → p = m.part.getD 0 → let k := (m.hdr.toNat / 2 ^ 46) % 8
        let q := Tab.get ({} : HostQ) (s.part p).hqs k
        let a := 8 * 2 ^ 48 + q.base + 128 * (q.tail.toNat % 2 ^ q.lgsize)
        let slot := ({ m with handler := false, pay := m.pay.take (Hdr.len m.hdr) } : Msg).slot
        (s.boot.full = true → q.full = true → exec .hostQueueWrite s = .next (s.hostWait i m)) ∧
        (s.boot.full = true → q.full = false → exec .hostQueueWrite s = .next
          (((((s.wrWords a slot).wr8 (a + 64) (BitVec.ofNat 64 q.tail.toNat)).modPart p fun x =>
            { x with hqs := Tab.put x.hqs k { q with tail := q.tail + 1 } }).unsend i).fate m 2)))) ∧
    (i < 32768 → j < 8 → exec .spillwayMove s = .next ((s.spillMove i j).getD (s.spillWait i j))) ∧
    (i < 32768 → (s.hart i).openFor = true → s.withheld i = false → s.scopeHeld i = false →
      (∀ x, s.spilled i = some x → exec .dispatch s = .next ((s.spillMove i x).getD (s.spillWait i x))) ∧
      (∀ x, s.spilled i = none → s.choose i = some x → exec .dispatch s = .next (s.dispatch i x)) ∧
      (∀ x, s.choose i = some x → ∃ c, s.candidate i x = some c ∧ ∀ y b, y < 8 → s.candidate i y = some b → b ≤ c))

/-- R25, R88, R91, R104, R142, R375, R376, R395 to R399, R401 to R405: the steps that a store of a hart to a control register
is named after perform it, each at its register, and those that a host write of a queue block is named after write the
register, after the requester's earlier writes; swapping a partition out takes its harts once it is ready, transfers the rows
and saves it, and swapping it in transfers them and returns it, or reports an uncorrectable shadow row. What the shadow rows
hold, how many are transferred, and that a monitor's write there does not change what returns, are log 24's choices. -/
def Obligations.RegisterStepsComplete : Prop :=
  ∀ (s : State) (e : StoreEnt) (p k : Nat), let i := s.ev.i; let j := s.ev.j; let t := s.performEntry i j e; let r := s.ev.req
    let v : Word := BitVec.ofNat 64 (ofBytes e.bytes); let at' := fun (off : Nat) => e.base = 4 * 2 ^ 48 + off
    let host := fun (off : Nat) => s.ev.ok = true ∧ r.bar = 0 ∧ s.boot.hostLink = true ∧ r.off = 0x1000 * p + 0x40 * k + off ∧
      ∀ d ∈ s.hostPend, d.requester ≠ r.requester
    let u := regWrite s .kernel (0xA_0000_0000 + r.off) s.ev.v; let x := s.part p
    let lq := Tab.get ({} : LaunchQ) x.lqs k; let hq := Tab.get ({} : HostQ) x.hqs k
    (i < 32768 → p < 128 → k < 8 → s.ev.ok = false → (s.hart i).sbuf[j]? = some e → s.storeMay i j = true →
      (at' (0x2_0000_0000 + 0x100 * p) → v.getLsbD 0 = true → exec .ptsplitPush s = .next t) ∧
      (at' (0x2_0000_0000 + 0x100 * p) → v.getLsbD 0 = false → exec .ptsplitReplace s = .next t) ∧
      (at' (0xB_0000_0010 + 0x100 * p) → v.getLsbD 63 = true → x.live = false → exec .partitionCreate s = .next t) ∧
      (at' (0xB_0000_0010 + 0x100 * p) → v.getLsbD 63 = false → x.live = true → exec .partitionDestroy s = .next t) ∧
      (at' (0xB_0000_0000 + 0x100 * p) ∨ at' (0xB_0000_0008 + 0x100 * p) → exec .clusterSetWrite s = .next t) ∧
      (at' (0x6_0000_0000 + 0x100 * p) → v.extractLsb' 2 2 = 1#2 → exec .swapOut s = .next t) ∧
      (at' (0x6_0000_0000 + 0x100 * p) → v.extractLsb' 2 2 = 2#2 → exec .swapIn s = .next t) ∧
      (at' 0xC_0000_0040 → exec .mrExtend s = .next t) ∧
      (at' (0xA_0000_0008 + 0x1000 * p + 0x40 * k) → exec .lqkick s = .next t) ∧
      (at' (0xA_0000_0000 + 0x1000 * p + 0x40 * k) → v.getLsbD 63 = true → lq.en = false → exec .lqcfgEnable s = .next t) ∧
      (at' (0xA_0000_0018 + 0x1000 * p + 0x40 * k) → v.getLsbD 63 = true → hq.en = false → exec .hqcfgEnable s = .next t) ∧
      (at' (0xA_0000_0020 + 0x1000 * p + 0x40 * k) → exec .hqptrHeadWrite s = .next t) ∧
      (at' (0x3_0000_0000 + 0x100 * p) ∨ at' (0x4_0000_0000 + 0x100 * p) ∨ at' (0xD_0000_0000) →
        exec .registerWrite s = .next t) ∧
      (e.toReg = true → e.sc = 0 → t = regWrite (s.modHart i fun x => { x with sbuf := x.sbuf.eraseIdx j }) e.mode
        (e.base % 2 ^ 48) v)) ∧
    (p < 128 → k < 8 →
      (host 8 → exec .lqkick s = .next u) ∧
      (host 0 → s.ev.v.getLsbD 63 = true → lq.en = false → exec .lqcfgEnable s = .next u) ∧
      (host 0x18 → s.ev.v.getLsbD 63 = true → hq.en = false → exec .hqcfgEnable s = .next u) ∧
      (host 0x20 → exec .hqptrHeadWrite s = .next u) ∧ (host 0x10 → exec .registerWrite s = .next u)) ∧
    (i < 128 → (s.part i).swSt = .out1 →
      (∀ y, (s.part i).swRows = none → s.swapReady i = true →
        (s.partHarts i).foldl (fun (t : Option State) h => t.bind fun t => t.swapTake h) (some s) = some y →
          exec .swapOutSave s = .next ((y.swapBegin i).modPart i fun x => { x with frozen := some (s.tick - x.tickOff) })) ∧
      (∀ rows, (s.part i).swRows = some rows → (∀ q ∈ rows, q.2 = 0) → exec .swapOutSave s =
        .next (((s.modPart i fun x => { x with swRows := none }).stash i).swapMessage i)) ∧
      (∀ rows, (s.part i).swRows = some rows → (∃ q ∈ rows, q.2 ≠ 0) → exec .swapOutSave s =
        .next (rows.foldl (fun s q => State.swapTransfer i q.1 8 q.2 s) s))) ∧
    (s.ev.ok = true → i < 128 → (s.part i).swSt = .in1 →
      ((s.part i).swRows = none → exec .swapIn s = .next (s.swapBegin i)) ∧
      (∀ rows, (s.part i).swRows = some rows → let y := s.modPart i fun x => { x with swRows := none }
        ((∀ q ∈ rows, q.2 = 0) → y.badShadow i = none → exec .swapIn s = .next ((y.unstash i).swapMessage i)) ∧
        (∀ w, (∀ q ∈ rows, q.2 = 0) → y.badShadow i = some w → ∃ a, exec .swapIn s =
          .next ((((y.countBad (1024 * w)).machineCheck 2 (w % 8) 0 (BitVec.ofNat 64 (w / 8 * 8192)) a).modPart i fun x =>
            { x with swSt := .out, swErr := 3 }).swapMessage i)) ∧
        ((∃ q ∈ rows, q.2 ≠ 0) → exec .swapIn s = .next (rows.foldl (fun s q => State.swapTransfer i q.1 8 q.2 s) s))))

/-- R141, R387, R389 to R391, R393 to R395: a link replays from the last flit acknowledged, retrains at most four times and is
then down for good; a class enters and leaves escape mode; a port trains. A host write is posted as words, and a word whose
requester's earlier words allow it commits; a read, after them, answers with the bytes there; a completion answers the hart
that asked with its bytes, and a time-out with none. The words that a host write is taken as, and which may commit first where
no rule orders them, are log 25's reading. -/
def Obligations.LinkAndHostStepsComplete : Prop :=
  ∀ (s : State), let i := s.ev.i; let j := s.ev.j; let w := s.ev.w; let x := s.link i; let r := s.ev.req; let a := r.off
    let n := s.ev.bytes.length
    let link := if w = 0 then i else (i + 7) % 8; let key := (2 * i + w, j)
    let users := s.net.filter fun m => Hdr.cls m.hdr == j && (s.msgRoute m).contains link
    (i < 64 → x.up = true →
      (x.locked = true → (BitVec.ofNat 12 w - x.acked).toNat ≤ (x.seq - x.acked - 1).toNat → exec .linkReplay s =
        .next (s.setLink i { x with acked := BitVec.ofNat 12 w, next := BitVec.ofNat 12 w + 1 })) ∧
      (x.attempts < 4 → exec .linkRetrain s =
        .next (s.hinderXfers.setLink i { x with locked := false, attempts := x.attempts + 1, since := s.tick })) ∧
      (x.locked = false → exec .successfulRetrain s =
        .next (s.setLink i { x with locked := true, attempts := 0, next := x.acked + 1 })) ∧
      (x.locked = false → 4 ≤ x.attempts → ∃ t, exec .linkDown s = .next t ∧
        t.links = Tab.put s.links i { x with up := false })) ∧
    (i < 64 → x.up = false → exec .linkDown s = .next s.dropCut) ∧
    (i < 8 → j < 16 → w < 2 →
      (∀ m t, s.ev.ok = false → (users.find? fun m => s.output m == some (2 * i + w)) = some m → m.moved = some t →
        t + 512 ≤ s.tick → (∀ m ∈ users, m.waiting = false) → key ∉ s.escape →
          exec .escapeMode s = .next { s with escape := s.escape ++ [key] }) ∧
      (s.ev.ok = true → (∀ m ∈ users, ¬ (m.esc = true ∧ link ∈ (s.msgRoute m).take m.hops)) →
        exec .escapeMode s = .next { s with escape := s.escape.filter (· != key) })) ∧
    (∀ m l, s.net[i]? = some m → s.nextLink m = some l → let r := s.passLink i m l; let n := BitVec.ofNat 12 (m.flits l)
      (s.mayPassLink i m l = true → (s.link l).up = true ∧ (s.link l).locked = true ∧ (l < 16 ∨ ((l - 16) / 24, (l - 16) % 24) ∈ s.trained) ∧
        ∀ k d, k < i → s.net[k]? = some d → Hdr.cls d.hdr = Hdr.cls m.hdr → s.nextLink d ≠ some l) ∧
      r.net.length = s.net.length ∧ (∀ k, k ≠ i → r.net[k]? = s.net[k]?) ∧
      (∃ e, r.net[i]? = some { m with hops := m.hops + 1, moved := some s.tick, esc := e }) ∧
      (r.link l).seq = (s.link l).seq + n ∧ (r.link l).acked = (s.link l).acked) ∧
    (i < 2 → j < 24 → s.boot.full = true → (i, j) ∉ s.trained → exec .laneTraining s =
      .next { s with links := Tab.put s.links (16 + 24 * i + j) {}, trained := s.trained ++ [(i, j)] }) ∧
    (s.ev.ok = false → s.hostReach n = true → exec .hostWrite s = .next { s with
      draws := s.draws + 1
      hostPend := s.hostPend ++ (wordParts a s.ev.bytes).map fun p =>
        { requester := r.requester, bar4 := r.bar == 4, write := s.draws, addr := p.1, bytes := p.2 } }) ∧
    (∀ d, s.ev.ok = true → s.hostPend[i]? = some d → d.want = 0 → (∀ y ∈ s.hostPend.take i, y.before d = false) →
      s.hostFree d = false → exec .hostWrite s = .next (s.hostStays i d)) ∧
    (∀ d, s.ev.ok = true → s.hostPend[i]? = some d → d.want = 0 → (∀ y ∈ s.hostPend.take i, y.before d = false) →
      s.hostFree d = true → s.isShadow d.addr = false →
      (∀ k, k < d.bytes.length → s.isShadow (d.addr + k) = false) → ∃ t,
        exec .hostWrite s = .next t ∧ t.hostPend = s.hostPend.eraseIdx i ∧
        (∀ k, k < d.bytes.length → t.readKey none (d.addr + k) = d.bytes.getD k 0) ∧
        (s.eccBad d.addr d.bytes.length = false → ∀ b, b < d.addr ∨ d.addr + d.bytes.length ≤ b →
          t.readKey none b = s.readKey none b)) ∧
    (s.ev.ok = false → s.hostQuiet r.requester = true → r.bar = 0 → s.boot.hostLink = true → w = 8 → a % 8 = 0 → a < 2 ^ 24 →
      exec .hostRead s = .next (s.answer (.read (toBytes 8 (if a < 0x8_0000 then regRead s (0xA_0000_0000 + a) else 0).toNat) []))) ∧
    (let served := fun (v : State) (a n : Nat) => (s.hostShadow a n = true → exec .hostRead s = .next (v.answer .unsupported)) ∧
        (s.hostShadow a n = false → ∃ t, exec .hostRead s = .next t ∧ t.answers = s.answers ++
          [.read (s.readBytes none a n) ((List.range n).filter fun k => s.eccBad (a + k) 1)])
      let d : HostPend := { requester := r.requester, addr := a, want := w }
      (s.ev.ok = false → s.hostQuiet r.requester = true → r.bar ≠ 0 → s.hostReach w = true →
        (s.hostFree d = true → served s a w) ∧ (s.hostFree d = false → exec .hostRead s =
          .next { s with hostPend := s.hostPend ++ [{ d with waits := s.hostWaits d }] })) ∧
      (∀ e, s.ev.ok = true → s.hostPend[i]? = some e → e.want ≠ 0 → s.hostFree e = true →
        served { s with hostPend := s.hostPend.eraseIdx i } e.addr e.want)) ∧
    (s.boot.hostLink = true → s.ev.ok = true ∨ (r.bar = 0 ∧ (w ≠ 8 ∨ a % 8 ≠ 0)) →
      exec .hostUnsupported s = .next (s.answer .unsupported)) ∧
    (∀ q, s.hostOut[i]? = some q →
      (s.ev.ok = false → exec .hostCompletion s = .next (s.hostAnswer i q false [])) ∧
      (s.ev.ok = true → q.issued + 50000 < s.tick → exec .hostCompletion s = .next (s.hostAnswer i q false [])) ∧
      (s.ev.ok = true → s.tick ≤ q.issued + 50000 → n = q.n → exec .hostCompletion s =
        .next (s.hostAnswer i q true s.ev.bytes)) ∧
      (q.issued + 50000 ≤ s.tick → exec .hostRequestTimeout s = .next (s.hostAnswer i q false [])))

/-- R405 to R411: a reset boots the package anew unless a die is too hot; the end of DRAM training gives the full service, or,
where a vault could not be trained, fails the boot; the sideband reports measurements, signed with the identity key (Ed25519:
log 10; without a key pair zeros: log 35), and status, and sets the life cycle along its permitted transitions, the one to
Production generating the key; above 110 °C everything stops, and the sideband says so; the power manager takes one action
every 1,000 ticks, and boosts an island to 1,450 or 1,600 MHz while it grants boost and the estimate is within the cap. The
order and number of the power manager's actions at one evaluation are log 28's choice. -/
def Obligations.PackageStepsComplete : Prop :=
  ∀ (s : State), let w := s.ev.w; let b := s.boot; let p := { s with power := { s.power with last := s.tick } }
    let may := (b.lc = 0 ∧ w = 1) ∨ (b.lc = 1 ∧ (w = 2 ∨ w = 3)) ∨ (b.lc = 2 ∧ (w = 1 ∨ w = 3))
    let flag := fun d => let t := Tab.get 0 s.temps d
      if 110 < t then 3 else if 100 < t then 2 else if 95 < t then 1 else 0
    (s.heldHot = false → exec .packageReset s = .next s.bootRun) ∧
    (b.failed = false → b.hot = false → b.full = false → b.step = (if b.lc = 3 then 2 else 3) →
      (s.ev.ok = true → ∃ t, exec .dramTrainingDone s = .next t ∧ t.boot = { b with full := true, step := 4 } ∧ t.harts = s.harts) ∧
      (s.ev.ok = false → exec .dramTrainingDone s =
        .next { s.wiped with boot := { b with step := 4, failed := true, hostLink := false } })) ∧
    (let body := s.reportBody s.ev.big
     exec .getreport s = .next (s.answer (.report (body ++ match b.key with
       | none => List.replicate 64 0
       | some k => vBytes (edSign (Config.identitySeed k) body)))) ∧ body.length = 624) ∧
    (¬ may → exec .setlc s = .next (s.answer (.lifeCycle false))) ∧
    (may → ∃ t, exec .setlc s = .next t ∧ t.boot.lc = w ∧ t.answers = s.answers ++ [.lifeCycle true] ∧
      t.boot.key = if b.lc = 0 then some s.steps else b.key) ∧
    exec .status s = .next (s.answer (.status b.lc b.step b.failed b.hot ((List.range 8).map flag))) ∧
    (s.ev.i < 8 → let t := { s with temps := Tab.put s.temps s.ev.i w }
      (w ≤ 110 → exec .temperatureThreshold s = .next t) ∧
      (110 < w → exec .temperatureThreshold s = .next
        ({ t.wiped with boot := { t.wiped.boot with hot := true } }.answer (.overheat s.ev.i)))) ∧
    (s.ev.ok = true → s.ev.i < 128 → let low := s.power.lowered.contains s.ev.i
      (low = true → exec .powerManagerEval s = .next s) ∧
      (low = false → s.ev.j = 1300 → exec .powerManagerEval s =
        .next { s with power := { s.power with freq := s.power.freq.filter fun kf => kf.1 != s.ev.i } }) ∧
      (low = false → s.ev.j = 1450 ∨ s.ev.j = 1600 → s.power.noBoost = false → w ≤ s.power.cap →
        Tab.get 0 s.temps (s.ev.i / 16) ≤ 95 → b.full = true → exec .powerManagerEval s =
          .next { s with power := { s.power with freq := Tab.put s.power.freq s.ev.i s.ev.j } })) ∧
    (s.ev.ok = false → s.power.last + 1000 ≤ s.tick →
      (s.power.cap < w → exec .powerManagerEval s = .next p.powerDownStep) ∧
      (w ≤ s.power.cap → 100 * w ≤ 95 * s.power.cap → exec .powerManagerEval s = .next p.powerUpStep) ∧
      (w ≤ s.power.cap → 95 * s.power.cap < 100 * w → exec .powerManagerEval s = .next p))

/-! ## The step, the encoding and the whole machine -/

/-- R126, R165, R167, R190, R354, R379: a core's turn issues for a ready hart of it that needs the slot and has the highest
priority of those, where there is one; where the words at that hart's pc decode to an instruction, the step is that
instruction's execution after the issue has been noted, and the time that passes; so is the instruction that it is held at;
but the first chain of a handler whose message could not be read traps instead. An instruction that ends in a wait before it
has done anything leaves the state before it, with the hold and its draws; the accesses of one that has made some stand. A
unit's turn is the unit's step with its parameters. -/
def Obligations.StepRunsTheDecodedInstruction : Prop :=
  (∀ (s t : State) (c h : Nat) (vec : Bool) (ws : List Half) (got : Tab Word) (k : Chain),
    let u := ((noteWaits exec c vec h s).modHart h fun y => { y with waited := 0 }).modCore c fun y =>
      if vec then { y with rrVector := h % 4 } else { y with rrScalar := h % 4 }
    let begins := fun v : State => v.modHart h fun y => { y with done := [], todo := [] }
    let go := { begins t with cx := { hart := h, instr := k.instr, len := k.len, base := k.base, marker := k.marker } }
    let after := fun o : Out => match u.attempt h o with
      | .next v => .next (v.elapse s.steps)
      | .fault f => .fault f
      | .refused r => .refused r
    s.turn = .core c vec → c < 8192 → pick exec c vec s = some h →
    ((∀ a b d e, (u.hart h).hold ≠ some ⟨a, b, d, some e⟩) →
      (List.range ws.length).foldl (fun (x : Look (List Half × Tab Word)) j => x.bind fun (ws, got) v =>
        (fetchWord h ((u.hart h).pc + BitVec.ofNat 64 (2 * j)) got v).bind fun (w, got) v => .ok (ws ++ [w], got) v)
          (.ok ([], []) (u.replay h)) = .ok (ws, got) t →
      decodeWords ws = .ok k → k.len = ws.length →
        ((t.hart h).h.bad = none → step s = after (exec k.instr go)) ∧
        (∀ a, (t.hart h).h.bad = some a → step s = after (trap 0x11 a
            (go.modHart h fun y => { y with h := { y.h with bad := none } })))) ∧
    (∀ a b d e, (u.hart h).hold = some ⟨a, b, d, some e⟩ → (u.hart h).h.bad = none →
      step s = after (exec e.instr { u.replay h with
        cx := { hart := h, instr := e.instr, len := e.len, base := e.base, marker := e.marker } }))) ∧
  (∀ (u v : State) (h : Nat), ((v.hart h).hold = none → u.attempt h (.next v) = .next v) ∧
    ∀ k, (v.hart h).hold = some k →
      (k.kind = .again ∨ k.kind = .inject ∨ (∃ t p, k.kind = .bank t p) → (v.hart h).done = [] →
        u.attempt h (.next v) = .next ({ u with draws := v.draws, cx := v.cx }.modHart h fun x =>
          { x with hold := some k, done := [], todo := [] })) ∧
      ((v.hart h).done ≠ [] → u.attempt h (.next v) = .next v)) ∧
  (∀ (s : State) (e : Instr) (x : EvArgs), s.turn = .event e x → e.isEvent = true →
    step s = match exec e { s with ev := x } with
      | .next v => .next (v.elapse s.steps)
      | .fault f => .fault f
      | .refused r => .refused r) ∧
  (∀ (s : State) (c h : Nat) (vec : Bool), pick exec c vec s = some h →
    h / 4 = c ∧ ready exec h s = true ∧ slotOf (fetch h s) = vec ∧
      ∀ g, g / 4 = c → ready exec g s = true → slotOf (fetch g s) = vec → (s.hart g).priority ≤ (s.hart h).priority) ∧
  (∀ (s : State) (c h : Nat) (vec : Bool), h / 4 = c → ready exec h s = true → slotOf (fetch h s) = vec →
    (pick exec c vec s).isSome)

/-- R164 to R166, R170, R173 to R175: words written out from the encoding: register, immediate and two-address forms, wide
registers, branches, sub-operations, a marker, and a row of each page; a register that does not exist, a reserved operation
and a malformed lead word are refused by name. -/
def Obligations.WordsDecode : Prop :=
  decodeWords [0x0000] = .ok ⟨.ill, false, 1, 0x0000⟩ ∧
  decodeWords [0x7005, 0x0312] = .ok ⟨.add ⟨1, 2, .imm 5⟩, false, 2, 0x0312⟩ ∧
  decodeWords [0x83C3] = .ok ⟨.add ⟨12, 3, .none⟩, true, 1, 0x83C3⟩ ∧
  decodeWords [0x74A0, 0x0412] = .ok ⟨.sub ⟨1, 2, .reg 40⟩, false, 2, 0x0412⟩ ∧
  decodeWords [0x7250, 0x0100] = .ok ⟨.mov ⟨16, 32⟩, false, 2, 0x0100⟩ ∧
  decodeWords [0x020F] = .ok ⟨.movi ⟨0, -1⟩, false, 1, 0x020F⟩ ∧
  decodeWords [0x7012, 0x0203] = .ok ⟨.movi ⟨0, 0x123⟩, false, 2, 0x0203⟩ ∧
  decodeWords [0x7040, 0x3C00] = .ok ⟨.csrr ⟨0, 0x400⟩, false, 2, 0x3C00⟩ ∧
  decodeWords [0x7010, 0x2E23] = .ok ⟨.ld8 ⟨2, 3, .imm 16, 0, 0⟩, false, 2, 0x2E23⟩ ∧
  decodeWords [0x61FE] = .ok ⟨.bnz (-2), false, 1, 0x61FE⟩ ∧
  decodeWords [0x7001, 0x6004] = .ok ⟨.bz 260, false, 2, 0x6004⟩ ∧
  decodeWords [0xF803] = .ok ⟨.eret, true, 1, 0xF803⟩ ∧
  decodeWords [0x7620, 0x0112] = .ok ⟨.amoadd ⟨1, 2, none, 0, 0, 0⟩, false, 2, 0x0112⟩ ∧
  decodeWords [0x7640, 0x0700] = .ok ⟨.halt, false, 2, 0x0700⟩ ∧
  decodeWords [0x7660, 0x7203, 0x0112] = .ok ⟨.vadd ⟨0, false, 3, 1, 2, .none⟩, false, 3, 0x0112⟩ ∧
  decodeWords [0x7680, 0x0E00] = .ok ⟨.vtake, false, 2, 0x0E00⟩ ∧
  decodeWords [0x76A0, 0x0505] = .ok ⟨.minit ⟨5, 0⟩, false, 2, 0x0505⟩ ∧
  decodeWords [0x76C3, 0x0200] = .ok ⟨.mxfree 3, false, 2, 0x0200⟩ ∧
  decodeWords [0x76E0, 0x0212] = .ok ⟨.keyld ⟨1, 2⟩, false, 2, 0x0212⟩ ∧
  decodeWords [0x7300, 0x01C0] = .error (.reserved 0 2 0x01C0) ∧
  decodeWords [0x76E0, 0x0912] = .error (.illegal 2 0x0912) ∧
  decodeWords [0x7401, 0x0312] = .error (.malformed 1 0x7401)

/-- R164 to R170, R173 to R175: decoding is exact: for every well-formed instruction, whatever its operands, the words of its
encoding decode to it and its marker and to nothing shorter or longer. -/
def Obligations.EncodingRoundTrips : Prop :=
  ∀ (i : Instr) (marker : Bool), i.wf = true →
    ∃ base, decodeWords (encode i marker) = .ok ⟨i, marker, (encode i marker).length, base⟩

/-- Memory stays canonical: from every state whose memory has the one canonical form (addresses strictly rising, no entry of
the value that an unlisted address reads as), whatever agent moves and whatever it does, the next state's memory has it. -/
def Obligations.StepKeepsMemoryCanonical : Prop :=
  ∀ s t : State, s.Canonical → step s = .next t → t.Canonical

/-- R349, R405, R408, R411: right after reset no hart runs, nothing is in flight, no memory byte and no register of any hart
is non-zero, memory is canonical, and the first step is the package reset that boots (log 2 for the state it starts from); a
package reset clears all SRAM and keeps every other byte and the life cycle. Where the spec gives no reset value, those here
are log 1's choice, and the zeros of host memory log 3's. -/
def Obligations.StateAfterReset : Prop :=
  let r := State.reset
  (∀ h, (r.hart h).st = .free ∧ ∀ k, (r.hart h).reg k = 0) ∧ r.Canonical ∧ (∀ a, Mem.get r.mem a = 0) ∧ r.net = [] ∧
  r.turn = .event .packageReset {} ∧ r.power.cap = 1400 ∧ r.boot.full = false ∧
  ∀ s : State, let t := s.wiped
    (∀ a, isSpad a = true ∨ isBoot a = true → Mem.get t.mem a = 0) ∧
    (∀ a, isSpad a = false → isBoot a = false → Mem.get t.mem a = Mem.get s.mem a) ∧ t.harts = [] ∧ t.net = [] ∧
    t.parts = [] ∧ t.boot.lc = s.boot.lc
end

