-- ==== Sys2Proof/Laws/State.lean ====
section
/-! SUPPORT. What each update of one part of the package leaves of every field of State, true by definition. -/

namespace Sys2Proof.Machine

@[simp] theorem State.setHart_turn (s : State) (h : Nat) (x : Hart) : (s.setHart h x).turn = s.turn := rfl
@[simp] theorem State.setHart_steps (s : State) (h : Nat) (x : Hart) : (s.setHart h x).steps = s.steps := rfl
@[simp] theorem State.setHart_draws (s : State) (h : Nat) (x : Hart) : (s.setHart h x).draws = s.draws := rfl
@[simp] theorem State.setHart_cx (s : State) (h : Nat) (x : Hart) : (s.setHart h x).cx = s.cx := rfl
@[simp] theorem State.setHart_ev (s : State) (h : Nat) (x : Hart) : (s.setHart h x).ev = s.ev := rfl
@[simp] theorem State.setHart_tick (s : State) (h : Nat) (x : Hart) : (s.setHart h x).tick = s.tick := rfl
@[simp] theorem State.setHart_pkgnum (s : State) (h : Nat) (x : Hart) : (s.setHart h x).pkgnum = s.pkgnum := rfl
@[simp] theorem State.setHart_mem (s : State) (h : Nat) (x : Hart) : (s.setHart h x).mem = s.mem := rfl
@[simp] theorem State.setHart_encUnits (s : State) (h : Nat) (x : Hart) : (s.setHart h x).encUnits = s.encUnits := rfl
@[simp] theorem State.setHart_badCodewords (s : State) (h : Nat) (x : Hart) : (s.setHart h x).badCodewords = s.badCodewords := rfl
@[simp] theorem State.setHart_corrCodewords (s : State) (h : Nat) (x : Hart) : (s.setHart h x).corrCodewords = s.corrCodewords := rfl
@[simp] theorem State.setHart_cores (s : State) (h : Nat) (x : Hart) : (s.setHart h x).cores = s.cores := rfl
@[simp] theorem State.setHart_groups (s : State) (h : Nat) (x : Hart) : (s.setHart h x).groups = s.groups := rfl
@[simp] theorem State.setHart_clusters (s : State) (h : Nat) (x : Hart) : (s.setHart h x).clusters = s.clusters := rfl
@[simp] theorem State.setHart_parts (s : State) (h : Nat) (x : Hart) : (s.setHart h x).parts = s.parts := rfl
@[simp] theorem State.setHart_launches (s : State) (h : Nat) (x : Hart) : (s.setHart h x).launches = s.launches := rfl
@[simp] theorem State.setHart_nextLaunch (s : State) (h : Nat) (x : Hart) : (s.setHart h x).nextLaunch = s.nextLaunch := rfl
@[simp] theorem State.setHart_net (s : State) (h : Nat) (x : Hart) : (s.setHart h x).net = s.net := rfl
@[simp] theorem State.setHart_hostOut (s : State) (h : Nat) (x : Hart) : (s.setHart h x).hostOut = s.hostOut := rfl
@[simp] theorem State.setHart_hostPend (s : State) (h : Nat) (x : Hart) : (s.setHart h x).hostPend = s.hostPend := rfl
@[simp] theorem State.setHart_devPend (s : State) (h : Nat) (x : Hart) : (s.setHart h x).devPend = s.devPend := rfl
@[simp] theorem State.setHart_keys (s : State) (h : Nat) (x : Hart) : (s.setHart h x).keys = s.keys := rfl
@[simp] theorem State.setHart_rtcfg (s : State) (h : Nat) (x : Hart) : (s.setHart h x).rtcfg = s.rtcfg := rfl
@[simp] theorem State.setHart_tlpkg (s : State) (h : Nat) (x : Hart) : (s.setHart h x).tlpkg = s.tlpkg := rfl
@[simp] theorem State.setHart_trained (s : State) (h : Nat) (x : Hart) : (s.setHart h x).trained = s.trained := rfl
@[simp] theorem State.setHart_links (s : State) (h : Nat) (x : Hart) : (s.setHart h x).links = s.links := rfl
@[simp] theorem State.setHart_escape (s : State) (h : Nat) (x : Hart) : (s.setHart h x).escape = s.escape := rfl
@[simp] theorem State.setHart_mcqcfg (s : State) (h : Nat) (x : Hart) : (s.setHart h x).mcqcfg = s.mcqcfg := rfl
@[simp] theorem State.setHart_mcqmsg (s : State) (h : Nat) (x : Hart) : (s.setHart h x).mcqmsg = s.mcqmsg := rfl
@[simp] theorem State.setHart_mcqhead (s : State) (h : Nat) (x : Hart) : (s.setHart h x).mcqhead = s.mcqhead := rfl
@[simp] theorem State.setHart_mcqtail (s : State) (h : Nat) (x : Hart) : (s.setHart h x).mcqtail = s.mcqtail := rfl
@[simp] theorem State.setHart_mccorr (s : State) (h : Nat) (x : Hart) : (s.setHart h x).mccorr = s.mccorr := rfl
@[simp] theorem State.setHart_mclost (s : State) (h : Nat) (x : Hart) : (s.setHart h x).mclost = s.mclost := rfl
@[simp] theorem State.setHart_boot (s : State) (h : Nat) (x : Hart) : (s.setHart h x).boot = s.boot := rfl
@[simp] theorem State.setHart_power (s : State) (h : Nat) (x : Hart) : (s.setHart h x).power = s.power := rfl
@[simp] theorem State.setHart_temps (s : State) (h : Nat) (x : Hart) : (s.setHart h x).temps = s.temps := rfl
@[simp] theorem State.setHart_answers (s : State) (h : Nat) (x : Hart) : (s.setHart h x).answers = s.answers := rfl

@[simp] theorem State.modHart_turn (s : State) (h : Nat) (f : Hart → Hart) : (s.modHart h f).turn = s.turn := rfl
@[simp] theorem State.modHart_steps (s : State) (h : Nat) (f : Hart → Hart) : (s.modHart h f).steps = s.steps := rfl
@[simp] theorem State.modHart_draws (s : State) (h : Nat) (f : Hart → Hart) : (s.modHart h f).draws = s.draws := rfl
@[simp] theorem State.modHart_cx (s : State) (h : Nat) (f : Hart → Hart) : (s.modHart h f).cx = s.cx := rfl
@[simp] theorem State.modHart_ev (s : State) (h : Nat) (f : Hart → Hart) : (s.modHart h f).ev = s.ev := rfl
@[simp] theorem State.modHart_tick (s : State) (h : Nat) (f : Hart → Hart) : (s.modHart h f).tick = s.tick := rfl
@[simp] theorem State.modHart_pkgnum (s : State) (h : Nat) (f : Hart → Hart) : (s.modHart h f).pkgnum = s.pkgnum := rfl
@[simp] theorem State.modHart_mem (s : State) (h : Nat) (f : Hart → Hart) : (s.modHart h f).mem = s.mem := rfl
@[simp] theorem State.modHart_encUnits (s : State) (h : Nat) (f : Hart → Hart) : (s.modHart h f).encUnits = s.encUnits := rfl
@[simp] theorem State.modHart_badCodewords (s : State) (h : Nat) (f : Hart → Hart) : (s.modHart h f).badCodewords = s.badCodewords := rfl
@[simp] theorem State.modHart_corrCodewords (s : State) (h : Nat) (f : Hart → Hart) : (s.modHart h f).corrCodewords = s.corrCodewords := rfl
@[simp] theorem State.modHart_cores (s : State) (h : Nat) (f : Hart → Hart) : (s.modHart h f).cores = s.cores := rfl
@[simp] theorem State.modHart_groups (s : State) (h : Nat) (f : Hart → Hart) : (s.modHart h f).groups = s.groups := rfl
@[simp] theorem State.modHart_clusters (s : State) (h : Nat) (f : Hart → Hart) : (s.modHart h f).clusters = s.clusters := rfl
@[simp] theorem State.modHart_parts (s : State) (h : Nat) (f : Hart → Hart) : (s.modHart h f).parts = s.parts := rfl
@[simp] theorem State.modHart_launches (s : State) (h : Nat) (f : Hart → Hart) : (s.modHart h f).launches = s.launches := rfl
@[simp] theorem State.modHart_nextLaunch (s : State) (h : Nat) (f : Hart → Hart) : (s.modHart h f).nextLaunch = s.nextLaunch := rfl
@[simp] theorem State.modHart_net (s : State) (h : Nat) (f : Hart → Hart) : (s.modHart h f).net = s.net := rfl
@[simp] theorem State.modHart_hostOut (s : State) (h : Nat) (f : Hart → Hart) : (s.modHart h f).hostOut = s.hostOut := rfl
@[simp] theorem State.modHart_hostPend (s : State) (h : Nat) (f : Hart → Hart) : (s.modHart h f).hostPend = s.hostPend := rfl
@[simp] theorem State.modHart_devPend (s : State) (h : Nat) (f : Hart → Hart) : (s.modHart h f).devPend = s.devPend := rfl
@[simp] theorem State.modHart_keys (s : State) (h : Nat) (f : Hart → Hart) : (s.modHart h f).keys = s.keys := rfl
@[simp] theorem State.modHart_rtcfg (s : State) (h : Nat) (f : Hart → Hart) : (s.modHart h f).rtcfg = s.rtcfg := rfl
@[simp] theorem State.modHart_tlpkg (s : State) (h : Nat) (f : Hart → Hart) : (s.modHart h f).tlpkg = s.tlpkg := rfl
@[simp] theorem State.modHart_trained (s : State) (h : Nat) (f : Hart → Hart) : (s.modHart h f).trained = s.trained := rfl
@[simp] theorem State.modHart_links (s : State) (h : Nat) (f : Hart → Hart) : (s.modHart h f).links = s.links := rfl
@[simp] theorem State.modHart_escape (s : State) (h : Nat) (f : Hart → Hart) : (s.modHart h f).escape = s.escape := rfl
@[simp] theorem State.modHart_mcqcfg (s : State) (h : Nat) (f : Hart → Hart) : (s.modHart h f).mcqcfg = s.mcqcfg := rfl
@[simp] theorem State.modHart_mcqmsg (s : State) (h : Nat) (f : Hart → Hart) : (s.modHart h f).mcqmsg = s.mcqmsg := rfl
@[simp] theorem State.modHart_mcqhead (s : State) (h : Nat) (f : Hart → Hart) : (s.modHart h f).mcqhead = s.mcqhead := rfl
@[simp] theorem State.modHart_mcqtail (s : State) (h : Nat) (f : Hart → Hart) : (s.modHart h f).mcqtail = s.mcqtail := rfl
@[simp] theorem State.modHart_mccorr (s : State) (h : Nat) (f : Hart → Hart) : (s.modHart h f).mccorr = s.mccorr := rfl
@[simp] theorem State.modHart_mclost (s : State) (h : Nat) (f : Hart → Hart) : (s.modHart h f).mclost = s.mclost := rfl
@[simp] theorem State.modHart_boot (s : State) (h : Nat) (f : Hart → Hart) : (s.modHart h f).boot = s.boot := rfl
@[simp] theorem State.modHart_power (s : State) (h : Nat) (f : Hart → Hart) : (s.modHart h f).power = s.power := rfl
@[simp] theorem State.modHart_temps (s : State) (h : Nat) (f : Hart → Hart) : (s.modHart h f).temps = s.temps := rfl
@[simp] theorem State.modHart_answers (s : State) (h : Nat) (f : Hart → Hart) : (s.modHart h f).answers = s.answers := rfl

@[simp] theorem State.modMe_turn (s : State) (f : Hart → Hart) : (s.modMe f).turn = s.turn := rfl
@[simp] theorem State.modMe_steps (s : State) (f : Hart → Hart) : (s.modMe f).steps = s.steps := rfl
@[simp] theorem State.modMe_draws (s : State) (f : Hart → Hart) : (s.modMe f).draws = s.draws := rfl
@[simp] theorem State.modMe_cx (s : State) (f : Hart → Hart) : (s.modMe f).cx = s.cx := rfl
@[simp] theorem State.modMe_ev (s : State) (f : Hart → Hart) : (s.modMe f).ev = s.ev := rfl
@[simp] theorem State.modMe_tick (s : State) (f : Hart → Hart) : (s.modMe f).tick = s.tick := rfl
@[simp] theorem State.modMe_pkgnum (s : State) (f : Hart → Hart) : (s.modMe f).pkgnum = s.pkgnum := rfl
@[simp] theorem State.modMe_mem (s : State) (f : Hart → Hart) : (s.modMe f).mem = s.mem := rfl
@[simp] theorem State.modMe_encUnits (s : State) (f : Hart → Hart) : (s.modMe f).encUnits = s.encUnits := rfl
@[simp] theorem State.modMe_badCodewords (s : State) (f : Hart → Hart) : (s.modMe f).badCodewords = s.badCodewords := rfl
@[simp] theorem State.modMe_corrCodewords (s : State) (f : Hart → Hart) : (s.modMe f).corrCodewords = s.corrCodewords := rfl
@[simp] theorem State.modMe_cores (s : State) (f : Hart → Hart) : (s.modMe f).cores = s.cores := rfl
@[simp] theorem State.modMe_groups (s : State) (f : Hart → Hart) : (s.modMe f).groups = s.groups := rfl
@[simp] theorem State.modMe_clusters (s : State) (f : Hart → Hart) : (s.modMe f).clusters = s.clusters := rfl
@[simp] theorem State.modMe_parts (s : State) (f : Hart → Hart) : (s.modMe f).parts = s.parts := rfl
@[simp] theorem State.modMe_launches (s : State) (f : Hart → Hart) : (s.modMe f).launches = s.launches := rfl
@[simp] theorem State.modMe_nextLaunch (s : State) (f : Hart → Hart) : (s.modMe f).nextLaunch = s.nextLaunch := rfl
@[simp] theorem State.modMe_net (s : State) (f : Hart → Hart) : (s.modMe f).net = s.net := rfl
@[simp] theorem State.modMe_hostOut (s : State) (f : Hart → Hart) : (s.modMe f).hostOut = s.hostOut := rfl
@[simp] theorem State.modMe_hostPend (s : State) (f : Hart → Hart) : (s.modMe f).hostPend = s.hostPend := rfl
@[simp] theorem State.modMe_devPend (s : State) (f : Hart → Hart) : (s.modMe f).devPend = s.devPend := rfl
@[simp] theorem State.modMe_keys (s : State) (f : Hart → Hart) : (s.modMe f).keys = s.keys := rfl
@[simp] theorem State.modMe_rtcfg (s : State) (f : Hart → Hart) : (s.modMe f).rtcfg = s.rtcfg := rfl
@[simp] theorem State.modMe_tlpkg (s : State) (f : Hart → Hart) : (s.modMe f).tlpkg = s.tlpkg := rfl
@[simp] theorem State.modMe_trained (s : State) (f : Hart → Hart) : (s.modMe f).trained = s.trained := rfl
@[simp] theorem State.modMe_links (s : State) (f : Hart → Hart) : (s.modMe f).links = s.links := rfl
@[simp] theorem State.modMe_escape (s : State) (f : Hart → Hart) : (s.modMe f).escape = s.escape := rfl
@[simp] theorem State.modMe_mcqcfg (s : State) (f : Hart → Hart) : (s.modMe f).mcqcfg = s.mcqcfg := rfl
@[simp] theorem State.modMe_mcqmsg (s : State) (f : Hart → Hart) : (s.modMe f).mcqmsg = s.mcqmsg := rfl
@[simp] theorem State.modMe_mcqhead (s : State) (f : Hart → Hart) : (s.modMe f).mcqhead = s.mcqhead := rfl
@[simp] theorem State.modMe_mcqtail (s : State) (f : Hart → Hart) : (s.modMe f).mcqtail = s.mcqtail := rfl
@[simp] theorem State.modMe_mccorr (s : State) (f : Hart → Hart) : (s.modMe f).mccorr = s.mccorr := rfl
@[simp] theorem State.modMe_mclost (s : State) (f : Hart → Hart) : (s.modMe f).mclost = s.mclost := rfl
@[simp] theorem State.modMe_boot (s : State) (f : Hart → Hart) : (s.modMe f).boot = s.boot := rfl
@[simp] theorem State.modMe_power (s : State) (f : Hart → Hart) : (s.modMe f).power = s.power := rfl
@[simp] theorem State.modMe_temps (s : State) (f : Hart → Hart) : (s.modMe f).temps = s.temps := rfl
@[simp] theorem State.modMe_answers (s : State) (f : Hart → Hart) : (s.modMe f).answers = s.answers := rfl

@[simp] theorem State.modCore_turn (s : State) (c : Nat) (f : Core → Core) : (s.modCore c f).turn = s.turn := rfl
@[simp] theorem State.modCore_steps (s : State) (c : Nat) (f : Core → Core) : (s.modCore c f).steps = s.steps := rfl
@[simp] theorem State.modCore_draws (s : State) (c : Nat) (f : Core → Core) : (s.modCore c f).draws = s.draws := rfl
@[simp] theorem State.modCore_cx (s : State) (c : Nat) (f : Core → Core) : (s.modCore c f).cx = s.cx := rfl
@[simp] theorem State.modCore_ev (s : State) (c : Nat) (f : Core → Core) : (s.modCore c f).ev = s.ev := rfl
@[simp] theorem State.modCore_tick (s : State) (c : Nat) (f : Core → Core) : (s.modCore c f).tick = s.tick := rfl
@[simp] theorem State.modCore_pkgnum (s : State) (c : Nat) (f : Core → Core) : (s.modCore c f).pkgnum = s.pkgnum := rfl
@[simp] theorem State.modCore_mem (s : State) (c : Nat) (f : Core → Core) : (s.modCore c f).mem = s.mem := rfl
@[simp] theorem State.modCore_encUnits (s : State) (c : Nat) (f : Core → Core) : (s.modCore c f).encUnits = s.encUnits := rfl
@[simp] theorem State.modCore_badCodewords (s : State) (c : Nat) (f : Core → Core) : (s.modCore c f).badCodewords = s.badCodewords := rfl
@[simp] theorem State.modCore_corrCodewords (s : State) (c : Nat) (f : Core → Core) : (s.modCore c f).corrCodewords = s.corrCodewords := rfl
@[simp] theorem State.modCore_harts (s : State) (c : Nat) (f : Core → Core) : (s.modCore c f).harts = s.harts := rfl
@[simp] theorem State.modCore_groups (s : State) (c : Nat) (f : Core → Core) : (s.modCore c f).groups = s.groups := rfl
@[simp] theorem State.modCore_clusters (s : State) (c : Nat) (f : Core → Core) : (s.modCore c f).clusters = s.clusters := rfl
@[simp] theorem State.modCore_parts (s : State) (c : Nat) (f : Core → Core) : (s.modCore c f).parts = s.parts := rfl
@[simp] theorem State.modCore_launches (s : State) (c : Nat) (f : Core → Core) : (s.modCore c f).launches = s.launches := rfl
@[simp] theorem State.modCore_nextLaunch (s : State) (c : Nat) (f : Core → Core) : (s.modCore c f).nextLaunch = s.nextLaunch := rfl
@[simp] theorem State.modCore_net (s : State) (c : Nat) (f : Core → Core) : (s.modCore c f).net = s.net := rfl
@[simp] theorem State.modCore_hostOut (s : State) (c : Nat) (f : Core → Core) : (s.modCore c f).hostOut = s.hostOut := rfl
@[simp] theorem State.modCore_hostPend (s : State) (c : Nat) (f : Core → Core) : (s.modCore c f).hostPend = s.hostPend := rfl
@[simp] theorem State.modCore_devPend (s : State) (c : Nat) (f : Core → Core) : (s.modCore c f).devPend = s.devPend := rfl
@[simp] theorem State.modCore_keys (s : State) (c : Nat) (f : Core → Core) : (s.modCore c f).keys = s.keys := rfl
@[simp] theorem State.modCore_rtcfg (s : State) (c : Nat) (f : Core → Core) : (s.modCore c f).rtcfg = s.rtcfg := rfl
@[simp] theorem State.modCore_tlpkg (s : State) (c : Nat) (f : Core → Core) : (s.modCore c f).tlpkg = s.tlpkg := rfl
@[simp] theorem State.modCore_trained (s : State) (c : Nat) (f : Core → Core) : (s.modCore c f).trained = s.trained := rfl
@[simp] theorem State.modCore_links (s : State) (c : Nat) (f : Core → Core) : (s.modCore c f).links = s.links := rfl
@[simp] theorem State.modCore_escape (s : State) (c : Nat) (f : Core → Core) : (s.modCore c f).escape = s.escape := rfl
@[simp] theorem State.modCore_mcqcfg (s : State) (c : Nat) (f : Core → Core) : (s.modCore c f).mcqcfg = s.mcqcfg := rfl
@[simp] theorem State.modCore_mcqmsg (s : State) (c : Nat) (f : Core → Core) : (s.modCore c f).mcqmsg = s.mcqmsg := rfl
@[simp] theorem State.modCore_mcqhead (s : State) (c : Nat) (f : Core → Core) : (s.modCore c f).mcqhead = s.mcqhead := rfl
@[simp] theorem State.modCore_mcqtail (s : State) (c : Nat) (f : Core → Core) : (s.modCore c f).mcqtail = s.mcqtail := rfl
@[simp] theorem State.modCore_mccorr (s : State) (c : Nat) (f : Core → Core) : (s.modCore c f).mccorr = s.mccorr := rfl
@[simp] theorem State.modCore_mclost (s : State) (c : Nat) (f : Core → Core) : (s.modCore c f).mclost = s.mclost := rfl
@[simp] theorem State.modCore_boot (s : State) (c : Nat) (f : Core → Core) : (s.modCore c f).boot = s.boot := rfl
@[simp] theorem State.modCore_power (s : State) (c : Nat) (f : Core → Core) : (s.modCore c f).power = s.power := rfl
@[simp] theorem State.modCore_temps (s : State) (c : Nat) (f : Core → Core) : (s.modCore c f).temps = s.temps := rfl
@[simp] theorem State.modCore_answers (s : State) (c : Nat) (f : Core → Core) : (s.modCore c f).answers = s.answers := rfl

@[simp] theorem State.modGroup_turn (s : State) (g : Nat) (f : Group → Group) : (s.modGroup g f).turn = s.turn := rfl
@[simp] theorem State.modGroup_steps (s : State) (g : Nat) (f : Group → Group) : (s.modGroup g f).steps = s.steps := rfl
@[simp] theorem State.modGroup_draws (s : State) (g : Nat) (f : Group → Group) : (s.modGroup g f).draws = s.draws := rfl
@[simp] theorem State.modGroup_cx (s : State) (g : Nat) (f : Group → Group) : (s.modGroup g f).cx = s.cx := rfl
@[simp] theorem State.modGroup_ev (s : State) (g : Nat) (f : Group → Group) : (s.modGroup g f).ev = s.ev := rfl
@[simp] theorem State.modGroup_tick (s : State) (g : Nat) (f : Group → Group) : (s.modGroup g f).tick = s.tick := rfl
@[simp] theorem State.modGroup_pkgnum (s : State) (g : Nat) (f : Group → Group) : (s.modGroup g f).pkgnum = s.pkgnum := rfl
@[simp] theorem State.modGroup_mem (s : State) (g : Nat) (f : Group → Group) : (s.modGroup g f).mem = s.mem := rfl
@[simp] theorem State.modGroup_encUnits (s : State) (g : Nat) (f : Group → Group) : (s.modGroup g f).encUnits = s.encUnits := rfl
@[simp] theorem State.modGroup_badCodewords (s : State) (g : Nat) (f : Group → Group) : (s.modGroup g f).badCodewords = s.badCodewords := rfl
@[simp] theorem State.modGroup_corrCodewords (s : State) (g : Nat) (f : Group → Group) : (s.modGroup g f).corrCodewords = s.corrCodewords := rfl
@[simp] theorem State.modGroup_harts (s : State) (g : Nat) (f : Group → Group) : (s.modGroup g f).harts = s.harts := rfl
@[simp] theorem State.modGroup_cores (s : State) (g : Nat) (f : Group → Group) : (s.modGroup g f).cores = s.cores := rfl
@[simp] theorem State.modGroup_clusters (s : State) (g : Nat) (f : Group → Group) : (s.modGroup g f).clusters = s.clusters := rfl
@[simp] theorem State.modGroup_parts (s : State) (g : Nat) (f : Group → Group) : (s.modGroup g f).parts = s.parts := rfl
@[simp] theorem State.modGroup_launches (s : State) (g : Nat) (f : Group → Group) : (s.modGroup g f).launches = s.launches := rfl
@[simp] theorem State.modGroup_nextLaunch (s : State) (g : Nat) (f : Group → Group) : (s.modGroup g f).nextLaunch = s.nextLaunch := rfl
@[simp] theorem State.modGroup_net (s : State) (g : Nat) (f : Group → Group) : (s.modGroup g f).net = s.net := rfl
@[simp] theorem State.modGroup_hostOut (s : State) (g : Nat) (f : Group → Group) : (s.modGroup g f).hostOut = s.hostOut := rfl
@[simp] theorem State.modGroup_hostPend (s : State) (g : Nat) (f : Group → Group) : (s.modGroup g f).hostPend = s.hostPend := rfl
@[simp] theorem State.modGroup_devPend (s : State) (g : Nat) (f : Group → Group) : (s.modGroup g f).devPend = s.devPend := rfl
@[simp] theorem State.modGroup_keys (s : State) (g : Nat) (f : Group → Group) : (s.modGroup g f).keys = s.keys := rfl
@[simp] theorem State.modGroup_rtcfg (s : State) (g : Nat) (f : Group → Group) : (s.modGroup g f).rtcfg = s.rtcfg := rfl
@[simp] theorem State.modGroup_tlpkg (s : State) (g : Nat) (f : Group → Group) : (s.modGroup g f).tlpkg = s.tlpkg := rfl
@[simp] theorem State.modGroup_trained (s : State) (g : Nat) (f : Group → Group) : (s.modGroup g f).trained = s.trained := rfl
@[simp] theorem State.modGroup_links (s : State) (g : Nat) (f : Group → Group) : (s.modGroup g f).links = s.links := rfl
@[simp] theorem State.modGroup_escape (s : State) (g : Nat) (f : Group → Group) : (s.modGroup g f).escape = s.escape := rfl
@[simp] theorem State.modGroup_mcqcfg (s : State) (g : Nat) (f : Group → Group) : (s.modGroup g f).mcqcfg = s.mcqcfg := rfl
@[simp] theorem State.modGroup_mcqmsg (s : State) (g : Nat) (f : Group → Group) : (s.modGroup g f).mcqmsg = s.mcqmsg := rfl
@[simp] theorem State.modGroup_mcqhead (s : State) (g : Nat) (f : Group → Group) : (s.modGroup g f).mcqhead = s.mcqhead := rfl
@[simp] theorem State.modGroup_mcqtail (s : State) (g : Nat) (f : Group → Group) : (s.modGroup g f).mcqtail = s.mcqtail := rfl
@[simp] theorem State.modGroup_mccorr (s : State) (g : Nat) (f : Group → Group) : (s.modGroup g f).mccorr = s.mccorr := rfl
@[simp] theorem State.modGroup_mclost (s : State) (g : Nat) (f : Group → Group) : (s.modGroup g f).mclost = s.mclost := rfl
@[simp] theorem State.modGroup_boot (s : State) (g : Nat) (f : Group → Group) : (s.modGroup g f).boot = s.boot := rfl
@[simp] theorem State.modGroup_power (s : State) (g : Nat) (f : Group → Group) : (s.modGroup g f).power = s.power := rfl
@[simp] theorem State.modGroup_temps (s : State) (g : Nat) (f : Group → Group) : (s.modGroup g f).temps = s.temps := rfl
@[simp] theorem State.modGroup_answers (s : State) (g : Nat) (f : Group → Group) : (s.modGroup g f).answers = s.answers := rfl

@[simp] theorem State.modCluster_turn (s : State) (g : Nat) (f : Cluster → Cluster) : (s.modCluster g f).turn = s.turn := rfl
@[simp] theorem State.modCluster_steps (s : State) (g : Nat) (f : Cluster → Cluster) : (s.modCluster g f).steps = s.steps := rfl
@[simp] theorem State.modCluster_draws (s : State) (g : Nat) (f : Cluster → Cluster) : (s.modCluster g f).draws = s.draws := rfl
@[simp] theorem State.modCluster_cx (s : State) (g : Nat) (f : Cluster → Cluster) : (s.modCluster g f).cx = s.cx := rfl
@[simp] theorem State.modCluster_ev (s : State) (g : Nat) (f : Cluster → Cluster) : (s.modCluster g f).ev = s.ev := rfl
@[simp] theorem State.modCluster_tick (s : State) (g : Nat) (f : Cluster → Cluster) : (s.modCluster g f).tick = s.tick := rfl
@[simp] theorem State.modCluster_pkgnum (s : State) (g : Nat) (f : Cluster → Cluster) : (s.modCluster g f).pkgnum = s.pkgnum := rfl
@[simp] theorem State.modCluster_mem (s : State) (g : Nat) (f : Cluster → Cluster) : (s.modCluster g f).mem = s.mem := rfl
@[simp] theorem State.modCluster_encUnits (s : State) (g : Nat) (f : Cluster → Cluster) : (s.modCluster g f).encUnits = s.encUnits := rfl
@[simp] theorem State.modCluster_badCodewords (s : State) (g : Nat) (f : Cluster → Cluster) : (s.modCluster g f).badCodewords = s.badCodewords := rfl
@[simp] theorem State.modCluster_corrCodewords (s : State) (g : Nat) (f : Cluster → Cluster) : (s.modCluster g f).corrCodewords = s.corrCodewords := rfl
@[simp] theorem State.modCluster_harts (s : State) (g : Nat) (f : Cluster → Cluster) : (s.modCluster g f).harts = s.harts := rfl
@[simp] theorem State.modCluster_cores (s : State) (g : Nat) (f : Cluster → Cluster) : (s.modCluster g f).cores = s.cores := rfl
@[simp] theorem State.modCluster_groups (s : State) (g : Nat) (f : Cluster → Cluster) : (s.modCluster g f).groups = s.groups := rfl
@[simp] theorem State.modCluster_parts (s : State) (g : Nat) (f : Cluster → Cluster) : (s.modCluster g f).parts = s.parts := rfl
@[simp] theorem State.modCluster_launches (s : State) (g : Nat) (f : Cluster → Cluster) : (s.modCluster g f).launches = s.launches := rfl
@[simp] theorem State.modCluster_nextLaunch (s : State) (g : Nat) (f : Cluster → Cluster) : (s.modCluster g f).nextLaunch = s.nextLaunch := rfl
@[simp] theorem State.modCluster_net (s : State) (g : Nat) (f : Cluster → Cluster) : (s.modCluster g f).net = s.net := rfl
@[simp] theorem State.modCluster_hostOut (s : State) (g : Nat) (f : Cluster → Cluster) : (s.modCluster g f).hostOut = s.hostOut := rfl
@[simp] theorem State.modCluster_hostPend (s : State) (g : Nat) (f : Cluster → Cluster) : (s.modCluster g f).hostPend = s.hostPend := rfl
@[simp] theorem State.modCluster_devPend (s : State) (g : Nat) (f : Cluster → Cluster) : (s.modCluster g f).devPend = s.devPend := rfl
@[simp] theorem State.modCluster_keys (s : State) (g : Nat) (f : Cluster → Cluster) : (s.modCluster g f).keys = s.keys := rfl
@[simp] theorem State.modCluster_rtcfg (s : State) (g : Nat) (f : Cluster → Cluster) : (s.modCluster g f).rtcfg = s.rtcfg := rfl
@[simp] theorem State.modCluster_tlpkg (s : State) (g : Nat) (f : Cluster → Cluster) : (s.modCluster g f).tlpkg = s.tlpkg := rfl
@[simp] theorem State.modCluster_trained (s : State) (g : Nat) (f : Cluster → Cluster) : (s.modCluster g f).trained = s.trained := rfl
@[simp] theorem State.modCluster_links (s : State) (g : Nat) (f : Cluster → Cluster) : (s.modCluster g f).links = s.links := rfl
@[simp] theorem State.modCluster_escape (s : State) (g : Nat) (f : Cluster → Cluster) : (s.modCluster g f).escape = s.escape := rfl
@[simp] theorem State.modCluster_mcqcfg (s : State) (g : Nat) (f : Cluster → Cluster) : (s.modCluster g f).mcqcfg = s.mcqcfg := rfl
@[simp] theorem State.modCluster_mcqmsg (s : State) (g : Nat) (f : Cluster → Cluster) : (s.modCluster g f).mcqmsg = s.mcqmsg := rfl
@[simp] theorem State.modCluster_mcqhead (s : State) (g : Nat) (f : Cluster → Cluster) : (s.modCluster g f).mcqhead = s.mcqhead := rfl
@[simp] theorem State.modCluster_mcqtail (s : State) (g : Nat) (f : Cluster → Cluster) : (s.modCluster g f).mcqtail = s.mcqtail := rfl
@[simp] theorem State.modCluster_mccorr (s : State) (g : Nat) (f : Cluster → Cluster) : (s.modCluster g f).mccorr = s.mccorr := rfl
@[simp] theorem State.modCluster_mclost (s : State) (g : Nat) (f : Cluster → Cluster) : (s.modCluster g f).mclost = s.mclost := rfl
@[simp] theorem State.modCluster_boot (s : State) (g : Nat) (f : Cluster → Cluster) : (s.modCluster g f).boot = s.boot := rfl
@[simp] theorem State.modCluster_power (s : State) (g : Nat) (f : Cluster → Cluster) : (s.modCluster g f).power = s.power := rfl
@[simp] theorem State.modCluster_temps (s : State) (g : Nat) (f : Cluster → Cluster) : (s.modCluster g f).temps = s.temps := rfl
@[simp] theorem State.modCluster_answers (s : State) (g : Nat) (f : Cluster → Cluster) : (s.modCluster g f).answers = s.answers := rfl

@[simp] theorem State.modPart_turn (s : State) (p : Nat) (f : Part → Part) : (s.modPart p f).turn = s.turn := rfl
@[simp] theorem State.modPart_steps (s : State) (p : Nat) (f : Part → Part) : (s.modPart p f).steps = s.steps := rfl
@[simp] theorem State.modPart_draws (s : State) (p : Nat) (f : Part → Part) : (s.modPart p f).draws = s.draws := rfl
@[simp] theorem State.modPart_cx (s : State) (p : Nat) (f : Part → Part) : (s.modPart p f).cx = s.cx := rfl
@[simp] theorem State.modPart_ev (s : State) (p : Nat) (f : Part → Part) : (s.modPart p f).ev = s.ev := rfl
@[simp] theorem State.modPart_tick (s : State) (p : Nat) (f : Part → Part) : (s.modPart p f).tick = s.tick := rfl
@[simp] theorem State.modPart_pkgnum (s : State) (p : Nat) (f : Part → Part) : (s.modPart p f).pkgnum = s.pkgnum := rfl
@[simp] theorem State.modPart_mem (s : State) (p : Nat) (f : Part → Part) : (s.modPart p f).mem = s.mem := rfl
@[simp] theorem State.modPart_encUnits (s : State) (p : Nat) (f : Part → Part) : (s.modPart p f).encUnits = s.encUnits := rfl
@[simp] theorem State.modPart_badCodewords (s : State) (p : Nat) (f : Part → Part) : (s.modPart p f).badCodewords = s.badCodewords := rfl
@[simp] theorem State.modPart_corrCodewords (s : State) (p : Nat) (f : Part → Part) : (s.modPart p f).corrCodewords = s.corrCodewords := rfl
@[simp] theorem State.modPart_harts (s : State) (p : Nat) (f : Part → Part) : (s.modPart p f).harts = s.harts := rfl
@[simp] theorem State.modPart_cores (s : State) (p : Nat) (f : Part → Part) : (s.modPart p f).cores = s.cores := rfl
@[simp] theorem State.modPart_groups (s : State) (p : Nat) (f : Part → Part) : (s.modPart p f).groups = s.groups := rfl
@[simp] theorem State.modPart_clusters (s : State) (p : Nat) (f : Part → Part) : (s.modPart p f).clusters = s.clusters := rfl
@[simp] theorem State.modPart_launches (s : State) (p : Nat) (f : Part → Part) : (s.modPart p f).launches = s.launches := rfl
@[simp] theorem State.modPart_nextLaunch (s : State) (p : Nat) (f : Part → Part) : (s.modPart p f).nextLaunch = s.nextLaunch := rfl
@[simp] theorem State.modPart_net (s : State) (p : Nat) (f : Part → Part) : (s.modPart p f).net = s.net := rfl
@[simp] theorem State.modPart_hostOut (s : State) (p : Nat) (f : Part → Part) : (s.modPart p f).hostOut = s.hostOut := rfl
@[simp] theorem State.modPart_hostPend (s : State) (p : Nat) (f : Part → Part) : (s.modPart p f).hostPend = s.hostPend := rfl
@[simp] theorem State.modPart_devPend (s : State) (p : Nat) (f : Part → Part) : (s.modPart p f).devPend = s.devPend := rfl
@[simp] theorem State.modPart_keys (s : State) (p : Nat) (f : Part → Part) : (s.modPart p f).keys = s.keys := rfl
@[simp] theorem State.modPart_rtcfg (s : State) (p : Nat) (f : Part → Part) : (s.modPart p f).rtcfg = s.rtcfg := rfl
@[simp] theorem State.modPart_tlpkg (s : State) (p : Nat) (f : Part → Part) : (s.modPart p f).tlpkg = s.tlpkg := rfl
@[simp] theorem State.modPart_trained (s : State) (p : Nat) (f : Part → Part) : (s.modPart p f).trained = s.trained := rfl
@[simp] theorem State.modPart_links (s : State) (p : Nat) (f : Part → Part) : (s.modPart p f).links = s.links := rfl
@[simp] theorem State.modPart_escape (s : State) (p : Nat) (f : Part → Part) : (s.modPart p f).escape = s.escape := rfl
@[simp] theorem State.modPart_mcqcfg (s : State) (p : Nat) (f : Part → Part) : (s.modPart p f).mcqcfg = s.mcqcfg := rfl
@[simp] theorem State.modPart_mcqmsg (s : State) (p : Nat) (f : Part → Part) : (s.modPart p f).mcqmsg = s.mcqmsg := rfl
@[simp] theorem State.modPart_mcqhead (s : State) (p : Nat) (f : Part → Part) : (s.modPart p f).mcqhead = s.mcqhead := rfl
@[simp] theorem State.modPart_mcqtail (s : State) (p : Nat) (f : Part → Part) : (s.modPart p f).mcqtail = s.mcqtail := rfl
@[simp] theorem State.modPart_mccorr (s : State) (p : Nat) (f : Part → Part) : (s.modPart p f).mccorr = s.mccorr := rfl
@[simp] theorem State.modPart_mclost (s : State) (p : Nat) (f : Part → Part) : (s.modPart p f).mclost = s.mclost := rfl
@[simp] theorem State.modPart_boot (s : State) (p : Nat) (f : Part → Part) : (s.modPart p f).boot = s.boot := rfl
@[simp] theorem State.modPart_power (s : State) (p : Nat) (f : Part → Part) : (s.modPart p f).power = s.power := rfl
@[simp] theorem State.modPart_temps (s : State) (p : Nat) (f : Part → Part) : (s.modPart p f).temps = s.temps := rfl
@[simp] theorem State.modPart_answers (s : State) (p : Nat) (f : Part → Part) : (s.modPart p f).answers = s.answers := rfl

@[simp] theorem State.modLaunch_turn (s : State) (l : Nat) (f : Launch → Launch) : (s.modLaunch l f).turn = s.turn := rfl
@[simp] theorem State.modLaunch_steps (s : State) (l : Nat) (f : Launch → Launch) : (s.modLaunch l f).steps = s.steps := rfl
@[simp] theorem State.modLaunch_draws (s : State) (l : Nat) (f : Launch → Launch) : (s.modLaunch l f).draws = s.draws := rfl
@[simp] theorem State.modLaunch_cx (s : State) (l : Nat) (f : Launch → Launch) : (s.modLaunch l f).cx = s.cx := rfl
@[simp] theorem State.modLaunch_ev (s : State) (l : Nat) (f : Launch → Launch) : (s.modLaunch l f).ev = s.ev := rfl
@[simp] theorem State.modLaunch_tick (s : State) (l : Nat) (f : Launch → Launch) : (s.modLaunch l f).tick = s.tick := rfl
@[simp] theorem State.modLaunch_pkgnum (s : State) (l : Nat) (f : Launch → Launch) : (s.modLaunch l f).pkgnum = s.pkgnum := rfl
@[simp] theorem State.modLaunch_mem (s : State) (l : Nat) (f : Launch → Launch) : (s.modLaunch l f).mem = s.mem := rfl
@[simp] theorem State.modLaunch_encUnits (s : State) (l : Nat) (f : Launch → Launch) : (s.modLaunch l f).encUnits = s.encUnits := rfl
@[simp] theorem State.modLaunch_badCodewords (s : State) (l : Nat) (f : Launch → Launch) : (s.modLaunch l f).badCodewords = s.badCodewords := rfl
@[simp] theorem State.modLaunch_corrCodewords (s : State) (l : Nat) (f : Launch → Launch) : (s.modLaunch l f).corrCodewords = s.corrCodewords := rfl
@[simp] theorem State.modLaunch_harts (s : State) (l : Nat) (f : Launch → Launch) : (s.modLaunch l f).harts = s.harts := rfl
@[simp] theorem State.modLaunch_cores (s : State) (l : Nat) (f : Launch → Launch) : (s.modLaunch l f).cores = s.cores := rfl
@[simp] theorem State.modLaunch_groups (s : State) (l : Nat) (f : Launch → Launch) : (s.modLaunch l f).groups = s.groups := rfl
@[simp] theorem State.modLaunch_clusters (s : State) (l : Nat) (f : Launch → Launch) : (s.modLaunch l f).clusters = s.clusters := rfl
@[simp] theorem State.modLaunch_parts (s : State) (l : Nat) (f : Launch → Launch) : (s.modLaunch l f).parts = s.parts := rfl
@[simp] theorem State.modLaunch_nextLaunch (s : State) (l : Nat) (f : Launch → Launch) : (s.modLaunch l f).nextLaunch = s.nextLaunch := rfl
@[simp] theorem State.modLaunch_net (s : State) (l : Nat) (f : Launch → Launch) : (s.modLaunch l f).net = s.net := rfl
@[simp] theorem State.modLaunch_hostOut (s : State) (l : Nat) (f : Launch → Launch) : (s.modLaunch l f).hostOut = s.hostOut := rfl
@[simp] theorem State.modLaunch_hostPend (s : State) (l : Nat) (f : Launch → Launch) : (s.modLaunch l f).hostPend = s.hostPend := rfl
@[simp] theorem State.modLaunch_devPend (s : State) (l : Nat) (f : Launch → Launch) : (s.modLaunch l f).devPend = s.devPend := rfl
@[simp] theorem State.modLaunch_keys (s : State) (l : Nat) (f : Launch → Launch) : (s.modLaunch l f).keys = s.keys := rfl
@[simp] theorem State.modLaunch_rtcfg (s : State) (l : Nat) (f : Launch → Launch) : (s.modLaunch l f).rtcfg = s.rtcfg := rfl
@[simp] theorem State.modLaunch_tlpkg (s : State) (l : Nat) (f : Launch → Launch) : (s.modLaunch l f).tlpkg = s.tlpkg := rfl
@[simp] theorem State.modLaunch_trained (s : State) (l : Nat) (f : Launch → Launch) : (s.modLaunch l f).trained = s.trained := rfl
@[simp] theorem State.modLaunch_links (s : State) (l : Nat) (f : Launch → Launch) : (s.modLaunch l f).links = s.links := rfl
@[simp] theorem State.modLaunch_escape (s : State) (l : Nat) (f : Launch → Launch) : (s.modLaunch l f).escape = s.escape := rfl
@[simp] theorem State.modLaunch_mcqcfg (s : State) (l : Nat) (f : Launch → Launch) : (s.modLaunch l f).mcqcfg = s.mcqcfg := rfl
@[simp] theorem State.modLaunch_mcqmsg (s : State) (l : Nat) (f : Launch → Launch) : (s.modLaunch l f).mcqmsg = s.mcqmsg := rfl
@[simp] theorem State.modLaunch_mcqhead (s : State) (l : Nat) (f : Launch → Launch) : (s.modLaunch l f).mcqhead = s.mcqhead := rfl
@[simp] theorem State.modLaunch_mcqtail (s : State) (l : Nat) (f : Launch → Launch) : (s.modLaunch l f).mcqtail = s.mcqtail := rfl
@[simp] theorem State.modLaunch_mccorr (s : State) (l : Nat) (f : Launch → Launch) : (s.modLaunch l f).mccorr = s.mccorr := rfl
@[simp] theorem State.modLaunch_mclost (s : State) (l : Nat) (f : Launch → Launch) : (s.modLaunch l f).mclost = s.mclost := rfl
@[simp] theorem State.modLaunch_boot (s : State) (l : Nat) (f : Launch → Launch) : (s.modLaunch l f).boot = s.boot := rfl
@[simp] theorem State.modLaunch_power (s : State) (l : Nat) (f : Launch → Launch) : (s.modLaunch l f).power = s.power := rfl
@[simp] theorem State.modLaunch_temps (s : State) (l : Nat) (f : Launch → Launch) : (s.modLaunch l f).temps = s.temps := rfl
@[simp] theorem State.modLaunch_answers (s : State) (l : Nat) (f : Launch → Launch) : (s.modLaunch l f).answers = s.answers := rfl

@[simp] theorem State.core_setHart (s : State) (h : Nat) (x : Hart) (k : Nat) : (s.setHart h x).core k = s.core k := rfl
@[simp] theorem State.group_setHart (s : State) (h : Nat) (x : Hart) (k : Nat) : (s.setHart h x).group k = s.group k := rfl
@[simp] theorem State.cluster_setHart (s : State) (h : Nat) (x : Hart) (k : Nat) : (s.setHart h x).cluster k = s.cluster k := rfl
@[simp] theorem State.part_setHart (s : State) (h : Nat) (x : Hart) (k : Nat) : (s.setHart h x).part k = s.part k := rfl
@[simp] theorem State.launch_setHart (s : State) (h : Nat) (x : Hart) (k : Nat) : (s.setHart h x).launch k = s.launch k := rfl
@[simp] theorem State.core_modHart (s : State) (h : Nat) (f : Hart → Hart) (k : Nat) : (s.modHart h f).core k = s.core k := rfl
@[simp] theorem State.group_modHart (s : State) (h : Nat) (f : Hart → Hart) (k : Nat) : (s.modHart h f).group k = s.group k := rfl
@[simp] theorem State.cluster_modHart (s : State) (h : Nat) (f : Hart → Hart) (k : Nat) : (s.modHart h f).cluster k = s.cluster k := rfl
@[simp] theorem State.part_modHart (s : State) (h : Nat) (f : Hart → Hart) (k : Nat) : (s.modHart h f).part k = s.part k := rfl
@[simp] theorem State.launch_modHart (s : State) (h : Nat) (f : Hart → Hart) (k : Nat) : (s.modHart h f).launch k = s.launch k := rfl
@[simp] theorem State.core_modMe (s : State) (f : Hart → Hart) (k : Nat) : (s.modMe f).core k = s.core k := rfl
@[simp] theorem State.group_modMe (s : State) (f : Hart → Hart) (k : Nat) : (s.modMe f).group k = s.group k := rfl
@[simp] theorem State.cluster_modMe (s : State) (f : Hart → Hart) (k : Nat) : (s.modMe f).cluster k = s.cluster k := rfl
@[simp] theorem State.part_modMe (s : State) (f : Hart → Hart) (k : Nat) : (s.modMe f).part k = s.part k := rfl
@[simp] theorem State.launch_modMe (s : State) (f : Hart → Hart) (k : Nat) : (s.modMe f).launch k = s.launch k := rfl
@[simp] theorem State.hart_modCore (s : State) (c : Nat) (f : Core → Core) (k : Nat) : (s.modCore c f).hart k = s.hart k := rfl
@[simp] theorem State.group_modCore (s : State) (c : Nat) (f : Core → Core) (k : Nat) : (s.modCore c f).group k = s.group k := rfl
@[simp] theorem State.cluster_modCore (s : State) (c : Nat) (f : Core → Core) (k : Nat) : (s.modCore c f).cluster k = s.cluster k := rfl
@[simp] theorem State.part_modCore (s : State) (c : Nat) (f : Core → Core) (k : Nat) : (s.modCore c f).part k = s.part k := rfl
@[simp] theorem State.launch_modCore (s : State) (c : Nat) (f : Core → Core) (k : Nat) : (s.modCore c f).launch k = s.launch k := rfl
@[simp] theorem State.hart_modGroup (s : State) (g : Nat) (f : Group → Group) (k : Nat) : (s.modGroup g f).hart k = s.hart k := rfl
@[simp] theorem State.core_modGroup (s : State) (g : Nat) (f : Group → Group) (k : Nat) : (s.modGroup g f).core k = s.core k := rfl
@[simp] theorem State.cluster_modGroup (s : State) (g : Nat) (f : Group → Group) (k : Nat) : (s.modGroup g f).cluster k = s.cluster k := rfl
@[simp] theorem State.part_modGroup (s : State) (g : Nat) (f : Group → Group) (k : Nat) : (s.modGroup g f).part k = s.part k := rfl
@[simp] theorem State.launch_modGroup (s : State) (g : Nat) (f : Group → Group) (k : Nat) : (s.modGroup g f).launch k = s.launch k := rfl
@[simp] theorem State.hart_modCluster (s : State) (g : Nat) (f : Cluster → Cluster) (k : Nat) : (s.modCluster g f).hart k = s.hart k := rfl
@[simp] theorem State.core_modCluster (s : State) (g : Nat) (f : Cluster → Cluster) (k : Nat) : (s.modCluster g f).core k = s.core k := rfl
@[simp] theorem State.group_modCluster (s : State) (g : Nat) (f : Cluster → Cluster) (k : Nat) : (s.modCluster g f).group k = s.group k := rfl
@[simp] theorem State.part_modCluster (s : State) (g : Nat) (f : Cluster → Cluster) (k : Nat) : (s.modCluster g f).part k = s.part k := rfl
@[simp] theorem State.launch_modCluster (s : State) (g : Nat) (f : Cluster → Cluster) (k : Nat) : (s.modCluster g f).launch k = s.launch k := rfl
@[simp] theorem State.hart_modPart (s : State) (p : Nat) (f : Part → Part) (k : Nat) : (s.modPart p f).hart k = s.hart k := rfl
@[simp] theorem State.core_modPart (s : State) (p : Nat) (f : Part → Part) (k : Nat) : (s.modPart p f).core k = s.core k := rfl
@[simp] theorem State.group_modPart (s : State) (p : Nat) (f : Part → Part) (k : Nat) : (s.modPart p f).group k = s.group k := rfl
@[simp] theorem State.cluster_modPart (s : State) (p : Nat) (f : Part → Part) (k : Nat) : (s.modPart p f).cluster k = s.cluster k := rfl
@[simp] theorem State.launch_modPart (s : State) (p : Nat) (f : Part → Part) (k : Nat) : (s.modPart p f).launch k = s.launch k := rfl
@[simp] theorem State.hart_modLaunch (s : State) (l : Nat) (f : Launch → Launch) (k : Nat) : (s.modLaunch l f).hart k = s.hart k := rfl
@[simp] theorem State.core_modLaunch (s : State) (l : Nat) (f : Launch → Launch) (k : Nat) : (s.modLaunch l f).core k = s.core k := rfl
@[simp] theorem State.group_modLaunch (s : State) (l : Nat) (f : Launch → Launch) (k : Nat) : (s.modLaunch l f).group k = s.group k := rfl
@[simp] theorem State.cluster_modLaunch (s : State) (l : Nat) (f : Launch → Launch) (k : Nat) : (s.modLaunch l f).cluster k = s.cluster k := rfl
@[simp] theorem State.part_modLaunch (s : State) (l : Nat) (f : Launch → Launch) (k : Nat) : (s.modLaunch l f).part k = s.part k := rfl

end Sys2Proof.Machine
end

