-- ==== Sys2Proof/Laws/Table.lean ====
section
/-! SUPPORT. Tables: what is read after an entry is put, and two puts of one entry; the same for the parts of State. -/

namespace Sys2Proof.Machine

variable {α : Type}

@[simp] theorem Tab.find?_put_self (t : Tab α) (i : Nat) (v : α) : Tab.find? (Tab.put t i v) i = some v := by
  fun_induction Tab.put t i v <;> grind [Tab.find?]

theorem Tab.find?_put_ne (t : Tab α) {i j : Nat} (v : α) (h : j ≠ i) : Tab.find? (Tab.put t i v) j = Tab.find? t j := by
  fun_induction Tab.put t i v <;> grind [Tab.find?]

@[simp] theorem Tab.get_put_self (d : α) (t : Tab α) (i : Nat) (v : α) : Tab.get d (Tab.put t i v) i = v := by
  simp [Tab.get]

theorem Tab.get_put_ne (d : α) (t : Tab α) {i j : Nat} (v : α) (h : j ≠ i) : Tab.get d (Tab.put t i v) j = Tab.get d t j := by
  simp [Tab.get, Tab.find?_put_ne t v h]

theorem Tab.get_put (d : α) (t : Tab α) (i j : Nat) (v : α) :
    Tab.get d (Tab.put t i v) j = if j = i then v else Tab.get d t j := by
  split
  · next e => rw [e, Tab.get_put_self]
  · next e => exact Tab.get_put_ne d t v e

@[simp] theorem Tab.put_put (t : Tab α) (i : Nat) (v w : α) : Tab.put (Tab.put t i v) i w = Tab.put t i w := by
  fun_induction Tab.put t i v <;> grind [Tab.put]

/-- Two puts of different entries commute. -/
theorem Tab.put_comm (t : Tab α) {i j : Nat} (v w : α) (h : i ≠ j) :
    Tab.put (Tab.put t i v) j w = Tab.put (Tab.put t j w) i v := by
  fun_induction Tab.put t i v <;> grind [Tab.put]

/-- A test of every entry does not see a put that it cannot tell from the entry that was there; one that was not there passes. -/
theorem Tab.all_put (d : α) (P : Nat × α → Bool) (t : Tab α) (i : Nat) (v : α) (e : P (i, v) = P (i, Tab.get d t i))
    (z : Tab.find? t i = none → P (i, v) = true) : (Tab.put t i v).all P = t.all P := by
  induction t with
  | nil => simp [Tab.put, z rfl]
  | cons x t ih =>
    obtain ⟨k, w⟩ := x
    by_cases h : k = i
    · subst h
      have g : P (k, v) = P (k, w) := by simpa [Tab.get, Tab.find?] using e
      simp [Tab.put, g]
    · have f : Tab.find? ((k, w) :: t) i = Tab.find? t i := by simp [Tab.find?, h]
      have e' : P (i, v) = P (i, Tab.get d t i) := by simpa [Tab.get, f] using e
      rw [f] at z
      by_cases l : i < k
      · simp only [Tab.put, beq_iff_eq, h, l, if_true, if_false, List.all_cons]
        cases p : P (i, v)
        · have : t.all P = false := by
            have m : ∃ w, Tab.find? t i = some w := by
              cases q : Tab.find? t i with
              | none => rw [z q] at p; cases p
              | some w => exact ⟨w, rfl⟩
            obtain ⟨w', q⟩ := m
            have r : P (i, w') = false := by simpa [Tab.get, q, p] using e'.symm
            clear z e' ih f e p
            induction t with
            | nil => simp [Tab.find?] at q
            | cons y t ih =>
              obtain ⟨j, u⟩ := y
              by_cases hj : j = i
              · subst hj
                have : u = w' := by simpa [Tab.find?] using q
                subst this
                simp [r]
              · simp only [List.all_cons, ih (by simpa [Tab.find?, hj] using q), Bool.and_false]
          simp [this]
        · simp
      · simp only [Tab.put, beq_iff_eq, h, l, if_false, List.all_cons, ih e' z]

theorem Tab.any_put (d : α) (P : Nat × α → Bool) (t : Tab α) (i : Nat) (v : α) (e : P (i, v) = P (i, Tab.get d t i))
    (z : Tab.find? t i = none → P (i, v) = false) : (Tab.put t i v).any P = t.any P := by
  have h := Tab.all_put d (fun x => !P x) t i v (by simp [e]) (fun n => by simp [z n])
  simpa [List.all_eq_not_any_not] using h

/-! ## Parts of State -/

@[simp] theorem State.hart_setHart_self (s : State) (h : Nat) (x : Hart) : (s.setHart h x).hart h = x := by
  simp [State.hart, State.setHart]
theorem State.hart_setHart_ne (s : State) {h k : Nat} (x : Hart) (e : k ≠ h) : (s.setHart h x).hart k = s.hart k := by
  simp [State.hart, State.setHart, Tab.get_put_ne _ _ _ e]
@[simp] theorem State.hart_modHart_self (s : State) (h : Nat) (f : Hart → Hart) : (s.modHart h f).hart h = f (s.hart h) := by
  simp [State.modHart]
theorem State.hart_modHart_ne (s : State) {h k : Nat} (f : Hart → Hart) (e : k ≠ h) :
    (s.modHart h f).hart k = s.hart k := State.hart_setHart_ne s _ e
@[simp] theorem State.me_modMe (s : State) (f : Hart → Hart) : (s.modMe f).me = f s.me := by
  simp [State.me, State.modMe]
@[simp] theorem State.hart_modMe_self (s : State) (f : Hart → Hart) : (s.modMe f).hart s.cx.hart = f (s.hart s.cx.hart) := by
  simp [State.modMe]
@[simp] theorem State.setHart_setHart (s : State) (h : Nat) (x y : Hart) : (s.setHart h x).setHart h y = s.setHart h y := by
  simp [State.setHart]
@[simp] theorem State.modHart_setHart (s : State) (h : Nat) (x : Hart) (f : Hart → Hart) :
    (s.setHart h x).modHart h f = s.setHart h (f x) := by
  simp [State.modHart]
@[simp] theorem State.setHart_modHart (s : State) (h : Nat) (f : Hart → Hart) (x : Hart) :
    (s.modHart h f).setHart h x = s.setHart h x := by
  simp [State.modHart]
theorem State.modHart_modHart (s : State) (h : Nat) (f g : Hart → Hart) :
    (s.modHart h f).modHart h g = s.modHart h fun x => g (f x) := by
  simp [State.modHart]
@[simp] theorem State.core_modCore_self (s : State) (c : Nat) (f : Core → Core) : (s.modCore c f).core c = f (s.core c) := by
  simp [State.core, State.modCore]
theorem State.core_modCore_ne (s : State) {c k : Nat} (f : Core → Core) (e : k ≠ c) : (s.modCore c f).core k = s.core k := by
  simp [State.core, State.modCore, Tab.get_put_ne _ _ _ e]
@[simp] theorem State.group_modGroup_self (s : State) (g : Nat) (f : Group → Group) :
    (s.modGroup g f).group g = f (s.group g) := by
  simp [State.group, State.modGroup]
theorem State.group_modGroup_ne (s : State) {g k : Nat} (f : Group → Group) (e : k ≠ g) :
    (s.modGroup g f).group k = s.group k := by
  simp [State.group, State.modGroup, Tab.get_put_ne _ _ _ e]
@[simp] theorem State.cluster_modCluster_self (s : State) (g : Nat) (f : Cluster → Cluster) :
    (s.modCluster g f).cluster g = f (s.cluster g) := by
  simp [State.cluster, State.modCluster]
theorem State.cluster_modCluster_ne (s : State) {g k : Nat} (f : Cluster → Cluster) (e : k ≠ g) :
    (s.modCluster g f).cluster k = s.cluster k := by
  simp [State.cluster, State.modCluster, Tab.get_put_ne _ _ _ e]
@[simp] theorem State.part_modPart_self (s : State) (p : Nat) (f : Part → Part) : (s.modPart p f).part p = f (s.part p) := by
  simp [State.part, State.modPart]
theorem State.part_modPart_ne (s : State) {p k : Nat} (f : Part → Part) (e : k ≠ p) : (s.modPart p f).part k = s.part k := by
  simp [State.part, State.modPart, Tab.get_put_ne _ _ _ e]
@[simp] theorem State.launch_modLaunch_self (s : State) (l : Nat) (f : Launch → Launch) :
    (s.modLaunch l f).launch l = f (s.launch l) := by
  simp [State.launch, State.modLaunch]
theorem State.launch_modLaunch_ne (s : State) {l k : Nat} (f : Launch → Launch) (e : k ≠ l) :
    (s.modLaunch l f).launch k = s.launch k := by
  simp [State.launch, State.modLaunch, Tab.get_put_ne _ _ _ e]

end Sys2Proof.Machine
end

