-- ==== Sys2Proof/Laws/Span.lean ====
section
/-! SUPPORT. What a chain that ends by `finish` leaves (R178 to R180): one law for every instruction that only adds
deferred or forwarded results. -/

namespace Sys2Proof.Machine

/-- An update of the fields of a hart that issue keeps. -/
def Hart.ctl (p : Word → Word) (g : Span → Span) (o : Option Hold → Option Hold) (w : Nat → Nat)
    (q : List Done → List Done) (a b : Bool → Bool) (x : Hart) : Hart :=
  { x with pc := p x.pc, span := g x.span, hold := o x.hold, waited := w x.waited, done := q x.done, todo := q x.todo,
           freshA := a x.freshA, freshB := b x.freshB }

theorem State.modHart_swap (s : State) {h k : Nat} (f g : Hart → Hart) (e : h ≠ k) :
    (s.modHart h f).modHart k g = (s.modHart k g).modHart h f := by
  unfold State.modHart
  rw [State.hart_setHart_ne _ _ e.symm, State.hart_setHart_ne _ _ e]
  simp only [State.setHart]
  rw [Tab.put_comm _ _ _ e]

theorem State.setOctReg_modHart (s : State) (h c o i : Nat) (v : VWord) (f : Hart → Hart) :
    (s.modHart h f).setOctReg c o i v = (s.setOctReg c o i v).modHart h f := rfl

/-- Deferred writes do not meet the fields that issue keeps. -/
theorem State.land_ctl (s : State) (h : Nat) (p g o w q a b) (d : Pend) :
    State.land h (s.modHart h (Hart.ctl p g o w q a b)) d = (State.land h s d).modHart h (Hart.ctl p g o w q a b) := by
  cases d with
  | scalar r v => simp only [State.land, State.modHart_modHart]; rfl
  | vec r v =>
    simp only [State.land, State.setVec]
    split
    · simp only [State.modHart_modHart]; rfl
    · simp only [State.hart_modHart_self, Hart.ctl]
      split
      · rfl
      · rfl
  | mask r v => simp only [State.land, State.modHart_modHart]; rfl
  | flags f => simp only [State.land, State.modHart_modHart]; rfl
  | push n e => simp only [State.land, State.modHart_modHart]; rfl
  | wait k => rfl

theorem State.lands_ctl (s : State) (h : Nat) (p g o w q a b) (ds : List Pend) :
    ds.foldl (State.land h) (s.modHart h (Hart.ctl p g o w q a b)) =
      (ds.foldl (State.land h) s).modHart h (Hart.ctl p g o w q a b) := by
  induction ds generalizing s with
  | nil => rfl
  | cons d ds ih => simp only [List.foldl_cons, State.land_ctl, ih]

@[simp] theorem State.cx_modHart (s : State) (h : Nat) (f : Hart → Hart) : (s.modHart h f).cx = s.cx := rfl

@[simp] theorem State.land_cx (s : State) (h : Nat) (d : Pend) : (State.land h s d).cx = s.cx := by
  cases d with
  | vec r v =>
    simp only [State.land, State.setVec]
    split
    · rfl
    · split <;> rfl
  | _ => rfl

@[simp] theorem State.lands_cx (s : State) (h : Nat) (ds : List Pend) : (ds.foldl (State.land h) s).cx = s.cx := by
  induction ds generalizing s with
  | nil => rfl
  | cons d ds ih => simp [List.foldl_cons, ih]

@[simp] theorem State.commit_cx (s : State) (h : Nat) : (s.commit h).cx = s.cx := by simp [State.commit]

/-- A span with the given pending writes, after an update of issue fields, settles as before with that update. -/
theorem State.commit_ctl (s : State) (h : Nat) (p : Word → Word) (o : Option Hold → Option Hold) (w : Nat → Nat)
    (q : List Done → List Done) (g : Span → Span) (ps : List Pend) (a b : Bool → Bool)
    (e : (g (s.hart h).span).pend = (s.hart h).span.pend ++ ps) :
    (s.modHart h (Hart.ctl p g o w q a b)).commit h =
      (ps.foldl (State.land h) (s.commit h)).modHart h
        (Hart.ctl p (fun _ => {}) o w q (fun _ => false) (fun _ => false)) := by
  have k : (fun x : Hart => { x with span := {}, freshA := false, freshB := false }) =
      Hart.ctl id (fun _ => {}) id id id (fun _ => false) (fun _ => false) := rfl
  have k1 : ((s.modHart h (Hart.ctl p g o w q a b)).hart h).span.pend = (s.hart h).span.pend ++ ps := by
    rw [State.hart_modHart_self]; exact e
  unfold State.commit
  simp only [k1, k, List.foldl_append, State.lands_ctl, State.modHart_modHart]
  rfl

theorem State.commit_commit (s : State) (h : Nat) : (s.commit h).commit h = s.commit h := by
  have k : ((s.commit h).hart h).span.pend = [] := by simp [State.commit]
  conv => lhs; rw [State.commit]
  simp only [k, List.foldl_nil]
  simp only [State.commit, State.modHart_modHart]

/-- A hart whose span is over is as after a commit. -/
theorem State.commit_reset (s : State) (h : Nat) : s.commit h =
    (s.commit h).modHart h (Hart.ctl id (fun _ => {}) id id id (fun _ => false) (fun _ => false)) := by
  have k : ((s.commit h).hart h).span.pend = [] := by simp [State.commit]
  conv => lhs; rw [← State.commit_commit, State.commit]
  simp only [k, List.foldl_nil]
  rfl

/-- The chain of a hart issued: once the deferred writes are in place, the pc has passed it and nothing else differs. -/
theorem State.retire_commit (s : State) (h len : Nat) (mk : Bool) :
    (s.retire h len mk).commit h = (s.commit h).modHart h fun x => x.past len := by
  have key : ∀ g : Span → Span, (g (s.hart h).span).pend = (s.hart h).span.pend →
      (s.modHart h (Hart.ctl (· + w64 (2 * len)) g (fun _ => none) (fun _ => 0) (fun _ => []) id id)).commit h =
        (s.commit h).modHart h fun x => x.past len := by
    intro g e
    rw [State.commit_ctl s h _ _ _ _ g [] id id (by simpa using e), State.commit_reset]
    simp only [State.modHart_modHart, List.foldl_nil]
    rfl
  unfold State.retire
  simp only [State.modHart_modHart]
  generalize (s.hart h).span.count + 1 = n
  split
  · split
    · exact key (fun p => { p with count := n, ended := true }) rfl
    · rw [State.commit_commit]
      exact key (fun p => { p with count := n }) rfl
  · exact key (fun p => { p with count := n }) rfl

/-- Results added to the span of a hart take their place after the earlier ones. -/
theorem State.commit_span (s : State) (h : Nat) (g : Span → Span) (ps : List Pend)
    (e : (g (s.hart h).span).pend = (s.hart h).span.pend ++ ps) :
    (s.modHart h fun x => { x with span := g x.span }).commit h = ps.foldl (State.land h) (s.commit h) := by
  have k := State.commit_ctl s h id id id id g ps id id e
  rw [← State.lands_ctl, ← State.commit_reset] at k
  exact k

theorem State.retire_cx (s : State) (h len : Nat) (mk : Bool) : (s.retire h len mk).cx = s.cx := by
  unfold State.retire
  dsimp only
  split
  · split
    · rfl
    · rw [State.commit_cx]; rfl
  · rfl

/-- An instruction that leaves deferred results completes with them (R179). -/
theorem finish_defer (s : State) (ps : List Pend) : Completes (finish (s.defer ps)) s ps := by
  refine ⟨_, rfl, ?_⟩
  unfold State.settled State.results
  rw [State.retire_cx, State.retire_commit]
  exact congrArg (fun t : State => t.modHart s.cx.hart fun x => x.past s.cx.len)
    (State.commit_span s s.cx.hart (fun p => { p with pend := p.pend ++ ps }) ps rfl)

/-- An instruction without a result completes (R178). -/
theorem finish_self (s : State) : Completes (finish s) s [] := by
  refine ⟨_, rfl, ?_⟩
  unfold State.settled State.results
  rw [State.retire_cx, State.retire_commit]
  rfl

theorem Hart.reg_setReg (x : Hart) (r : Nat) (v : Word) (e : x.span.fwd = []) : (x.setReg r v).reg r = v := by
  simp [Hart.reg, Hart.setReg, e, Tab.find?]

/-- What a register of a hart reads as after its chain has been issued, where a result for it had been forwarded. -/
theorem State.retire_reg (s : State) (h len : Nat) (mk : Bool) (r : Nat) (v : Word) (ps : List Pend)
    (e : (s.hart h).span.pend = ps ++ [.scalar r v]) (f : Tab.find? (s.hart h).span.fwd r = some v) :
    ((s.retire h len mk).hart h).reg r = v := by
  unfold State.retire
  dsimp only
  split
  · split
    · simp [Hart.reg, f]
    · simp only [State.commit, State.hart_modHart_self, Hart.reg, Tab.find?]
      simp [e, State.land, Hart.setReg]
  · simp [Hart.reg, f]

/-- An instruction with a fixed-latency result completes with it, and forwards it within its span (R180). -/
theorem finish_fixed (s : State) (d : RegNo) (v : Word) : Forwards (finish (s.fixed d v)) s d v := by
  refine ⟨_, rfl, ?_, ?_⟩
  · unfold State.settled State.results
    rw [State.retire_cx, State.retire_commit]
    exact congrArg (fun t : State => t.modHart s.cx.hart fun x => x.past s.cx.len)
      (State.commit_span s s.cx.hart
        (fun p => { p with fwd := Tab.put p.fwd d.toNat v, pend := p.pend ++ [.scalar d.toNat v] })
        [.scalar d.toNat v] rfl)
  · unfold State.me
    rw [State.retire_cx]
    exact State.retire_reg _ _ _ _ _ _ (s.me.span.pend) (by simp [State.fixed, State.modMe, State.me])
      (by simp [State.fixed, State.modMe])

/-- A serialising instruction whose effect keeps the span and the chain ends past it, in a new span (R178). -/
theorem serialDone_eq (s : State) : serialDone s = goto s.nextPc s := rfl

end Sys2Proof.Machine
end

