-- ==== Sys2Proof/Laws/Ends.lean ====
section
/-! SUPPORT. How instructions end: serialising ones, traps, instructions that wait for the hart's stores, and what an access
answers; one law for each shared operation. -/

namespace Sys2Proof.Machine

/-! ## Serialising instructions (R178) -/

@[simp] theorem State.settled_cx (s : State) : s.settled.cx = s.cx := State.commit_cx s s.cx.hart

@[simp] theorem State.settled_me (s : State) : s.settled.me = s.settled.hart s.cx.hart := by
  rw [State.me, State.settled_cx]

theorem State.settled_span (s : State) : (s.settled.hart s.cx.hart).span = {} := by
  simp [State.settled, State.commit]

@[simp] theorem State.settled_waiting (s : State) : (s.settled.hart s.cx.hart).waiting = false := by
  rw [Hart.waiting, State.settled_span]; rfl

theorem State.settled_settled (s : State) : s.settled.settled = s.settled := by
  rw [State.settled, State.settled_cx]; exact State.commit_commit s s.cx.hart

/-- A register of a settled state reads as committed. -/
@[simp] theorem State.settled_rd (s : State) (r : RegNo) : s.settled.rd r = s.settled.committed r.toNat := by
  simp [State.rd, State.committed, Hart.reg, State.settled_span, Tab.find?]

/-- A serialising instruction with nothing outstanding acts in the settled state. -/
theorem serial_eq (s : State) (k : State → Out) (e : s.me.waiting = false) : serial s k = k s.settled := by
  simp [serial, e, State.settled]

/-- A serialising instruction waits while an operation of its span has not answered (R182). -/
theorem serial_wait (s : State) (k : State → Out) (e : s.me.waiting = true) : serial s k = holdAt .span s := by
  simp [serial, e]

theorem serial_settled (s : State) (k : State → Out) : serial s.settled k = k s.settled := by
  rw [serial_eq _ _ (by simp), State.settled_settled]

/-! ## Traps (R181, R216) -/

theorem traps_code (s : State) (cause code : Nat) (a : Word) (e : s.me.waiting = false) :
    Traps (trapCode cause code a s) s cause code a := by
  simp [Traps, trapCode, serial_eq _ _ e]

theorem traps_trap (s : State) (cause : Nat) (a : Word) (e : s.me.waiting = false) :
    Traps (trap cause a s) s cause 0 a := traps_code s cause 0 a e

theorem traps_illegal (s : State) (e : s.me.waiting = false) :
    Traps (illegal s) s 0x01 0 (s.cx.base.setWidth 64) := traps_code s 1 0 _ e

theorem traps_settled_code (s : State) (cause code : Nat) (a : Word) : Traps (trapCode cause code a s.settled) s cause code a := by
  simp [Traps, trapCode, serial_settled]

theorem traps_settled (s : State) (cause : Nat) (a : Word) : Traps (trap cause a s.settled) s cause 0 a :=
  traps_settled_code s cause 0 a

theorem traps_settled_illegal (s : State) : Traps (illegal s.settled) s 0x01 0 (s.cx.base.setWidth 64) := by
  rw [illegal, State.settled_cx]; exact traps_settled s 1 _

/-! ## Waiting for the hart's stores (R228, R229) -/

/-- Stores that can all be performed: the instruction goes on where none was lost. -/
theorem drained_eq (s t : State) (k : State → Out) (r : s.rowsBefore s.cx.hart s.steps false = false)
    (e : s.drain s.cx.hart = some t) (l : t.me.st = s.me.st) : drained s k = k t := by
  simp [drained, drainedBy, e, l, r]

theorem State.drain_nil (s : State) (h : Nat) (e : (s.hart h).sbuf = []) :
    s.drain h = some ((s.modHart h fun x => { x with sbuf := [] }).settleOlder h) := by
  simp [State.drain, e]

@[simp] theorem State.settleOlder_cx (s : State) (h : Nat) : (s.settleOlder h).cx = s.cx := rfl
@[simp] theorem State.settleOlder_hart (s : State) (h k : Nat) : (s.settleOlder h).hart k = s.hart k := rfl
@[simp] theorem State.settleOlder_me (s : State) (h : Nat) : (s.settleOlder h).me = s.me := rfl

/-- With no store to wait for, a transfer goes as without the wait, and no activation latches what a store has replaced (R87). -/
theorem drained_goto (s : State) (f : State → Word) (e : s.me.sbuf = [])
    (r : s.rowsBefore s.cx.hart s.steps false = false)
    (g : f ((s.modMe fun x => { x with sbuf := [] }).settleOlder s.cx.hart) = f s) :
    drained s (fun t => goto (f t) t) = goto (f s) (s.settleOlder s.cx.hart) := by
  have k : (fun x : Hart => { x with sbuf := [] }) s.me = s.me := by
    show { s.me with sbuf := [] } = s.me
    rw [← e]
  have d : s.drain s.cx.hart = some ((s.modMe fun x => { x with sbuf := [] }).settleOlder s.cx.hart) := State.drain_nil s _ e
  rw [drained_eq s _ _ r d (by simp), g]
  have q : ∀ p, (fun x : Hart => { x with sbuf := [], pc := p, span := {}, hold := none, waited := 0, done := [], todo := [] })
      (s.hart s.cx.hart) = (fun x : Hart => { x with pc := p, span := {}, hold := none, waited := 0, done := [], todo := [] })
      (s.hart s.cx.hart) := fun p =>
    congrArg (fun x : Hart => { x with pc := p, span := {}, hold := none, waited := 0, done := [], todo := [] }) k
  have w : ∀ f1 f2 : Hart → Hart, f2 (f1 (s.hart s.cx.hart)) = f2 (s.hart s.cx.hart) →
      ((s.modHart s.cx.hart f1).settleOlder s.cx.hart).modHart s.cx.hart f2 =
        (s.settleOlder s.cx.hart).modHart s.cx.hart f2 := by
    intro f1 f2 e
    have a : ((s.modHart s.cx.hart f1).settleOlder s.cx.hart).modHart s.cx.hart f2 =
        ((s.modHart s.cx.hart f1).modHart s.cx.hart f2).settleOlder s.cx.hart := rfl
    rw [a, State.modHart_modHart, State.modHart, e]
    rfl
  unfold goto State.goto State.modMe
  simp only [State.settleOlder_cx, State.modHart_cx]
  exact congrArg Host.Outcome.next (w (fun x => { x with sbuf := [] }) _ (q (f s)))

/-! ## What an access answers -/

section
variable {α β : Type}

@[simp] theorem Look.bind_ok (a : α) (s : State) (f : α → State → Look β) : (Look.ok a s).bind f = f a s := rfl
@[simp] theorem Look.bind_trap (c : Nat) (a : Word) (s : State) (f : α → State → Look β) :
    (Look.trap c a s : Look α).bind f = .trap c a s := rfl
@[simp] theorem Look.bind_park (r l : Nat) (a : Word) (s : State) (f : α → State → Look β) :
    (Look.park r l a s : Look α).bind f = .park r l a s := rfl
@[simp] theorem Look.bind_wait (k : HoldKind) (s : State) (f : α → State → Look β) :
    (Look.wait k s : Look α).bind f = .wait k s := rfl
@[simp] theorem Look.bind_host (st : Option Nat) (s : State) (f : α → State → Look β) :
    (Look.host st s : Look α).bind f = .host st s := rfl
@[simp] theorem Look.bind_gone (s : State) (f : α → State → Look β) : (Look.gone s : Look α).bind f = .gone s := rfl

@[simp] theorem Look.out_ok (k : Acc) (a : α) (s : State) (f : α → State → Out) : (Look.ok a s).out k f = f a s := rfl
@[simp] theorem Look.out_trap (k : Acc) (c : Nat) (a : Word) (s : State) (f : α → State → Out) :
    (Look.trap c a s : Look α).out k f = Sys2Proof.Machine.trap c a s := rfl
@[simp] theorem Look.out_park (k : Acc) (r l : Nat) (a : Word) (s : State) (f : α → State → Out) :
    (Look.park r l a s : Look α).out k f = parkAt r l k.code a s := rfl
@[simp] theorem Look.out_wait (k : Acc) (w : HoldKind) (s : State) (f : α → State → Out) :
    (Look.wait w s : Look α).out k f = holdAccess w s := rfl
@[simp] theorem Look.out_host (k : Acc) (st : Option Nat) (s : State) (f : α → State → Out) :
    (Look.host st s : Look α).out k f = askHost st s := rfl
@[simp] theorem Look.out_gone (k : Acc) (s : State) (f : α → State → Out) : (Look.gone s : Look α).out k f = .next s := rfl

/-- A step over a list that goes well went well at each element. -/
theorem Look.each_cons (f : α → State → Look β) (a : α) (as : List α) (s t : State) (bs : List β)
    (e : Look.each f (a :: as) s = .ok bs t) :
    ∃ b u cs, f a s = .ok b u ∧ Look.each f as u = .ok cs t ∧ bs = b :: cs := by
  simp only [Look.each] at e
  cases h : f a s with
  | ok b u =>
    rw [h, Look.bind_ok] at e
    cases g : Look.each f as u with
    | ok cs v => rw [g, Look.bind_ok] at e; cases e; exact ⟨b, u, cs, rfl, g, rfl⟩
    | _ => rw [g] at e; cases e
  | _ => rw [h] at e; cases e

theorem Look.each_length (f : α → State → Look β) (as : List α) : ∀ (s t : State) (bs : List β),
    Look.each f as s = .ok bs t → bs.length = as.length := by
  induction as with
  | nil => intro s t bs e; cases e; rfl
  | cons a as ih =>
    intro s t bs e
    obtain ⟨b, u, cs, -, h, rfl⟩ := Look.each_cons f a as s t bs e
    simp [ih u t cs h]

end

end Sys2Proof.Machine
end

