-- ==== Sys2Proof/Laws/Access.lean ====
section
/-! SUPPORT. Accesses to coordinate space: what the check, a load and a read-modify-write of open scratchpad bytes answer; and what no access changes. -/

namespace Sys2Proof.Machine

/-! ## Regions of a scratchpad location -/

section
variable {x : Nat} (e : x < 2 ^ 30)
include e

theorem isSpad_coord : isSpad (Config.spadKey + x) = true := by
  simp [isSpad, Config.spadKey, Config.sideKey]; omega
theorem isReg_coord : isReg (Config.spadKey + x) = false := by
  simp [isReg, Config.spadKey]; omega
theorem isHost_coord : isHost (Config.spadKey + x) = false := by
  simp [isHost, Config.spadKey]; omega
theorem isVault_coord : isVault (Config.spadKey + x) = false := by
  simp [isVault, Config.spadKey]; omega

end

/-- The wake of a scratchpad location is that of its core (R20), with the words of the access that are corrected counted (R379). -/
theorem State.wake_coord (s : State) {x : Nat} (n : Nat) (e : x < 2 ^ 30) :
    s.wake (Config.spadKey + x) n =
      (s.correct (coreOfBits x) (spadWords (x % 2 ^ 17) n)).modCore (coreOfBits x) fun c =>
      { c with powered := (spadBanks (x % 2 ^ 17) n).foldl (fun m b => m ||| 1 <<< b) c.powered
               grants := (spadBanks (x % 2 ^ 17) n).foldl (fun m b => Tab.put m b (Tab.get 0 m b + 1)) c.grants } := by
  rw [State.wake, if_pos (isSpad_coord e), show Config.spadKey + x - Config.spadKey = x by omega,
    show (Config.spadKey + x) % 2 ^ 17 = x % 2 ^ 17 by simp only [Config.spadKey]; omega]

/-! ## The check (R9, R17 to R19) -/

theorem access_bad (w : Who) (acc : Acc) (va : Word) (size align : Nat) (s : State) (e : classify w.h va = .bad) :
    access w acc va size align s = .trap 0x06 va s := by
  rw [access, e]

theorem access_misaligned (w : Who) (acc : Acc) (va : Word) (size align : Nat) (s : State) (e : classify w.h va ≠ .bad)
    (a : va.toNat % align ≠ 0) : access w acc va size align s = .trap 0x04 va s := by
  rw [access]
  cases h : classify w.h va with
  | bad => exact absurd h e
  | coord x => exact if_pos (by simpa using a)
  | g => exact if_pos (by simpa using a)

theorem access_straddle (w : Who) (acc : Acc) (va : Word) (size align x : Nat) (s : State)
    (e : classify w.h va = .coord x) (a : va.toNat % align = 0) (b : 0x18000 < x % 2 ^ 17 + size) :
    access w acc va size align s = .trap 0x05 va s := by
  rw [access, e]
  exact (if_neg (by simpa using a)).trans (if_pos b)

theorem access_outside (w : Who) (acc : Acc) (va : Word) (size align x : Nat) (s : State)
    (e : classify w.h va = .coord x) (a : va.toNat % align = 0) (b : x % 2 ^ 17 + size ≤ 0x18000)
    (c : s.inSet w.part (coreOfBits x / 64) = false) : access w acc va size align s = .trap 0x08 va s := by
  rw [access, e]
  exact (if_neg (by simpa using a)).trans ((if_neg (Nat.not_lt.2 b)).trans (if_pos (by simp [c])))

theorem access_coord (w : Who) (acc : Acc) (va : Word) (size align x : Nat) (s : State)
    (e : classify w.h va = .coord x) (a : va.toNat % align = 0) (b : x % 2 ^ 17 + size ≤ 0x18000)
    (c : s.inSet w.part (coreOfBits x / 64) = true) (f : acc ≠ .fetch) (r : acc ≠ .rowact) :
    access w acc va size align s = .ok { key := Config.spadKey + x } s := by
  rw [access, e]
  exact (if_neg (by simpa using a)).trans ((if_neg (Nat.not_lt.2 b)).trans (if_neg (by simp [c, f, r])))

/-! ## Reads of open scratchpad bytes (R18, R20, R228) -/

/-- No link of an open scratchpad access is down. -/
theorem State.SpadOpen.cuts {s : State} {h x n : Nat} {m : Bool} (o : s.SpadOpen h x n m) :
    s.requestCut h (Config.spadKey + x) = none ∧ s.replyCut h (Config.spadKey + x) = none := by
  have w := o.way
  unfold State.lostLink at w
  split at w
  · cases w
  · next e => exact ⟨e, w⟩

/-! ## The record of an instruction's accesses -/

@[simp] theorem State.did_hart (s : State) (h : Nat) (d : Done) : (s.did h d).hart h =
    { s.hart h with done := (s.hart h).done ++ [d], todo := (s.hart h).todo.drop 1 } := by simp [State.did]

/-- What is read of a hart, its record of accesses left out, is as before. -/
theorem State.did_same {α : Type} (s : State) (h k : Nat) (d : Done) (f : Hart → α)
    (e : ∀ x : Hart, ∀ a b, f { x with done := a, todo := b } = f x) : f ((s.did h d).hart k) = f (s.hart k) := by
  by_cases g : k = h
  · subst g; rw [State.did_hart]; exact e _ _ _
  · rw [State.did, State.hart_modHart_ne _ _ g]

/-- A test of every hart that leaves its record of accesses out and that a hart at rest passes. -/
theorem State.did_all (s : State) (h : Nat) (d : Done) (P : Nat × Hart → Bool)
    (e : ∀ k (x : Hart) a b, P (k, { x with done := a, todo := b }) = P (k, x))
    (z : s.hart h = {} → P (h, {}) = true) : (s.did h d).harts.all P = s.harts.all P := by
  refine Tab.all_put {} P s.harts h _ (e h _ _ _) fun n => ?_
  have r : s.hart h = {} := by simp [State.hart, Tab.get, n]
  rw [e, r]; exact z r
theorem State.did_any (s : State) (h : Nat) (d : Done) (P : Nat × Hart → Bool)
    (e : ∀ k (x : Hart) a b, P (k, { x with done := a, todo := b }) = P (k, x))
    (z : s.hart h = {} → P (h, {}) = false) : (s.did h d).harts.any P = s.harts.any P := by
  have k := State.did_all s h d (fun x => !P x) (by simp [e]) fun n => by
    show (!P (h, {})) = true
    rw [z n]; rfl
  simpa [List.all_eq_not_any_not] using k

@[simp] theorem State.did_scopeHeld (s : State) (h k : Nat) (d : Done) : (s.did h d).scopeHeld k = s.scopeHeld k :=
  State.did_any s h d _ (fun _ _ _ _ => rfl) fun _ => by simp
@[simp] theorem State.did_othersOwe (s : State) (h k : Nat) (d : Done) : (s.did h d).othersOwe k = s.othersOwe k :=
  State.did_any s h d _ (fun _ _ _ _ => rfl) fun _ => by simp [Hart.owes]
@[simp] theorem State.did_rowsBefore (s : State) (h k n : Nat) (d : Done) (so : Bool) :
    (s.did h d).rowsBefore k n so = s.rowsBefore k n so := rfl
@[simp] theorem State.did_pushedBefore (s : State) (h k b a n : Nat) (d : Done) (so : Bool) :
    (s.did h d).pushedBefore k b a n so = s.pushedBefore k b a n so :=
  State.did_same s h k d (fun x => x.streams.any _) fun _ _ _ => rfl
@[simp] theorem State.did_sbuf (s : State) (h k : Nat) (d : Done) : ((s.did h d).hart k).sbuf = (s.hart k).sbuf :=
  State.did_same s h k d Hart.sbuf fun _ _ _ => rfl
@[simp] theorem State.did_storeMay (s : State) (h k j : Nat) (d : Done) : (s.did h d).storeMay k j = s.storeMay k j := by
  simp only [State.storeMay, State.did_sbuf, State.did_othersOwe, State.did_scopeHeld, State.did_pushedBefore,
    State.did_rowsBefore]
/-- An access that has been checked and not made does not change whether the hart is held back. -/
theorem State.did_withheld (s : State) (h k : Nat) (d : Done) (e : d.isRead = false) :
    (s.did h d).withheld k = s.withheld k := by
  by_cases g : k = h
  · subst g
    simp only [State.withheld, State.did_hart, Hart.boundary, List.any_append, List.any_cons, List.any_nil, e, Bool.or_false]
    rfl
  · simp only [State.withheld, State.did, State.hart_modHart_ne _ _ g]
    rfl

/-- The requests at the banks of a scratchpad are the same once an access has been checked. -/
theorem State.did_padTurn (s : State) (h : Nat) (d : Done) (own : Asker → Bool) (w : PadWait) (e : d.isRead = false) :
    (s.did h d).padTurn own w = s.padTurn own w := by
  have a : ∀ k, (s.did h d).padAsks k = s.padAsks k := by
    intro k
    have m := State.did_same s h k d (fun x => (x.hold, x.st)) fun _ _ _ => rfl
    simp only [Prod.mk.injEq] at m
    simp only [State.padAsks, m, State.did_withheld s h k d e, State.did_scopeHeld]
  have b : ∀ k t, (s.did h d).streamAsks k t = s.streamAsks k t := by
    intro k t
    simp only [State.streamAsks, State.did_withheld s h k d e, State.did_scopeHeld]
  have c : ∀ x : Hart, (s.did h d).away x = s.away x := fun _ => rfl
  have q : ∀ x v, (s.did h d).bankReq x v = s.bankReq x v := fun _ _ => rfl
  have r : ∀ k es x, (s.did h d).storeAsk k es x = s.storeAsk k es x := fun _ _ _ => rfl
  simp only [State.padTurn, State.bankReqs, State.did_storeMay, a, b, c, q, r, List.all_append, List.all_flatMap]
  rw [State.did_all s h d _ (fun _ _ _ _ => rfl) fun n => by simp [State.padAsks, n]]
  rfl

/-! ## Accesses of open scratchpad bytes -/

/-- A hart that is at the start of its instruction checks an access anew. -/
theorem checked_fresh (h : Nat) (acc : Acc) (va : Word) (size align : Nat) (s t : State) (p : Place)
    (f : (s.hart h).todo = []) (e : access (s.who h) acc va size align s = .ok p t) :
    checked h acc va size align s = .ok p (t.did h (.place p va)) := by
  rw [checked, f, e]; rfl

/-- An access of open bytes that nothing of the hart comes before. -/
theorem readPlace_coord (s : State) (h x n acq : Nat) (va : Word) (o : s.SpadOpen h x n)
    (q : s.pushedBefore h s.steps (Config.spadKey + x) n false = false) (r : s.acquireAfter h acq = 0) :
    readPlace h { key := Config.spadKey + x } n acq va s =
      .ok (s.view h none (Config.spadKey + x) n)
        ((s.wake (Config.spadKey + x) n).did h (.read true (s.view h none (Config.spadKey + x) n))) := by
  have k1 := isReg_coord o.coord
  have k2 := isHost_coord o.coord
  have k3 := isVault_coord o.coord
  have k4 := isSpad_coord o.coord
  have u1 : s.padTurn (Asker.reads h none) (s.readAsk h none (Config.spadKey + x) n true false) = true := o.turn
  have a : s.readsAfter h { key := Config.spadKey + x } = false := by
    rw [State.readsAfter, List.any_eq_false]
    intro e _
    simp [k1, k2]
  have b : s.ordered h 0 = some s := by simp [State.ordered]
  simp [readPlace, readFirst, readOnce, o.fresh, a, b, q, r, overLink, o.cuts.1, o.cuts.2, readLocal, k1, k2, k3, k4, u1,
    o.sound, State.touch]

/-- Open bytes are open once their access has been checked. -/
theorem State.SpadOpen.did {s : State} {h x n : Nat} {m : Bool} (o : s.SpadOpen h x n m) (d : Done) (e : d.isRead = false) :
    (s.did h d).SpadOpen h x n m where
  coord := o.coord
  inside := o.inside
  inSet := by rw [State.did_same s h h d Hart.part fun _ _ _ => rfl]; exact o.inSet
  way := o.way
  turn := by
    have a : (s.did h d).readAsk h none (Config.spadKey + x) n (!m) false =
        s.readAsk h none (Config.spadKey + x) n (!m) false := by
      simp only [State.readAsk, State.wordsAsk, State.heldFor, State.did_same s h h d Hart.hold fun _ _ _ => rfl]
      rfl
    rw [a, State.did_padTurn s h d _ _ e]; exact o.turn
  sound := o.sound
  fresh := by simp [o.fresh]

@[simp] theorem State.did_steps (s : State) (h : Nat) (d : Done) : (s.did h d).steps = s.steps := rfl
@[simp] theorem State.did_acquireAfter (s : State) (h k acq : Nat) (d : Done) :
    (s.did h d).acquireAfter k acq = s.acquireAfter k acq := by simp [State.acquireAfter]
@[simp] theorem State.did_rmwAfter (s : State) (h k n : Nat) (p : Place) (d : Done) :
    (s.did h d).rmwAfter k p n = s.rmwAfter k p n := by simp [State.rmwAfter]
@[simp] theorem State.did_view (s : State) (h k a n : Nat) (c : Option (BitVec 12)) (d : Done) :
    (s.did h d).view k c a n = s.view k c a n := by
  simp only [State.view, State.viewByte, State.did_sbuf]; rfl
theorem State.did_wake (s : State) (h a n : Nat) (d : Done) : (s.did h d).wake a n = (s.wake a n).did h d := by
  unfold State.wake; split <;> rfl

/-- A load of open bytes answers them, with the access recorded until the instruction ends. -/
theorem loadBytes_coord (s : State) (h x n align acq : Nat) (va : Word) (e : classify h va = .coord x)
    (a : va.toNat % align = 0) (o : s.SpadOpen h x n)
    (q : s.pushedBefore h s.steps (Config.spadKey + x) n false = false) (r : s.acquireAfter h acq = 0) :
    let bs := s.view h none (Config.spadKey + x) n
    loadBytes h va n align acq s =
      .ok bs (((s.wake (Config.spadKey + x) n).did h (.place { key := Config.spadKey + x } va)).did h (.read true bs)) := by
  intro bs
  rw [loadBytes, checked_fresh h .load va n align s s _ o.fresh
    (access_coord (s.who h) .load va n align x s e a o.inside o.inSet (by simp) (by simp)), Look.bind_ok,
    readPlace_coord _ h x n acq va (o.did _ rfl) (by rw [State.did_pushedBefore]; exact q) (by simp [r]),
    State.did_view, State.did_wake]

/-- A read-modify-write of open scratchpad bytes, with nothing of the hart that has to come before it (R232). -/
theorem rmw_coord (s : State) (h x n : Nat) (va : Word) (ord : OrderCode) (sc : ScopeCode) (ok : Bool)
    (f : List Byte → Option (List Byte)) (e : classify h va = .coord x) (a : va.toNat % n = 0) (o : s.SpadOpen h x n true)
    (q : s.pushedBefore h s.steps (Config.spadKey + x) n false = false)
    (r : s.rmwAfter h { key := Config.spadKey + x } n = false) (u : relScope ord sc = 0)
    (v : s.acquireAfter h (acqScope ord sc) = 0) :
    let p : Place := { key := Config.spadKey + x }
    let bs := s.view h none p.key n
    let t := (s.wake p.key n).did h (.place p va)
    rmw h va n ord sc ok f s =
      .ok bs (match f bs with
        | none => t
        | some new => (t.mend p.key n).writeBytes none p.key new) := by
  have o' := o.did (.place { key := Config.spadKey + x } va) rfl
  have k1 := isReg_coord o.coord
  have k2 := isHost_coord o.coord
  have k3 := isVault_coord o.coord
  have k4 := isSpad_coord o.coord
  have u1 := o'.turn
  have u2 := o'.sound
  have b : ∀ s : State, s.ordered h 0 = some s := by simp [State.ordered]
  intro p bs t
  rw [rmw, checked_fresh h .atomic va n n s s _ o.fresh
    (access_coord (s.who h) .atomic va n n x s e a o.inside o.inSet (by simp) (by simp)), Look.bind_ok, rmwAt]
  simp only [Bool.not_true] at u1
  simp [b, q, r, u, v, rmwRelease, overLink, o'.cuts.1, o'.cuts.2, readLocal, k1, k2, k3, k4, u1, u2, State.touch,
    State.did_wake, p, bs, t]
  cases f (s.view h none (Config.spadKey + x) n) <;> rfl

/-! ## What an access leaves alone -/

/-- Harts, cores, launches and keys are as they were; banks, row slots, queues, counters and memory may differ. -/
structure Kept (s t : State) : Prop where
  harts : t.harts = s.harts
  cores : t.cores = s.cores
  launches : t.launches = s.launches
  cx : t.cx = s.cx
  keys : t.keys = s.keys

theorem Kept.refl (s : State) : Kept s s := ⟨rfl, rfl, rfl, rfl, rfl⟩
theorem Kept.trans {s t u : State} (a : Kept s t) (b : Kept t u) : Kept s u :=
  ⟨b.1.trans a.1, b.2.trans a.2, b.3.trans a.3, b.4.trans a.4, b.5.trans a.5⟩
theorem Kept.cluster (s : State) (g : Nat) (f : Cluster → Cluster) : Kept s (s.modCluster g f) := ⟨rfl, rfl, rfl, rfl, rfl⟩
theorem Kept.part (s : State) (p : Nat) (f : Part → Part) : Kept s (s.modPart p f) := ⟨rfl, rfl, rfl, rfl, rfl⟩
theorem Kept.foldl {α : Type} (f : State → α → State) (k : ∀ s a, Kept s (f s a)) (l : List α) :
    ∀ s, Kept s (l.foldl f s) := by
  induction l with
  | nil => exact .refl
  | cons a l ih => exact fun s => (k s a).trans (ih _)

theorem Kept.writeByte (s : State) (k : Option (BitVec 12)) (a : Nat) (v : Byte) : Kept s (s.writeByte k a v) := by
  have r : Kept s (s.rekey (s.slotKey k) a) := by unfold State.rekey; split <;> exact ⟨rfl, rfl, rfl, rfl, rfl⟩
  have w : ∀ u : State, Kept u (u.shadowWrite a) := by
    intro u; unfold State.shadowWrite; split
    · exact .cluster _ _ _
    · exact .refl u
  have q := r.trans (w _)
  exact ⟨q.1, q.2, q.3, q.4, q.5⟩

theorem Kept.writeBytes (bs : List Byte) : ∀ (s : State) (k : Option (BitVec 12)) (a : Nat), Kept s (s.writeBytes k a bs) := by
  induction bs with
  | nil => exact fun s _ _ => .refl s
  | cons b bs ih => exact fun s k a => (Kept.writeByte s k a b).trans (ih _ _ _)

theorem Kept.countBad (s : State) (a : Nat) : Kept s (s.countBad a) := by
  unfold State.countBad; split
  · exact .cluster _ _ _
  · exact .refl s
theorem Kept.countCorrected (s : State) (a n : Nat) : Kept s (s.countCorrected a n) := by
  unfold State.countCorrected; split
  · exact .cluster _ _ _
  · exact .refl s

theorem Kept.closeBank (s : State) (v b t : Nat) (es : List BankEnd) : Kept s (s.closeBank v b t es) :=
  ⟨rfl, rfl, rfl, rfl, rfl⟩
theorem Kept.expireSlot (s : State) (g k : Nat) : Kept s (s.expireSlot g k) := by
  unfold State.expireSlot
  dsimp only
  split
  · exact (⟨rfl, rfl, rfl, rfl, rfl⟩ : Kept s (s.setSlot g k _)).trans (.closeBank _ _ _ _ _)
  · exact .refl s
theorem Kept.bankEnd (s : State) (e : BankEnd) : Kept s (s.bankEnd e) := by
  unfold State.bankEnd
  dsimp only
  split <;> exact ⟨rfl, rfl, rfl, rfl, rfl⟩
theorem Kept.settleBank (s : State) (v b : Nat) : Kept s (s.settleBank v b) := by
  unfold State.settleBank
  refine Kept.trans (Kept.trans (Kept.foldl _ (fun s i => ?_) _ s) (Kept.foldl _ Kept.bankEnd _ _)) (.cluster _ _ _)
  split
  · exact .expireSlot _ _ _
  · exact .refl _
theorem Kept.touch (s : State) (a n : Nat) : Kept s (s.touch a n) := by
  unfold State.touch State.serveBank
  split
  · exact ((Kept.settleBank _ _ _).trans (.cluster _ _ _)).trans (.countCorrected _ _ _)
  · exact .refl s

theorem Kept.mendRow (s : State) (a n : Nat) : Kept s (s.mendRow a n) := by
  unfold State.mendRow; split <;> exact ⟨rfl, rfl, rfl, rfl, rfl⟩
theorem Kept.devPut (s : State) (a : Nat) (bs : List Byte) : Kept s (s.devPut a bs) := by
  have k : Kept s ((s.touch a bs.length).mendRow a bs.length) := (Kept.touch _ _ _).trans (.mendRow _ _ _)
  unfold State.devPut
  dsimp only
  split
  · exact (k.trans (.countBad _ _)).trans (.writeBytes _ _ _ _)
  · exact k.trans (.writeBytes _ _ _ _)
theorem Kept.devWrite (s : State) (h : Option Nat) (a : Nat) (bs : List Byte) : Kept s (s.devWrite h a bs) := by
  unfold State.devWrite
  repeat' split
  · exact .refl s
  · exact ⟨rfl, rfl, rfl, rfl, rfl⟩
  · exact .devPut _ _ _
theorem Kept.postCheck (s : State) (k d h : Nat) (a b : Word) : Kept s (s.postCheck k d h a b) := by
  unfold State.postCheck
  dsimp only
  split
  · exact ⟨rfl, rfl, rfl, rfl, rfl⟩
  · next l _ =>
    have e := Kept.devWrite s none l (bytesOf [w64 (k * 2 ^ 56 + d % 256 * 2 ^ 40 + h % 2 ^ 15), a, b, 0])
    split <;> exact ⟨e.1, e.2, e.3, e.4, e.5⟩
theorem Kept.machineCheck (s : State) (k d h : Nat) (a b : Word) : Kept s (s.machineCheck k d h a b) := by
  unfold State.machineCheck
  dsimp only
  split
  · exact .postCheck _ _ _ _ _ _
  · split
    · exact (Kept.postCheck _ _ _ _ _ _).trans (.postCheck _ _ _ _ _ _)
    · exact .postCheck _ _ _ _ _ _
theorem Kept.devWriteFor (s : State) (h a : Nat) (bs : List Byte) : Kept s (s.devWriteFor h a bs) := by
  unfold State.devWriteFor
  dsimp only
  split
  · exact (Kept.devWrite _ _ _ _).trans (.machineCheck _ _ _ _ _ _)
  · exact .devWrite _ _ _ _

theorem Kept.countUpdate (s : State) (w : Who) (b : Word) (e l : Nat) : Kept s (s.countUpdate w b e l) := by
  unfold State.countUpdate
  split
  · exact .refl s
  · next p _ =>
    dsimp only
    generalize State.rd8 s e = x
    split
    · exact Kept.devWriteFor s _ _ _
    · split
      · split
        · exact ((Kept.devWriteFor s _ _ _).trans (Kept.part _ p _)).trans (Kept.devWriteFor _ _ _ _)
        · exact (Kept.part s p _).trans (Kept.devWriteFor _ _ _ _)
      · exact Kept.devWriteFor s _ _ _

theorem Kept.countAccess (s : State) (w : Who) (va e : Word) (n l : Nat) : Kept s (s.countAccess w va e n l) := by
  have k : ∀ t m, Kept s (s.keepCount w.cluster t m) := by
    intro t m
    unfold State.keepCount
    split
    · exact .refl s
    · exact .cluster _ _ _
  unfold State.countAccess
  split
  · exact .refl s
  · dsimp only
    split
    · exact (k _ _).trans (.countUpdate _ _ _ _ _)
    · exact k _ _

theorem Kept.walked (s : State) (w : Who) (va : Word) : Kept s (s.walked w va) := by
  unfold State.walked
  split
  · refine Kept.foldl _ (fun s pa => ?_) _ s
    split
    · exact (Kept.countBad _ _).trans (.touch _ _ _)
    · exact .touch _ _ _
  · exact .refl s

/-- What a translation may change: the caches, the banks of the entries that its walk reads, and the draws. -/
theorem translate_kept (w : Who) (va : Word) (s t : State) (r : Word × Nat × Nat) (e : translate w va s = .ok r t) :
    Kept s t := by
  have d : Kept s { s with draws := s.draws + 1 } := ⟨rfl, rfl, rfl, rfl, rfl⟩
  have k : ∀ u : State, u.walkLook w va = .ok r t → Kept u t := by
    intro u h
    unfold State.walkLook waitBank at h
    dsimp only at h
    repeat' split at h
    all_goals cases h
    exact (Kept.walked u w va).trans ⟨rfl, rfl, rfl, rfl, rfl⟩
  unfold translate at e
  dsimp only [State.draw] at e
  split at e
  · exact d.trans (k _ e)
  · split at e
    · cases e; exact d
    · exact d.trans (k _ e)

theorem physical_ok (s t : State) (w : Who) (acc : Acc) (va e : Word) (pa n : Nat) (p : Place)
    (h : s.physical w acc va e pa n = .ok p t) : t = s := by
  unfold State.physical at h
  repeat' split at h
  all_goals cases h
  all_goals rfl

/-- An access that is granted, in its two kinds: untranslated, with nothing changed, or translated and counted. -/
theorem access_ok (w : Who) (acc : Acc) (va : Word) (n al : Nat) (s t : State) (p : Place) (h : access w acc va n al s = .ok p t) :
    t = s ∨ (classify w.h va = .g ∧ ∃ e entry level u, translate w va s = .ok (e, entry, level) u ∧
      t = u.countAccess w va e entry level) := by
  unfold access at h
  split at h
  · cases h
  · repeat' split at h
    all_goals cases h
    exact .inl rfl
  · next g =>
    split at h
    · cases h
    · dsimp only at h
      split at h
      · split at h
        · cases h
        · exact .inl (physical_ok _ _ _ _ _ _ _ _ _ h)
      · cases ht : translate w va s with
        | ok r u =>
          obtain ⟨e, entry, level⟩ := r
          rw [ht, Look.bind_ok] at h
          dsimp only at h
          cases hp : u.physical w acc va e (fld e 16 36 * 65536 + va.toNat % leafSize level) n with
          | ok p v =>
            rw [hp, Look.bind_ok] at h
            have := physical_ok _ _ _ _ _ _ _ _ _ hp
            subst this
            split at h
            · cases h
            · cases h
              exact .inr ⟨g, e, entry, level, _, rfl, rfl⟩
          | _ => rw [hp] at h; cases h
        | _ => rw [ht] at h; cases h

theorem access_kept (w : Who) (acc : Acc) (va : Word) (n al : Nat) (s t : State) (p : Place)
    (h : access w acc va n al s = .ok p t) : Kept s t := by
  rcases access_ok w acc va n al s t p h with rfl | ⟨-, e, entry, level, u, hu, rfl⟩
  · exact .refl _
  · exact (translate_kept w va s u _ hu).trans (.countAccess _ _ _ _ _ _)

theorem Kept.hart {s t : State} (k : Kept s t) (h : Nat) : t.hart h = s.hart h := by
  unfold State.hart; rw [k.harts]
theorem Kept.me {s t : State} (k : Kept s t) : t.me = s.me := by
  unfold State.me; rw [k.cx]; exact k.hart _
theorem Kept.rd {s t : State} (k : Kept s t) (r : RegNo) : t.rd r = s.rd r := by
  unfold State.rd; rw [k.me]

end Sys2Proof.Machine
end

