-- ==== Sys2Proof/Laws/Arms.lean ====
section
/-! SUPPORT. The meaning of each instruction by its name: exec of the instruction is that meaning, by definition. -/

namespace Sys2Proof.Machine

theorem exec_ill (s : State) : exec .ill s = execIll s := rfl
theorem exec_mov o (s : State) : exec (.mov o) s = execMov o s := rfl
theorem exec_movi o (s : State) : exec (.movi o) s = execMovi o s := rfl
theorem exec_add o (s : State) : exec (.add o) s = execAdd o s := rfl
theorem exec_sub o (s : State) : exec (.sub o) s = execSub o s := rfl
theorem exec_and3 o (s : State) : exec (.and3 o) s = execAnd o s := rfl
theorem exec_or3 o (s : State) : exec (.or3 o) s = execOr o s := rfl
theorem exec_xor3 o (s : State) : exec (.xor3 o) s = execXor o s := rfl
theorem exec_andn o (s : State) : exec (.andn o) s = execAndn o s := rfl
theorem exec_shl o (s : State) : exec (.shl o) s = execShl o s := rfl
theorem exec_shr o (s : State) : exec (.shr o) s = execShr o s := rfl
theorem exec_sar o (s : State) : exec (.sar o) s = execSar o s := rfl
theorem exec_rol o (s : State) : exec (.rol o) s = execRol o s := rfl
theorem exec_mul o (s : State) : exec (.mul o) s = execMul o s := rfl
theorem exec_mulh o (s : State) : exec (.mulh o) s = execMulh o s := rfl
theorem exec_mulhn o (s : State) : exec (.mulhn o) s = execMulhn o s := rfl
theorem exec_sdiv o (s : State) : exec (.sdiv o) s = execDiv o s := rfl
theorem exec_divn o (s : State) : exec (.divn o) s = execDivn o s := rfl
theorem exec_rem o (s : State) : exec (.rem o) s = execRem o s := rfl
theorem exec_remn o (s : State) : exec (.remn o) s = execRemn o s := rfl
theorem exec_min o (s : State) : exec (.min o) s = execMin o s := rfl
theorem exec_max o (s : State) : exec (.max o) s = execMax o s := rfl
theorem exec_minn o (s : State) : exec (.minn o) s = execMinn o s := rfl
theorem exec_maxn o (s : State) : exec (.maxn o) s = execMaxn o s := rfl
theorem exec_slt o (s : State) : exec (.slt o) s = execSlt o s := rfl
theorem exec_sltn o (s : State) : exec (.sltn o) s = execSltn o s := rfl
theorem exec_seq o (s : State) : exec (.seq o) s = execSeq o s := rfl
theorem exec_sel o (s : State) : exec (.sel o) s = execSel o s := rfl
theorem exec_clz o (s : State) : exec (.clz o) s = execClz o s := rfl
theorem exec_ctz o (s : State) : exec (.ctz o) s = execCtz o s := rfl
theorem exec_popc o (s : State) : exec (.popc o) s = execPopc o s := rfl
theorem exec_bswap o (s : State) : exec (.bswap o) s = execBswap o s := rfl
theorem exec_sext o (s : State) : exec (.sext o) s = execSext o s := rfl
theorem exec_zext o (s : State) : exec (.zext o) s = execZext o s := rfl
theorem exec_bfx o (s : State) : exec (.bfx o) s = execBfx o s := rfl
theorem exec_bfi o (s : State) : exec (.bfi o) s = execBfi o s := rfl
theorem exec_crd o (s : State) : exec (.crd o) s = execCrd o s := rfl
theorem exec_self o (s : State) : exec (.self o) s = execSelf o s := rfl
theorem exec_clmul o (s : State) : exec (.clmul o) s = execClmul o s := rfl
theorem exec_clmulh o (s : State) : exec (.clmulh o) s = execClmulh o s := rfl
theorem exec_ld1s o (s : State) : exec (.ld1s o) s = execLd1s o s := rfl
theorem exec_ld1n o (s : State) : exec (.ld1n o) s = execLd1n o s := rfl
theorem exec_ld2s o (s : State) : exec (.ld2s o) s = execLd2s o s := rfl
theorem exec_ld2n o (s : State) : exec (.ld2n o) s = execLd2n o s := rfl
theorem exec_ld4s o (s : State) : exec (.ld4s o) s = execLd4s o s := rfl
theorem exec_ld4n o (s : State) : exec (.ld4n o) s = execLd4n o s := rfl
theorem exec_ld8 o (s : State) : exec (.ld8 o) s = execLd8 o s := rfl
theorem exec_ld16 o (s : State) : exec (.ld16 o) s = execLd16 o s := rfl
theorem exec_st1 o (s : State) : exec (.st1 o) s = execSt1 o s := rfl
theorem exec_st2 o (s : State) : exec (.st2 o) s = execSt2 o s := rfl
theorem exec_st4 o (s : State) : exec (.st4 o) s = execSt4 o s := rfl
theorem exec_st8 o (s : State) : exec (.st8 o) s = execSt8 o s := rfl
theorem exec_st16 o (s : State) : exec (.st16 o) s = execSt16 o s := rfl
theorem exec_ldbt o (s : State) : exec (.ldbt o) s = execLdbt o s := rfl
theorem exec_stbt o (s : State) : exec (.stbt o) s = execStbt o s := rfl
theorem exec_setbp o (s : State) : exec (.setbp o) s = execSetbp o s := rfl
theorem exec_call o (s : State) : exec (.call o) s = execCall o s := rfl
theorem exec_jmp disp (s : State) : exec (.jmp disp) s = execJmp disp s := rfl
theorem exec_jr o (s : State) : exec (.jr o) s = execJr o s := rfl
theorem exec_loopb o (s : State) : exec (.loopb o) s = execLoop o s := rfl
theorem exec_csrr o (s : State) : exec (.csrr o) s = execCsrr o s := rfl
theorem exec_csrw o (s : State) : exec (.csrw o) s = execCsrw o s := rfl
theorem exec_csrs o (s : State) : exec (.csrs o) s = execCsrs o s := rfl
theorem exec_csrc o (s : State) : exec (.csrc o) s = execCsrc o s := rfl
theorem exec_waitt a (s : State) : exec (.waitt a) s = execWaitt a s := rfl
theorem exec_waitph o (s : State) : exec (.waitph o) s = execWaitph o s := rfl
theorem exec_trap o (s : State) : exec (.trap o) s = execTrap o s := rfl
theorem exec_bz disp (s : State) : exec (.bz disp) s = execBz disp s := rfl
theorem exec_bnz disp (s : State) : exec (.bnz disp) s = execBnz disp s := rfl
theorem exec_bn disp (s : State) : exec (.bn disp) s = execBn disp s := rfl
theorem exec_bnn disp (s : State) : exec (.bnn disp) s = execBnn disp s := rfl
theorem exec_bp disp (s : State) : exec (.bp disp) s = execBp disp s := rfl
theorem exec_bnp disp (s : State) : exec (.bnp disp) s = execBnp disp s := rfl
theorem exec_bbs disp (s : State) : exec (.bbs disp) s = execBbs disp s := rfl
theorem exec_bbc disp (s : State) : exec (.bbc disp) s = execBbc disp s := rfl
theorem exec_bmany disp (s : State) : exec (.bmany disp) s = execBmany disp s := rfl
theorem exec_bmnone disp (s : State) : exec (.bmnone disp) s = execBmnone disp s := rfl
theorem exec_bal disp (s : State) : exec (.bal disp) s = execBal disp s := rfl
theorem exec_nop (s : State) : exec .nop s = execNop s := rfl
theorem exec_hret (s : State) : exec .hret s = execHret s := rfl
theorem exec_yield (s : State) : exec .yield s = execYield s := rfl
theorem exec_eret (s : State) : exec .eret s = execEret s := rfl
theorem exec_ueret (s : State) : exec .ueret s = execUeret s := rfl
theorem exec_ebreak (s : State) : exec .ebreak s = execEbreak s := rfl
theorem exec_wfe (s : State) : exec .wfe s = execWfe s := rfl
theorem exec_syncf (s : State) : exec .syncf s = execSyncf s := rfl
theorem exec_fenceFull sc (s : State) : exec (.fenceFull sc) s = execFenceFull sc s := rfl
theorem exec_fenceAcq sc (s : State) : exec (.fenceAcq sc) s = execFenceAcq sc s := rfl
theorem exec_fenceRel sc (s : State) : exec (.fenceRel sc) s = execFenceRel sc s := rfl
theorem exec_fenceEng sc (s : State) : exec (.fenceEng sc) s = execFenceEng sc s := rfl
theorem exec_amoadd o (s : State) : exec (.amoadd o) s = execAmoadd o s := rfl
theorem exec_amoand o (s : State) : exec (.amoand o) s = execAmoand o s := rfl
theorem exec_amoor o (s : State) : exec (.amoor o) s = execAmoor o s := rfl
theorem exec_amoxor o (s : State) : exec (.amoxor o) s = execAmoxor o s := rfl
theorem exec_amomin o (s : State) : exec (.amomin o) s = execAmomin o s := rfl
theorem exec_amomax o (s : State) : exec (.amomax o) s = execAmomax o s := rfl
theorem exec_amominn o (s : State) : exec (.amominn o) s = execAmominn o s := rfl
theorem exec_amomaxn o (s : State) : exec (.amomaxn o) s = execAmomaxn o s := rfl
theorem exec_amoswap o (s : State) : exec (.amoswap o) s = execAmoswap o s := rfl
theorem exec_cas o (s : State) : exec (.cas o) s = execCas o s := rfl
theorem exec_casq o (s : State) : exec (.casq o) s = execCasq o s := rfl
theorem exec_aaddz o (s : State) : exec (.aaddz o) s = execAaddz o s := rfl
theorem exec_pref o (s : State) : exec (.pref o) s = execPref o s := rfl
theorem exec_ringcfg q a (s : State) : exec (.ringcfg q a) s = execRingcfg q a s := rfl
theorem exec_ringadv q n (s : State) : exec (.ringadv q n) s = execRingadv q n s := rfl
theorem exec_ringpop q n (s : State) : exec (.ringpop q n) s = execRingpop q n s := rfl
theorem exec_ringq q (s : State) : exec (.ringq q) s = execRingq q s := rfl
theorem exec_send o (s : State) : exec (.send o) s = execSend o s := rfl
theorem exec_sendw o (s : State) : exec (.sendw o) s = execSendw o s := rfl
theorem exec_bar n l (s : State) : exec (.bar n l) s = execBar n l s := rfl
theorem exec_ared o (s : State) : exec (.ared o) s = execAred o s := rfl
theorem exec_qadd v (s : State) : exec (.qadd v) s = execQadd v s := rfl
theorem exec_qwait l (s : State) : exec (.qwait l) s = execQwait l s := rfl
theorem exec_halt (s : State) : exec .halt s = execHalt s := rfl
theorem exec_spawn o (s : State) : exec (.spawn o) s = execSpawn o s := rfl
theorem exec_launch o (s : State) : exec (.launch o) s = execLaunch o s := rfl
theorem exec_cpwait a (s : State) : exec (.cpwait a) s = execCpwait a s := rfl
theorem exec_cpq o (s : State) : exec (.cpq o) s = execCpq o s := rfl
theorem exec_cpabort a (s : State) : exec (.cpabort a) s = execCpabort a s := rfl
theorem exec_vadd o (s : State) : exec (.vadd o) s = execVadd o s := rfl
theorem exec_vsub o (s : State) : exec (.vsub o) s = execVsub o s := rfl
theorem exec_vmul o (s : State) : exec (.vmul o) s = execVmul o s := rfl
theorem exec_vfma o (s : State) : exec (.vfma o) s = execVfma o s := rfl
theorem exec_vfms o (s : State) : exec (.vfms o) s = execVfms o s := rfl
theorem exec_vdiv o (s : State) : exec (.vdiv o) s = execVdiv o s := rfl
theorem exec_vsqrt o (s : State) : exec (.vsqrt o) s = execVsqrt o s := rfl
theorem exec_vmin o (s : State) : exec (.vmin o) s = execVmin o s := rfl
theorem exec_vmax o (s : State) : exec (.vmax o) s = execVmax o s := rfl
theorem exec_vabs o (s : State) : exec (.vabs o) s = execVabs o s := rfl
theorem exec_vneg o (s : State) : exec (.vneg o) s = execVneg o s := rfl
theorem exec_vand o (s : State) : exec (.vand o) s = execVand o s := rfl
theorem exec_vor o (s : State) : exec (.vor o) s = execVor o s := rfl
theorem exec_vxor o (s : State) : exec (.vxor o) s = execVxor o s := rfl
theorem exec_vshl o (s : State) : exec (.vshl o) s = execVshl o s := rfl
theorem exec_vshr o (s : State) : exec (.vshr o) s = execVshr o s := rfl
theorem exec_vsar o (s : State) : exec (.vsar o) s = execVsar o s := rfl
theorem exec_vcmpeq o (s : State) : exec (.vcmpeq o) s = execVcmpeq o s := rfl
theorem exec_vcmplt o (s : State) : exec (.vcmplt o) s = execVcmplt o s := rfl
theorem exec_vcmple o (s : State) : exec (.vcmple o) s = execVcmple o s := rfl
theorem exec_vsel o (s : State) : exec (.vsel o) s = execVsel o s := rfl
theorem exec_vcvt o (s : State) : exec (.vcvt o) s = execVcvt o s := rfl
theorem exec_vpopc o (s : State) : exec (.vpopc o) s = execVpopc o s := rfl
theorem exec_vclmul o (s : State) : exec (.vclmul o) s = execVclmul o s := rfl
theorem exec_vpsum o (s : State) : exec (.vpsum o) s = execVpsum o s := rfl
theorem exec_vredadd o (s : State) : exec (.vredadd o) s = execVredadd o s := rfl
theorem exec_vredmin o (s : State) : exec (.vredmin o) s = execVredmin o s := rfl
theorem exec_vredmax o (s : State) : exec (.vredmax o) s = execVredmax o s := rfl
theorem exec_vbcast o (s : State) : exec (.vbcast o) s = execVbcast o s := rfl
theorem exec_vextr o (s : State) : exec (.vextr o) s = execVextr o s := rfl
theorem exec_vins o (s : State) : exec (.vins o) s = execVins o s := rfl
theorem exec_vperm o (s : State) : exec (.vperm o) s = execVperm o s := rfl
theorem exec_vcompr o (s : State) : exec (.vcompr o) s = execVcompr o s := rfl
theorem exec_vexpd o (s : State) : exec (.vexpd o) s = execVexpd o s := rfl
theorem exec_mkand o (s : State) : exec (.mkand o) s = execMkand o s := rfl
theorem exec_mkor o (s : State) : exec (.mkor o) s = execMkor o s := rfl
theorem exec_mkxor o (s : State) : exec (.mkxor o) s = execMkxor o s := rfl
theorem exec_mknot o (s : State) : exec (.mknot o) s = execMknot o s := rfl
theorem exec_mkpopc o (s : State) : exec (.mkpopc o) s = execMkpopc o s := rfl
theorem exec_mkfirst o (s : State) : exec (.mkfirst o) s = execMkfirst o s := rfl
theorem exec_mkset o (s : State) : exec (.mkset o) s = execMkset o s := rfl
theorem exec_mkget o (s : State) : exec (.mkget o) s = execMkget o s := rfl
theorem exec_vld o (s : State) : exec (.vld o) s = execVld o s := rfl
theorem exec_vst o (s : State) : exec (.vst o) s = execVst o s := rfl
theorem exec_vlds o (s : State) : exec (.vlds o) s = execVlds o s := rfl
theorem exec_vsts o (s : State) : exec (.vsts o) s = execVsts o s := rfl
theorem exec_vgath o (s : State) : exec (.vgath o) s = execVgath o s := rfl
theorem exec_vscat o (s : State) : exec (.vscat o) s = execVscat o s := rfl
theorem exec_vldbt o (s : State) : exec (.vldbt o) s = execVldbt o s := rfl
theorem exec_vtopk o (s : State) : exec (.vtopk o) s = execVtopk o s := rfl
theorem exec_vprune o (s : State) : exec (.vprune o) s = execVprune o s := rfl
theorem exec_vcbexp o (s : State) : exec (.vcbexp o) s = execVcbexp o s := rfl
theorem exec_vrng m d (s : State) : exec (.vrng m d) s = execVrng m d s := rfl
theorem exec_vclaim two (s : State) : exec (.vclaim two) s = execVclaim two s := rfl
theorem exec_vgive slotB rcv (s : State) : exec (.vgive slotB rcv) s = execVgive slotB rcv s := rfl
theorem exec_vtake (s : State) : exec .vtake s = execVtake s := rfl
theorem exec_sbind o (s : State) : exec (.sbind o) s = execSbind o s := rfl
theorem exec_sunbind n (s : State) : exec (.sunbind n) s = execSunbind n s := rfl
theorem exec_mprobe o (s : State) : exec (.mprobe o) s = execMprobe o s := rfl
theorem exec_mins o (s : State) : exec (.mins o) s = execMins o s := rfl
theorem exec_mups o (s : State) : exec (.mups o) s = execMups o s := rfl
theorem exec_mrem o (s : State) : exec (.mrem o) s = execMrem o s := rfl
theorem exec_minit o (s : State) : exec (.minit o) s = execMinit o s := rfl
theorem exec_mgrow o (s : State) : exec (.mgrow o) s = execMgrow o s := rfl
theorem exec_mstep o (s : State) : exec (.mstep o) s = execMstep o s := rfl
theorem exec_mstat d o (s : State) : exec (.mstat d o) s = execMstat d o s := rfl
theorem exec_miter o (s : State) : exec (.miter o) s = execMiter o s := rfl
theorem exec_mxlease arr n (s : State) : exec (.mxlease arr n) s = execMxlease arr n s := rfl
theorem exec_mxfree banks (s : State) : exec (.mxfree banks) s = execMxfree banks s := rfl
theorem exec_mxzero bank (s : State) : exec (.mxzero bank) s = execMxzero bank s := rfl
theorem exec_mxmul o (s : State) : exec (.mxmul o) s = execMxmul o s := rfl
theorem exec_mxmulr o (s : State) : exec (.mxmulr o) s = execMxmulr o s := rfl
theorem exec_mxst o (s : State) : exec (.mxst o) s = execMxst o s := rfl
theorem exec_mxldc o (s : State) : exec (.mxldc o) s = execMxldc o s := rfl
theorem exec_mxlset d v (s : State) : exec (.mxlset d v) s = execMxlset d v s := rfl
theorem exec_rowact o (s : State) : exec (.rowact o) s = execRowact o s := rfl
theorem exec_rowtake k (s : State) : exec (.rowtake k) s = execRowtake k s := rfl
theorem exec_rowclose k (s : State) : exec (.rowclose k) s = execRowclose k s := rfl
theorem exec_rowq d k (s : State) : exec (.rowq d k) s = execRowq d k s := rfl
theorem exec_tinvAddr sc a (s : State) : exec (.tinvAddr sc a) s = execTinvAddr sc a s := rfl
theorem exec_tinvSpace sc a (s : State) : exec (.tinvSpace sc a) s = execTinvSpace sc a s := rfl
theorem exec_tinvAddrall sc a (s : State) : exec (.tinvAddrall sc a) s = execTinvAddrall sc a s := rfl
theorem exec_tinvAll sc a (s : State) : exec (.tinvAll sc a) s = execTinvAll sc a s := rfl
theorem exec_keyld o (s : State) : exec (.keyld o) s = execKeyld o s := rfl
theorem exec_keyldClr d (s : State) : exec (.keyldClr d) s = execKeyldClr d s := rfl
theorem exec_ctxsave o (s : State) : exec (.ctxsave o) s = execCtxsave o s := rfl
theorem exec_ctxload o (s : State) : exec (.ctxload o) s = execCtxload o s := rfl
theorem exec_evict o (s : State) : exec (.evict o) s = execEvict o s := rfl
theorem exec_evictDrop d (s : State) : exec (.evictDrop d) s = execEvictDrop d s := rfl
theorem exec_resume d (s : State) : exec (.resume d) s = execResume d s := rfl
theorem exec_resumeXfer o (s : State) : exec (.resumeXfer o) s = execResumeXfer o s := rfl
theorem exec_migr whole o (s : State) : exec (.migr whole o) s = execMigr whole o s := rfl
theorem exec_migrForce whole o (s : State) : exec (.migrForce whole o) s = execMigrForce whole o s := rfl
theorem exec_split o (s : State) : exec (.split o) s = execSplit o s := rfl
theorem exec_cpgoRead d (s : State) : exec (.cpgoRead d) s = execCpgoRead d s := rfl
theorem exec_mbtabWrite k d (s : State) : exec (.mbtabWrite k d) s = execMbtabWrite k d s := rfl
theorem exec_faultqHeadWrite k d (s : State) : exec (.faultqHeadWrite k d) s = execFaultqHeadWrite k d s := rfl
theorem exec_waittExpiry (s : State) : exec .waittExpiry s = execWaittExpiry s := rfl
theorem exec_quiescenceCollection (s : State) : exec .quiescenceCollection s = execQuiescenceCollection s := rfl
theorem exec_octetGrant (s : State) : exec .octetGrant s = execOctetGrant s := rfl
theorem exec_streamFetch (s : State) : exec .streamFetch s = execStreamFetch s := rfl
theorem exec_streamWrite (s : State) : exec .streamWrite s = execStreamWrite s := rfl
theorem exec_mapHomeExecution (s : State) : exec .mapHomeExecution s = execMapHomeExecution s := rfl
theorem exec_arrayCommand (s : State) : exec .arrayCommand s = execArrayCommand s := rfl
theorem exec_activationSense (s : State) : exec .activationSense s = execActivationSense s := rfl
theorem exec_rowReady (s : State) : exec .rowReady s = execRowReady s := rfl
theorem exec_rowExpiry (s : State) : exec .rowExpiry s = execRowExpiry s := rfl
theorem exec_latchValid (s : State) : exec .latchValid s = execLatchValid s := rfl
theorem exec_bankRelease (s : State) : exec .bankRelease s = execBankRelease s := rfl
theorem exec_prechargeEnd (s : State) : exec .prechargeEnd s = execPrechargeEnd s := rfl
theorem exec_refreshDue (s : State) : exec .refreshDue s = execRefreshDue s := rfl
theorem exec_refreshBlackoutEnd (s : State) : exec .refreshBlackoutEnd s = execRefreshBlackoutEnd s := rfl
theorem exec_vaultAccess (s : State) : exec .vaultAccess s = execVaultAccess s := rfl
theorem exec_scratchpadGrant (s : State) : exec .scratchpadGrant s = execScratchpadGrant s := rfl
theorem exec_remoteAccess (s : State) : exec .remoteAccess s = execRemoteAccess s := rfl
theorem exec_storePerform (s : State) : exec .storePerform s = execStorePerform s := rfl
theorem exec_copyChunk (s : State) : exec .copyChunk s = execCopyChunk s := rfl
theorem exec_promiseExpiry (s : State) : exec .promiseExpiry s = execPromiseExpiry s := rfl
theorem exec_messageAdmit (s : State) : exec .messageAdmit s = execMessageAdmit s := rfl
theorem exec_spillwayMove (s : State) : exec .spillwayMove s = execSpillwayMove s := rfl
theorem exec_eventMessage (s : State) : exec .eventMessage s = execEventMessage s := rfl
theorem exec_dispatch (s : State) : exec .dispatch s = execDispatch s := rfl
theorem exec_activeGather (s : State) : exec .activeGather s = execActiveGather s := rfl
theorem exec_activeScatter (s : State) : exec .activeScatter s = execActiveScatter s := rfl
theorem exec_hostQueueWrite (s : State) : exec .hostQueueWrite s = execHostQueueWrite s := rfl
theorem exec_hqptrHeadWrite (s : State) : exec .hqptrHeadWrite s = execHqptrHeadWrite s := rfl
theorem exec_launchRecord (s : State) : exec .launchRecord s = execLaunchRecord s := rfl
theorem exec_launchPlace (s : State) : exec .launchPlace s = execLaunchPlace s := rfl
theorem exec_launchRetire (s : State) : exec .launchRetire s = execLaunchRetire s := rfl
theorem exec_lqkick (s : State) : exec .lqkick s = execLqkick s := rfl
theorem exec_launchSlotDecide (s : State) : exec .launchSlotDecide s = execLaunchSlotDecide s := rfl
theorem exec_launchSlotReread (s : State) : exec .launchSlotReread s = execLaunchSlotReread s := rfl
theorem exec_lqcfgEnable (s : State) : exec .lqcfgEnable s = execLqcfgEnable s := rfl
theorem exec_hqcfgEnable (s : State) : exec .hqcfgEnable s = execHqcfgEnable s := rfl
theorem exec_retentionExpiry (s : State) : exec .retentionExpiry s = execRetentionExpiry s := rfl
theorem exec_ptsplitPush (s : State) : exec .ptsplitPush s = execPtsplitPush s := rfl
theorem exec_ptsplitReplace (s : State) : exec .ptsplitReplace s = execPtsplitReplace s := rfl
theorem exec_partitionCreate (s : State) : exec .partitionCreate s = execPartitionCreate s := rfl
theorem exec_partitionDestroy (s : State) : exec .partitionDestroy s = execPartitionDestroy s := rfl
theorem exec_swapOut (s : State) : exec .swapOut s = execSwapOut s := rfl
theorem exec_swapOutSave (s : State) : exec .swapOutSave s = execSwapOutSave s := rfl
theorem exec_swapIn (s : State) : exec .swapIn s = execSwapIn s := rfl
theorem exec_mrExtend (s : State) : exec .mrExtend s = execMrExtend s := rfl
theorem exec_registerWrite (s : State) : exec .registerWrite s = execRegisterWrite s := rfl
theorem exec_linkReplay (s : State) : exec .linkReplay s = execLinkReplay s := rfl
theorem exec_linkRetrain (s : State) : exec .linkRetrain s = execLinkRetrain s := rfl
theorem exec_linkDown (s : State) : exec .linkDown s = execLinkDown s := rfl
theorem exec_escapeMode (s : State) : exec .escapeMode s = execEscapeMode s := rfl
theorem exec_hostWrite (s : State) : exec .hostWrite s = execHostWrite s := rfl
theorem exec_hostRead (s : State) : exec .hostRead s = execHostRead s := rfl
theorem exec_hostUnsupported (s : State) : exec .hostUnsupported s = execHostUnsupported s := rfl
theorem exec_hostRequestTimeout (s : State) : exec .hostRequestTimeout s = execHostRequestTimeout s := rfl
theorem exec_powerManagerEval (s : State) : exec .powerManagerEval s = execPowerManagerEval s := rfl
theorem exec_temperatureThreshold (s : State) : exec .temperatureThreshold s = execTemperatureThreshold s := rfl
theorem exec_packageReset (s : State) : exec .packageReset s = execPackageReset s := rfl
theorem exec_dramTrainingDone (s : State) : exec .dramTrainingDone s = execDramTrainingDone s := rfl
theorem exec_getreport (s : State) : exec .getreport s = execGetreport s := rfl
theorem exec_setlc (s : State) : exec .setlc s = execSetlc s := rfl
theorem exec_status (s : State) : exec .status s = execStatus s := rfl
theorem exec_mwaitExpiry (s : State) : exec .mwaitExpiry s = execMwaitExpiry s := rfl
theorem exec_successfulRetrain (s : State) : exec .successfulRetrain s = execSuccessfulRetrain s := rfl
theorem exec_laneTraining (s : State) : exec .laneTraining s = execLaneTraining s := rfl
theorem exec_hostCompletion (s : State) : exec .hostCompletion s = execHostCompletion s := rfl
theorem exec_clusterSetWrite (s : State) : exec .clusterSetWrite s = execClusterSetWrite s := rfl

end Sys2Proof.Machine
end

