-- ==== Sys2Proof/Laws/Memory.lean ====
section
/-! SUPPORT. The memory list: what a read gives after each operation, that each operation keeps the canonical form, and
that equal readings of canonical memories are equal lists. -/

namespace Sys2Proof.Machine

/-! ## Reading -/

@[simp] theorem Mem.get_nil (a : Nat) : Mem.get [] a = 0 := rfl

theorem Mem.get_cons (k : Nat) (b : Byte) (m : Mem) (a : Nat) :
    Mem.get ((k, b) :: m) a = if k = a then b else Mem.get m a := by simp [Mem.get]

theorem Mem.get_filter (m : Mem) (p : Nat → Bool) (a : Nat) :
    Mem.get (m.filter fun c => p c.1) a = if p a then Mem.get m a else 0 := by
  induction m with
  | nil => simp
  | cons c m ih => grind [Mem.get_cons]

theorem Mem.get_erase (m : Mem) (a b : Nat) : Mem.get (Mem.erase m a) b = if b = a then 0 else Mem.get m b := by
  have h := Mem.get_filter m (fun k => k != a) b
  by_cases e : b = a <;> simp_all [Mem.erase]

theorem Mem.get_wipe (m : Mem) (p : Nat → Bool) (a : Nat) :
    Mem.get (Mem.wipe m p) a = if p a then 0 else Mem.get m a := by
  have h := Mem.get_filter m (fun k => !p k) a
  by_cases e : p a <;> simp_all [Mem.wipe]

theorem Mem.get_insert (m : Mem) (a b : Nat) (v : Byte) :
    Mem.get (Mem.insert m a v) b = if b = a then v else Mem.get m b := by
  fun_induction Mem.insert m a v <;> grind [Mem.get]

theorem Mem.put_zero (m : Mem) (a : Nat) : Mem.put m a 0 = Mem.erase m a := rfl
theorem Mem.put_ne (m : Mem) (a : Nat) {v : Byte} (e : v ≠ 0) : Mem.put m a v = Mem.insert m a v :=
  if_neg (by simpa only [beq_iff_eq] using e)

/-- A read after a write: the byte written there, the old one anywhere else. -/
@[simp] theorem Mem.get_put (m : Mem) (a b : Nat) (v : Byte) :
    Mem.get (Mem.put m a v) b = if b = a then v else Mem.get m b := by
  by_cases e : v = 0
  · rw [e, Mem.put_zero, Mem.get_erase]
  · rw [Mem.put_ne m a e, Mem.get_insert]

theorem Mem.get_puts (bs : List Byte) : ∀ (m : Mem) (a b : Nat),
    Mem.get (Mem.puts m a bs) b = if a ≤ b ∧ b < a + bs.length then bs.getD (b - a) 0 else Mem.get m b := by
  induction bs with
  | nil => intro m a b; grind [Mem.puts]
  | cons x bs ih => intro m a b; rw [Mem.puts, ih, Mem.get_put]; grind

/-! ## The canonical form -/

/-- The canonical form as a relation between neighbours. -/
theorem Mem.wfFrom_iff (m : Mem) : ∀ lo : Option Nat, Mem.wfFrom lo m = true ↔
    (m.map (·.1)).Pairwise (· < ·) ∧ (∀ c ∈ m, c.2 ≠ 0) ∧ ∀ l, lo = some l → ∀ c ∈ m, l < c.1 := by
  induction m with
  | nil => simp [Mem.wfFrom]
  | cons c m ih =>
    intro lo
    simp only [Mem.wfFrom, Bool.and_eq_true, ih, List.map_cons, List.pairwise_cons, List.forall_mem_cons, List.forall_mem_map]
    cases lo <;> grind

theorem Mem.wf_iff (m : Mem) : Mem.wf m = true ↔ (m.map (·.1)).Pairwise (· < ·) ∧ ∀ c ∈ m, c.2 ≠ 0 := by
  simp [Mem.wf, Mem.wfFrom_iff]

theorem Mem.wf_filter (m : Mem) (p : Host.Cell → Bool) (h : Mem.wf m = true) : Mem.wf (m.filter p) = true := by
  rw [Mem.wf_iff] at *
  exact ⟨h.1.sublist (List.filter_sublist.map _), fun c hc => h.2 c (List.mem_filter.1 hc).1⟩

theorem Mem.wf_wipe (m : Mem) (p : Nat → Bool) (h : Mem.wf m = true) : Mem.wf (Mem.wipe m p) = true := Mem.wf_filter _ _ h
theorem Mem.wf_erase (m : Mem) (a : Nat) (h : Mem.wf m = true) : Mem.wf (Mem.erase m a) = true := Mem.wf_filter _ _ h

/-- An insertion brings in no entry but its own. -/
theorem Mem.mem_insert (m : Mem) (a : Nat) (v : Byte) : ∀ c ∈ Mem.insert m a v, c = (a, v) ∨ c ∈ m := by
  fun_induction Mem.insert m a v <;> grind

theorem Mem.wf_insert (m : Mem) (a : Nat) (v : Byte) (hv : v ≠ 0) (h : Mem.wf m = true) :
    Mem.wf (Mem.insert m a v) = true := by
  rw [Mem.wf_iff] at *
  have new := Mem.mem_insert m a v
  refine ⟨?_, fun c hc => by have := new c hc; grind⟩
  obtain ⟨hp, -⟩ := h
  have new := Mem.mem_insert
  fun_induction Mem.insert m a v <;>
    simp only [List.map_cons, List.pairwise_cons, List.forall_mem_map, List.forall_mem_cons, List.map_nil] at * <;> grind

theorem Mem.wf_put (m : Mem) (a : Nat) (v : Byte) (h : Mem.wf m = true) : Mem.wf (Mem.put m a v) = true := by
  by_cases e : v = 0
  · rw [e, Mem.put_zero]; exact Mem.wf_erase m a h
  · rw [Mem.put_ne m a e]; exact Mem.wf_insert m a v e h

theorem Mem.wf_puts (bs : List Byte) : ∀ (m : Mem) (a : Nat), Mem.wf m = true → Mem.wf (Mem.puts m a bs) = true := by
  induction bs with
  | nil => exact fun m _ h => h
  | cons b bs ih => exact fun m a h => ih _ _ (Mem.wf_put m a b h)

theorem Mem.wf_foldl_put (cs : List Host.Cell) : ∀ m : Mem, Mem.wf m = true →
    Mem.wf (cs.foldl (fun m c => Mem.put m c.1 c.2) m) = true := by
  induction cs with
  | nil => exact fun m h => h
  | cons c cs ih => exact fun m h => ih _ (Mem.wf_put m c.1 c.2 h)

/-- An entry below every key reads as nothing. -/
theorem Mem.get_below (m : Mem) (a : Nat) (h : ∀ c ∈ m, a < c.1) : Mem.get m a = 0 := by
  induction m with
  | nil => rfl
  | cons c m ih => grind [Mem.get_cons]

/-- The canonical form is one form: canonical memories that read alike are equal. -/
theorem Mem.ext_of_wf (m n : Mem) (hm : Mem.wf m = true) (hn : Mem.wf n = true) (h : ∀ a, Mem.get m a = Mem.get n a) :
    m = n := by
  rw [Mem.wf_iff] at hm hn
  induction m generalizing n with
  | nil =>
    cases n with
    | nil => rfl
    | cons c n =>
      obtain ⟨k, b⟩ := c
      have := h k
      simp [Mem.get_cons] at this
      exact absurd this.symm (hn.2 (k, b) List.mem_cons_self)
  | cons c m ih =>
    obtain ⟨k, b⟩ := c
    have hb : b ≠ 0 := hm.2 (k, b) List.mem_cons_self
    simp only [List.map_cons, List.pairwise_cons, List.mem_map] at hm
    have hkm : ∀ c ∈ m, k < c.1 := fun c hc => hm.1.1 _ ⟨c, hc, rfl⟩
    cases n with
    | nil =>
      have := h k
      simp [Mem.get_cons] at this
      exact absurd this hb
    | cons d n =>
      obtain ⟨l, x⟩ := d
      have hx : x ≠ 0 := hn.2 (l, x) List.mem_cons_self
      simp only [List.map_cons, List.pairwise_cons, List.mem_map] at hn
      have hln : ∀ c ∈ n, l < c.1 := fun c hc => hn.1.1 _ ⟨c, hc, rfl⟩
      have e : k = l := by
        rcases Nat.lt_trichotomy k l with g | g | g
        · have := h k
          rw [Mem.get_cons, if_pos rfl, Mem.get_cons, if_neg (by omega), Mem.get_below n k fun c hc => by
            have := hln c hc; omega] at this
          exact absurd this hb
        · exact g
        · have := h l
          rw [Mem.get_cons, if_neg (by omega), Mem.get_below m l fun c hc => by have := hkm c hc; omega,
            Mem.get_cons, if_pos rfl] at this
          exact absurd this.symm hx
      subst e
      have e : b = x := by simpa [Mem.get_cons] using h k
      subst e
      congr 1
      refine ih n ⟨hm.1.2, fun c hc => hm.2 c (List.mem_cons_of_mem _ hc)⟩
        ⟨hn.1.2, fun c hc => hn.2 c (List.mem_cons_of_mem _ hc)⟩ fun a => ?_
      have ha := h a
      rw [Mem.get_cons, Mem.get_cons] at ha
      by_cases g : k = a
      · subst g; rw [Mem.get_below m k hkm, Mem.get_below n k hln]
      · rwa [if_neg g, if_neg g] at ha

/-! ## The operations of the machine over memory -/

@[simp] theorem State.rekey_mem_only (s : State) (q : Option (BitVec 512)) (a : Nat) :
    { s.rekey q a with mem := s.mem, encUnits := s.encUnits } = s := by
  unfold State.rekey; split <;> rfl

theorem State.rekey_canonical (s : State) (q : Option (BitVec 512)) (a : Nat) (h : s.Canonical) : (s.rekey q a).Canonical := by
  unfold State.rekey; split
  · exact h
  · exact Mem.wf_puts _ _ _ h

theorem State.shadowWrite_mem (s : State) (a : Nat) : (s.shadowWrite a).mem = s.mem := by
  unfold State.shadowWrite; repeat' split
  all_goals rfl

theorem State.writeByte_canonical (s : State) (enc : Option (BitVec 12)) (a : Nat) (v : Byte) (h : s.Canonical) :
    (s.writeByte enc a v).Canonical := by
  refine Mem.wf_put _ a v ?_
  rw [State.shadowWrite_mem]
  exact s.rekey_canonical _ a h

theorem State.writeBytes_canonical (bs : List Byte) : ∀ (s : State) (enc : Option (BitVec 12)) (a : Nat), s.Canonical →
    (s.writeBytes enc a bs).Canonical := by
  induction bs with
  | nil => exact fun _ _ _ h => h
  | cons b bs ih => exact fun s enc a h => ih _ enc _ (s.writeByte_canonical enc a b h)

/-- The memory right after reset is canonical. -/
theorem State.reset_canonical : State.reset.Canonical := rfl

end Sys2Proof.Machine
end

