-- ==== Sys2Proof/Tests/Slice0.lean ====
section
/-! SUPPORT. Tests: words and the instructions they stand for, ill-formed instructions, single steps of small states, and for
every statement with hypotheses a state that meets them. Expected results come from the rules of spec/ and their examples. -/

set_option Elab.async false

namespace Sys2Proof.Machine.Tests

open Sys2Proof

/-! ## Words written out from the encoding

The words stand for the templates of R164 to R166 and the tables of R183 and R185; those of the spec's own examples are marked
with their rule. Every instruction that has an encoding stands here once. -/

/-- The words decode to the instruction, all of them, with no marker; and the instruction is well formed. -/
def reads (x : List Half × Instr) : Bool :=
  (match decodeWords x.1 with | .ok k => k.instr == x.2 && k.len == x.1.length && !k.marker | .error _ => false) && x.2.wf

theorem test_words_arith_1 : ([
    ([0x74A0, 0x0312], .add ⟨1, 2, .reg 40⟩),
    ([0x71F0, 0x0412], .sub ⟨1, 2, .imm (-16)⟩),
    ([0x7308, 0x0512], .and3 ⟨65, 18, .none⟩),
    ([0x74A0, 0x0612], .or3 ⟨1, 2, .reg 40⟩),
    ([0x71F0, 0x0712], .xor3 ⟨1, 2, .imm (-16)⟩),
    ([0x7308, 0x0812], .andn ⟨65, 18, .none⟩),
    ([0x74A0, 0x0912], .shl ⟨1, 2, .reg 40⟩),
    ([0x71F0, 0x0A12], .shr ⟨1, 2, .imm (-16)⟩),
    ([0x7308, 0x0B12], .sar ⟨65, 18, .none⟩),
    ([0x74A0, 0x0C12], .rol ⟨1, 2, .reg 40⟩),
    ([0x71F0, 0x0D12], .mul ⟨1, 2, .imm (-16)⟩),
    ([0x7308, 0x0E12], .mulh ⟨65, 18, .none⟩),
    ([0x74A0, 0x0F12], .mulhn ⟨1, 2, .reg 40⟩),
    ([0x71F0, 0x1012], .sdiv ⟨1, 2, .imm (-16)⟩),
    ([0x7308, 0x1112], .divn ⟨65, 18, .none⟩),
    ([0x74A0, 0x1212], .rem ⟨1, 2, .reg 40⟩),
    ([0x71F0, 0x1312], .remn ⟨1, 2, .imm 496⟩),
    ([0x7308, 0x1412], .min ⟨65, 18, .none⟩)] :
    List (List Half × Instr)).all reads = true := by decide +kernel

theorem test_words_arith_2 : ([
    ([0x74A0, 0x1512], .max ⟨1, 2, .reg 40⟩),
    ([0x71F0, 0x1612], .minn ⟨1, 2, .imm 496⟩),
    ([0x7308, 0x1712], .maxn ⟨65, 18, .none⟩),
    ([0x74A0, 0x1812], .slt ⟨1, 2, .reg 40⟩),
    ([0x71F0, 0x1912], .sltn ⟨1, 2, .imm 496⟩),
    ([0x7308, 0x1A12], .seq ⟨65, 18, .none⟩),
    ([0x74A0, 0x1B12], .sel ⟨1, 2, .reg 40⟩),
    ([0x0079], .ill),
    ([0x7260, 0x0112], .mov ⟨17, 66⟩),
    ([0x7001, 0x7123, 0x02C4], .movi ⟨12, 0x3234⟩),
    ([0x1C12], .clz ⟨1, 2⟩),
    ([0x1D12], .ctz ⟨1, 2⟩),
    ([0x1E12], .popc ⟨1, 2⟩),
    ([0x7009, 0x1F12], .sext ⟨1, 2, .imm 9⟩),
    ([0x700A, 0x2012], .zext ⟨1, 2, .imm 10⟩),
    ([0x700B, 0x2112], .bfx ⟨1, 2, .imm 11⟩),
    ([0x700C, 0x2212], .bfi ⟨1, 2, .imm 12⟩),
    ([0x2312], .bswap ⟨1, 2⟩)] :
    List (List Half × Instr)).all reads = true := by decide +kernel

theorem test_words_arith_3 : ([
    ([0x740C, 0x2412], .crd ⟨1, 2, .reg 3⟩),
    ([0x71FF, 0x2512], .self ⟨1, 2, some (-1)⟩),
    ([0x741C, 0x2612], .clmul ⟨1, 2, .reg 7⟩),
    ([0x2712], .clmulh ⟨1, 2, .none⟩)] :
    List (List Half × Instr)).all reads = true := by decide +kernel

theorem test_words_memory_1 : ([
    ([0x760B, 0x7414, 0x2823], .ld1s ⟨2, 3, .reg 5, 1, 3⟩),
    ([0x760B, 0x7414, 0x2923], .ld1n ⟨2, 3, .reg 5, 1, 3⟩),
    ([0x760B, 0x7414, 0x2A23], .ld2s ⟨2, 3, .reg 5, 1, 3⟩),
    ([0x760B, 0x7414, 0x2B23], .ld2n ⟨2, 3, .reg 5, 1, 3⟩),
    ([0x760B, 0x7414, 0x2C23], .ld4s ⟨2, 3, .reg 5, 1, 3⟩),
    ([0x760B, 0x7414, 0x2D23], .ld4n ⟨2, 3, .reg 5, 1, 3⟩),
    ([0x760B, 0x7414, 0x2E23], .ld8 ⟨2, 3, .reg 5, 1, 3⟩),
    ([0x760B, 0x7414, 0x2F23], .ld16 ⟨2, 3, .reg 5, 1, 3⟩),
    ([0x7614, 0x71F8, 0x3023], .st1 ⟨2, 3, .imm (-8), 2, 4⟩),
    ([0x7614, 0x71F8, 0x3123], .st2 ⟨2, 3, .imm (-8), 2, 4⟩),
    ([0x7614, 0x71F8, 0x3223], .st4 ⟨2, 3, .imm (-8), 2, 4⟩),
    ([0x7614, 0x71F8, 0x3323], .st8 ⟨2, 3, .imm (-8), 2, 4⟩),
    ([0x7614, 0x71F8, 0x3423], .st16 ⟨2, 3, .imm (-8), 2, 4⟩),
    ([0x7006, 0x3550], .ldbt ⟨5, .imm 6, 0, 0⟩),
    ([0x3656], .stbt ⟨5, .reg 6, 0, 0⟩),
    ([0x374D], .setbp ⟨4, 13, 0⟩),
    ([0x763A, 0x7418, 0x7008, 0x0145], .amoadd ⟨4, 5, some 6, 8, 3, 2⟩),
    ([0x763A, 0x7418, 0x7008, 0x0245], .amoand ⟨4, 5, some 6, 8, 3, 2⟩)] :
    List (List Half × Instr)).all reads = true := by decide +kernel

theorem test_words_memory_2 : ([
    ([0x763A, 0x7418, 0x7008, 0x0345], .amoor ⟨4, 5, some 6, 8, 3, 2⟩),
    ([0x763A, 0x7418, 0x7008, 0x0445], .amoxor ⟨4, 5, some 6, 8, 3, 2⟩),
    ([0x763A, 0x7418, 0x7008, 0x0545], .amomin ⟨4, 5, some 6, 8, 3, 2⟩),
    ([0x763A, 0x7418, 0x7008, 0x0645], .amomax ⟨4, 5, some 6, 8, 3, 2⟩),
    ([0x763A, 0x7418, 0x7008, 0x0745], .amominn ⟨4, 5, some 6, 8, 3, 2⟩),
    ([0x763A, 0x7418, 0x7008, 0x0845], .amomaxn ⟨4, 5, some 6, 8, 3, 2⟩),
    ([0x763A, 0x7418, 0x7008, 0x0945], .amoswap ⟨4, 5, some 6, 8, 3, 2⟩),
    ([0x762D, 0x7418, 0x0A48], .cas ⟨4, 8, 6, 1, 5⟩),
    ([0x762D, 0x7418, 0x0B48], .casq ⟨4, 8, 6, 1, 5⟩),
    ([0x7620, 0x0C45], .aaddz ⟨4, 5, none, 0, 0, 0⟩),
    ([0x7620, 0x7020, 0x0D15], .pref ⟨true, 5, 32⟩),
    ([0x7620, 0x0E35], .ringcfg 3 5),
    ([0x7620, 0x7040, 0x0F30], .ringadv 3 64),
    ([0x7620, 0x1030], .ringpop 3 1),
    ([0x7620, 0x1190], .ringq 9)] :
    List (List Half × Instr)).all reads = true := by decide +kernel

theorem test_words_control_1 : ([
    ([0x383E], .call ⟨3, -2⟩),
    ([0x7010, 0x3905], .jmp 261),
    ([0x3A12], .jr ⟨1, 2⟩),
    ([0x3B4D], .loopb ⟨4, -3⟩),
    ([0x7040, 0x3C21], .csrr ⟨2, 0x401⟩),
    ([0x7040, 0x3D21], .csrw ⟨2, 0x401⟩),
    ([0x7040, 0x3E21], .csrs ⟨2, 0x401⟩),
    ([0x7040, 0x3F21], .csrc ⟨2, 0x401⟩),
    ([0x4002], .waitt 2),
    ([0x7000, 0x4112], .waitph ⟨1, 2, false⟩),
    ([0x702A, 0x4203], .trap ⟨3, 42⟩),
    ([0x6080], .bz (-128)),
    ([0x6181], .bnz (-127)),
    ([0x6282], .bn (-126)),
    ([0x6383], .bnn (-125)),
    ([0x6484], .bp (-124)),
    ([0x6585], .bnp (-123)),
    ([0x6686], .bbs (-122))] :
    List (List Half × Instr)).all reads = true := by decide +kernel

theorem test_words_control_2 : ([
    ([0x6787], .bbc (-121)),
    ([0x6888], .bmany (-120)),
    ([0x6989], .bmnone (-119)),
    ([0x7001, 0x6F04], .bal 260),
    ([0x7800], .nop),
    ([0x7801], .hret),
    ([0x7802], .yield),
    ([0x7803], .eret),
    ([0x7804], .ueret),
    ([0x7805], .ebreak),
    ([0x7806], .wfe),
    ([0x7807], .syncf),
    ([0x7901], .fenceFull 1),
    ([0x7942], .fenceAcq 2),
    ([0x7983], .fenceRel 3),
    ([0x79C4], .fenceEng 4),
    ([0x7003, 0x3C25], .cpgoRead 2),
    ([0x7002, 0x3D24], .mbtabWrite .write 2)] :
    List (List Half × Instr)).all reads = true := by decide +kernel

theorem test_words_control_3 : ([
    ([0x7042, 0x3F20], .faultqHeadWrite .clear 2)] :
    List (List Half × Instr)).all reads = true := by decide +kernel

theorem test_words_messages : ([
    ([0x7640, 0x010F], .send ⟨0, 15⟩),
    ([0x7640, 0x025F], .sendw ⟨5, 15⟩),
    ([0x7640, 0x7027, 0x0300], .bar 7 2),
    ([0x7640, 0x71FF, 0x0500], .qadd (.imm (-1))),
    ([0x7640, 0x7003, 0x0600], .qwait (some 3)),
    ([0x7640, 0x0700], .halt),
    ([0x7640, 0x7418, 0x0845], .spawn ⟨4, 5, 6⟩),
    ([0x7640, 0x7418, 0x0945], .launch ⟨4, 5, some 6⟩),
    ([0x7640, 0x0A05], .cpwait 5),
    ([0x7640, 0x0B45], .cpq ⟨4, 5⟩),
    ([0x7640, 0x0C05], .cpabort 5),
    ([0x7650, 0x7009, 0x70B6, 0x0409], .ared ⟨2, 9, 6, 3, 5, 2⟩)] :
    List (List Half × Instr)).all reads = true := by decide +kernel

theorem test_words_vector_1 : ([
    ([0x7672, 0x728D, 0x7488, 0x0112], .vadd ⟨2, true, 5, 33, 18, .reg 34⟩),
    ([0x7672, 0x728D, 0x7488, 0x0212], .vsub ⟨2, true, 5, 33, 18, .reg 34⟩),
    ([0x7672, 0x728D, 0x7488, 0x0312], .vmul ⟨2, true, 5, 33, 18, .reg 34⟩),
    ([0x7672, 0x728D, 0x7488, 0x0412], .vfma ⟨2, true, 5, 33, 18, .reg 34⟩),
    ([0x7672, 0x728D, 0x7488, 0x0512], .vfms ⟨2, true, 5, 33, 18, .reg 34⟩),
    ([0x7662, 0x728D, 0x7488, 0x0612], .vdiv ⟨2, false, 5, 33, 18, .reg 34⟩),
    ([0x7668, 0x728D, 0x0712], .vsqrt ⟨8, false, 5, 33, 18⟩),
    ([0x7662, 0x728D, 0x7488, 0x0812], .vmin ⟨2, false, 5, 33, 18, .reg 34⟩),
    ([0x7662, 0x728D, 0x7488, 0x0912], .vmax ⟨2, false, 5, 33, 18, .reg 34⟩),
    ([0x7672, 0x728D, 0x0A12], .vabs ⟨2, true, 5, 33, 18⟩),
    ([0x7672, 0x728D, 0x0B12], .vneg ⟨2, true, 5, 33, 18⟩),
    ([0x7662, 0x728D, 0x7488, 0x0C12], .vand ⟨2, false, 5, 33, 18, .reg 34⟩),
    ([0x7662, 0x728D, 0x7488, 0x0D12], .vor ⟨2, false, 5, 33, 18, .reg 34⟩),
    ([0x7662, 0x728D, 0x7488, 0x0E12], .vxor ⟨2, false, 5, 33, 18, .reg 34⟩),
    ([0x7662, 0x728D, 0x7488, 0x0F12], .vshl ⟨2, false, 5, 33, 18, .reg 34⟩),
    ([0x7662, 0x728D, 0x7488, 0x1012], .vshr ⟨2, false, 5, 33, 18, .reg 34⟩),
    ([0x7662, 0x728D, 0x7488, 0x1112], .vsar ⟨2, false, 5, 33, 18, .reg 34⟩),
    ([0x7662, 0x720D, 0x7484, 0x1262], .vcmpeq ⟨2, 5, 6, 18, .reg 33⟩)] :
    List (List Half × Instr)).all reads = true := by decide +kernel

theorem test_words_vector_2 : ([
    ([0x7662, 0x720D, 0x7484, 0x1362], .vcmplt ⟨2, 5, 6, 18, .reg 33⟩),
    ([0x7662, 0x720D, 0x7484, 0x1462], .vcmple ⟨2, 5, 6, 18, .reg 33⟩),
    ([0x7662, 0x728D, 0x7488, 0x1512], .vsel ⟨2, false, 5, 33, 18, .reg 34⟩),
    ([0x7669, 0x701A, 0x7203, 0x1672], .vcvt ⟨9, false, 3, 7, 2, 10, 1⟩),
    ([0x7662, 0x728D, 0x1712], .vpopc ⟨2, false, 5, 33, 18⟩),
    ([0x7677, 0x728D, 0x7488, 0x1812], .vclmul ⟨7, true, 5, 33, 18, .reg 34⟩),
    ([0x7662, 0x728D, 0x7488, 0x1912], .vpsum ⟨2, false, 5, 33, 18, .reg 34⟩),
    ([0x7662, 0x730D, 0x1A12], .vredadd ⟨2, false, 5, 65, 18⟩),
    ([0x7662, 0x730D, 0x1B12], .vredmin ⟨2, false, 5, 65, 18⟩),
    ([0x7662, 0x730D, 0x1C12], .vredmax ⟨2, false, 5, 65, 18⟩),
    ([0x7662, 0x728D, 0x1D12], .vbcast ⟨2, 5, 33, .reg 18⟩),
    ([0x7662, 0x7003, 0x1E12], .vextr ⟨2, false, 0, 1, 2, .imm 3⟩),
    ([0x7662, 0x7003, 0x1F12], .vins ⟨2, false, 0, 1, 2, .imm 3⟩),
    ([0x7662, 0x728D, 0x7488, 0x2012], .vperm ⟨2, false, 5, 33, 18, .reg 34⟩),
    ([0x7662, 0x728D, 0x2112], .vcompr ⟨2, false, 5, 33, 18⟩),
    ([0x7662, 0x728D, 0x2212], .vexpd ⟨2, false, 5, 33, 18⟩),
    ([0x7662, 0x7410, 0x2356], .mkand ⟨2, 5, 6, some 4⟩),
    ([0x7662, 0x7410, 0x2456], .mkor ⟨2, 5, 6, some 4⟩)] :
    List (List Half × Instr)).all reads = true := by decide +kernel

theorem test_words_vector_3 : ([
    ([0x7662, 0x7410, 0x2556], .mkxor ⟨2, 5, 6, some 4⟩),
    ([0x7662, 0x2656], .mknot ⟨2, 5, 6, none⟩),
    ([0x7662, 0x7300, 0x2756], .mkpopc ⟨2, 69, 6⟩),
    ([0x7662, 0x7300, 0x2856], .mkfirst ⟨2, 69, 6⟩),
    ([0x7662, 0x7300, 0x2A56], .mkget ⟨2, 69, 6⟩),
    ([0x7662, 0x7220, 0x2956], .mkset ⟨2, 5, 70⟩)] :
    List (List Half × Instr)).all reads = true := by decide +kernel

theorem test_words_streams : ([
    ([0x768A, 0x7266, 0x74A0, 0x0112], .vld ⟨6, 17, 66, .reg 40, 1, 2⟩),
    ([0x7691, 0x7040, 0x0212], .vst ⟨0, 1, 2, .imm 64, 2, 1⟩),
    ([0x7680, 0x71F0, 0x0312], .vlds ⟨0, 1, 2, .imm (-16), 0, 0⟩),
    ([0x7680, 0x0412], .vsts ⟨0, 1, 2, .none, 0, 0⟩),
    ([0x7680, 0x740C, 0x7007, 0x0512], .vgath ⟨0, 1, 2, 3, true, 3, 0, 0⟩),
    ([0x7680, 0x740C, 0x0612], .vscat ⟨0, 1, 2, 3, false, 0, 0, 0⟩),
    ([0x7685, 0x7006, 0x0740], .vldbt ⟨5, 0, 4, 6⟩),
    ([0x7692, 0x7005, 0x7203, 0x0823], .vtopk ⟨2, true, 3, 2, 3, 5⟩),
    ([0x769A, 0x0923], .vprune ⟨10, true, 0, 2, 3⟩),
    ([0x768C, 0x7418, 0x7060, 0x0A23], .vcbexp ⟨12, 0, 2, 3, 6, 96⟩),
    ([0x7680, 0x7202, 0x0B30], .vrng 2 3),
    ([0x7680, 0x0C02], .vclaim true),
    ([0x7680, 0x0D13], .vgive true (some 3)),
    ([0x7680, 0x0D08], .vgive false none),
    ([0x7680, 0x0E00], .vtake),
    ([0x7681, 0x7040, 0x0F56], .sbind ⟨5, true, 6, 64⟩),
    ([0x7680, 0x1050], .sunbind 5)] :
    List (List Half × Instr)).all reads = true := by decide +kernel

theorem test_words_maps : ([
    ([0x76A3, 0x7420, 0x7040, 0x0165], .mprobe ⟨true, 1, 6, 5, 8, 64⟩),
    ([0x76A3, 0x7420, 0x7040, 0x0265], .mins ⟨true, 1, 6, 5, 8, 64⟩),
    ([0x76A3, 0x7420, 0x7040, 0x0365], .mups ⟨true, 1, 6, 5, 8, 64⟩),
    ([0x76A3, 0x7420, 0x7040, 0x0465], .mrem ⟨true, 1, 6, 5, 8, 64⟩),
    ([0x76A0, 0x0505], .minit ⟨5, 0⟩),
    ([0x76A0, 0x7040, 0x0605], .mgrow ⟨5, 64⟩),
    ([0x76A0, 0x7420, 0x0705], .mstep ⟨5, some 8, 0⟩),
    ([0x76A0, 0x0865], .mstat 6 ⟨5, 0⟩),
    ([0x76A0, 0x7420, 0x0965], .miter ⟨false, 0, 6, 5, 8, 0⟩)] :
    List (List Half × Instr)).all reads = true := by decide +kernel

theorem test_words_matrix : ([
    ([0x76C6, 0x7008, 0x0100], .mxlease (some 2) 8),
    ([0x76C2, 0x0200], .mxfree 2),
    ([0x76C1, 0x0300], .mxzero true),
    ([0x76C2, 0x7053, 0x0405], .mxmul ⟨false, true, 5, 3, 5⟩),
    ([0x76C0, 0x7208, 0x7021, 0x0501], .mxmulr ⟨false, false, 17, 1, 2, 0⟩),
    ([0x76C3, 0x7418, 0x0605], .mxst ⟨true, true, 5, 6⟩),
    ([0x76C1, 0x7418, 0x0705], .mxldc ⟨true, false, 5, 6⟩),
    ([0x76C0, 0x7111, 0x0850], .mxlset 5 (.imm 273)),
    ([0x76C2, 0x093F], .rowact ⟨2, 3, 15, 0⟩),
    ([0x76C3, 0x0A00], .rowtake 3),
    ([0x76C3, 0x0B00], .rowclose 3),
    ([0x76C3, 0x0C50], .rowq 5 3)] :
    List (List Half × Instr)).all reads = true := by decide +kernel

theorem test_words_supervisor : ([
    ([0x76E4, 0x0105], .tinvAddr 4 5),
    ([0x76EC, 0x0105], .tinvSpace 4 5),
    ([0x76F4, 0x0105], .tinvAddrall 4 5),
    ([0x76FC, 0x0105], .tinvAll 4 5),
    ([0x76E0, 0x0245], .keyld ⟨4, 5⟩),
    ([0x76E1, 0x0240], .keyldClr 4),
    ([0x76E0, 0x7248, 0x0312], .ctxsave ⟨17, 18⟩),
    ([0x76E0, 0x0445], .ctxload ⟨4, 5⟩),
    ([0x76E0, 0x0545], .evict ⟨4, 5⟩),
    ([0x76E1, 0x0540], .evictDrop 4),
    ([0x76E0, 0x0650], .resume 5),
    ([0x76E1, 0x0656], .resumeXfer ⟨5, 6⟩),
    ([0x76E2, 0x0745], .migr true ⟨4, 5⟩),
    ([0x76E1, 0x0745], .migrForce false ⟨4, 5⟩),
    ([0x76E0, 0x0845], .split ⟨4, 5⟩)] :
    List (List Half × Instr)).all reads = true := by decide +kernel

/-- The words decode to the whole chain. -/
def chain (x : List Half × Chain) : Bool := match decodeWords x.1 with | .ok k => k == x.2 | .error _ => false
/-- The words are refused for the given cause. -/
def refusal (x : List Half × DecodeErr) : Bool := match decodeWords x.1 with | .ok _ => false | .error e => e == x.2

/-- A switch marker is bit 15 of the base word (R164), and a chain entered at a later word is a chain of its own (R168). -/
theorem test_words_marker : ([([0x83C3], ⟨.add ⟨12, 3, .none⟩, true, 1, 0x83C3⟩),
    ([0x7000, 0x7123, 0x02C4], ⟨.movi ⟨12, 0x1234⟩, false, 3, 0x02C4⟩),
    ([0x7123, 0x02C4], ⟨.movi ⟨12, -3532⟩, false, 2, 0x02C4⟩)] : List (List Half × Chain)).all chain = true := by
  decide +kernel

/-- Immediates that no rule calls unsigned are sign-extended (R174): VBCAST and VPSUM of an unsigned type, TRAP. -/
theorem test_words_signed : ([
    ([0x7665, 0x71FF, 0x1D10], .vbcast ⟨5, 0, 1, .imm (-1)⟩),
    ([0x7665, 0x71FF, 0x1912], .vpsum ⟨5, false, 0, 1, 2, .imm (-1)⟩),
    ([0x71FF, 0x4201], .trap ⟨1, 0xFFFF⟩)] : List (List Half × Instr)).all reads = true := by decide +kernel

/-- What R167, R169, R186 and R352 refuse: no base word, PB with a mode, an unassigned operation, page 8, a reserved condition, a
reserved register, PB and PI together, a PI on an instruction that takes none, and a SPAWN without PB. -/
theorem test_words_refused : ([([], .short), ([0x7000], .short), ([0x7401, 0x0312], .malformed 1 0x7401),
    ([0x4300], .illegal 1 0x4300), ([0x7700, 0x0112], .illegal 2 0x0112), ([0x6A00], .illegal 1 0x6A00),
    ([0x7300, 0x01C0], .reserved 0 2 0x01C0), ([0x7408, 0x7001, 0x0312], .malformed 3 0x0312),
    ([0x7001, 0x0112], .malformed 2 0x0112), ([0x7640, 0x0845], .malformed 2 0x0845)] : List (List Half × DecodeErr)).all refusal = true := by decide +kernel

/-! ## Ill-formed instructions: one for each check of WellFormed -/

/-- A reserved scalar register, in each place (R170). -/
theorem test_ill_formed_registers : ([
    .mov ⟨76, 0⟩, .mov ⟨0, 76⟩, .movi ⟨76, 0⟩, .add ⟨1, 2, .reg 76⟩, .self ⟨76, 0, none⟩, .csrr ⟨76, 0⟩, .waitt 76,
    .setbp ⟨0, 76, 0⟩, .ringcfg 0 76, .qadd (.reg 76), .spawn ⟨0, 0, 76⟩, .launch ⟨0, 0, some 76⟩, .keyldClr 76,
    .tinvAddr 0 76] : List Instr).all (fun i => !i.wf) = true := by decide +kernel

/-- An immediate that needs more PI words than a chain has (R166, R174, R175). -/
theorem test_ill_formed_immediates : ([
    .add ⟨1, 2, .imm 0x800000000⟩, .mulhn ⟨1, 2, .imm (-1)⟩, .add ⟨16, 2, .imm 0x4000000⟩, .movi ⟨0, 0x8000000000⟩,
    .jmp 0x8000000000, .bz 0x80000000000, .vbcast ⟨2, 0, 1, .imm 0x4000000⟩, .mxlset 5 (.imm 0x8000000),
    .rowact ⟨0, 1, 1, 0x4000000⟩] : List Instr).all (fun i => !i.wf) = true := by decide +kernel

/-- A CSR whose access has a row of its own (R205). -/
theorem test_ill_formed_csr_rows : ([
    .csrr ⟨1, 0x035⟩, .csrw ⟨1, 0x024⟩, .csrs ⟨1, 0x420⟩] : List Instr).all (fun i => !i.wf) = true := by decide +kernel

/-- Orders and scopes (R118). -/
theorem test_ill_formed_orders : ([
    .ld8 ⟨1, 2, .none, 2, 0⟩, .st8 ⟨1, 2, .none, 1, 0⟩, .ld8 ⟨1, 2, .none, 0, 3⟩, .amoadd ⟨1, 2, none, 0, 1, 6⟩,
    .fenceFull 6, .tinvAll 6 0, .vld ⟨0, 1, 2, .none, 3, 0⟩, .vscat ⟨0, 1, 2, 3, false, 0, 1, 0⟩,
    .ldbt ⟨1, .reg 2, 2, 0⟩] : List Instr).all (fun i => !i.wf) = true := by decide +kernel

/-- Pairs and c0 (R226, R234). -/
theorem test_ill_formed_pairs : ([
    .ld16 ⟨13, 2, .none, 0, 0⟩, .st16 ⟨13, 2, .none, 0, 0⟩, .cas ⟨0, 1, 2, 0, 0⟩, .casq ⟨4, 1, 3, 0, 0⟩,
    .casq ⟨0, 1, 2, 0, 0⟩, .rowq 0 1, .mxlset 0 (.reg 1)] : List Instr).all (fun i => !i.wf) = true := by decide +kernel

/-- Counts and widths out of range. -/
theorem test_ill_formed_ranges : ([
    .stbt ⟨1, .imm 64, 0, 0⟩, .ringadv 0 0, .ringpop 0 65, .mxlease none 65, .mxfree 0, .vldbt ⟨5, 0, 4, 17⟩,
    .vtopk ⟨2, false, 0, 2, 3, 17⟩, .vtopk ⟨2, false, 0, 3, 3, 5⟩, .vcbexp ⟨13, 0, 2, 3, 6, 96⟩,
    .vcbexp ⟨13, 0, 2, 3, 5, 0⟩, .vcbexp ⟨12, 0, 2, 3, 6, 33⟩, .vcbexp ⟨2, 0, 2, 3, 6, 0⟩] : List Instr).all (fun i => !i.wf) = true := by decide +kernel

/-- Element types, variants, and what an operation must or may not have (R246, R247, R251, R257). -/
theorem test_ill_formed_types : ([
    .vadd ⟨12, false, 0, 1, 2, .none⟩, .vadd ⟨8, true, 0, 1, 2, .none⟩, .vfma ⟨8, false, 0, 1, 2, .none⟩,
    .vdiv ⟨2, true, 0, 1, 2, .none⟩, .vshl ⟨10, false, 0, 1, 2, .none⟩, .vclmul ⟨6, false, 0, 1, 2, .none⟩,
    .vsqrt ⟨2, false, 0, 1, 2⟩, .vpopc ⟨10, false, 0, 1, 2⟩, .vabs ⟨10, true, 0, 1, 2⟩,
    .vredadd ⟨2, false, 0, 76, 2⟩, .vadd ⟨2, false, 0, 40, 2, .none⟩, .vadd ⟨2, false, 0, 1, 40, .none⟩,
    .vcmpeq ⟨13, 0, 1, 2, .none⟩, .vcvt ⟨9, false, 0, 7, 2, 10, 2⟩, .vcvt ⟨1, true, 0, 7, 2, 2, 0⟩,
    .vpsum ⟨10, true, 0, 1, 2, .none⟩, .vextr ⟨2, false, 1, 1, 2, .none⟩, .vins ⟨2, true, 0, 1, 2, .none⟩,
    .vprune ⟨12, false, 0, 2, 3⟩, .mkand ⟨12, 1, 2, none⟩, .mknot ⟨2, 1, 2, some 3⟩, .vrng 0 40,
    .ared ⟨3, 9, 6, 3, 10, 0⟩] : List Instr).all (fun i => !i.wf) = true := by decide +kernel

/-- Map operands (R278). -/
theorem test_ill_formed_map_operands : ([
    .mprobe ⟨false, 3, 6, 5, 8, 0⟩, .mprobe ⟨true, 0, 6, 5, 9, 0⟩, .mprobe ⟨false, 1, 0, 5, 8, 0⟩,
    .miter ⟨false, 1, 6, 5, 8, 0⟩, .minit ⟨76, 0⟩, .mxldc ⟨false, true, 5, 6⟩] : List Instr).all (fun i => !i.wf) = true := by decide +kernel

/-- A step of a unit has no encoding. -/
theorem test_ill_formed_steps : ([
    .storePerform, .packageReset] : List Instr).all (fun i => !i.wf) = true := by decide +kernel

/-! ## Small states -/

/-- An active kernel hart 0 of partition 0 and launch 1, with a page table at 0x100000 that maps the first GiB of vault 0
onto itself. -/
def hart0 : Hart :=
  { st := .active, mode := .kernel, part := some 0, launch := 1, idx := [0], t := { ptroot := 0x100000 } }
/-- The three table entries: level 4, level 3, and a 1 GiB leaf with v, leaf, rd, wr, ex and usr. -/
def tables : List Host.Cell :=
  [(0x100000, 0x01), (0x100001, 0x10), (0x100002, 0x10), (0x101000, 0x01), (0x101001, 0x20), (0x101002, 0x10),
   (0x102000, 0x3F)]
/-- One live partition of cluster 0 under the full service, one launch of one level, hart 0 at a chain of one word. -/
def base : State :=
  { State.reset with
    cx := ⟨0, .nop, 1, 0x7800, false⟩, boot := { full := true, step := 4 }, mem := tables, harts := [(0, hart0)],
    parts := [(0, { live := true, pcl := 1, kcount := 16 })],
    launches := [(1, { id := 1, part := some 0, placed := true, words := [0, 0x103000, 0x1000000000000000, 0, 0, 0, 0, 0, 0x4000000000002] })] }
/-- Registers of the current hart. -/
def regs (rs : List (Nat × Word)) (s : State) : State :=
  s.modMe fun x => { x with regs := rs.foldl (fun t kv => Tab.put t kv.1 kv.2) x.regs }
/-- An update of the current hart, of a user or trap register, of a group, of a core. -/
def me (f : Hart → Hart) : State := base.modMe f
/-- The scratchpad address of an offset in core 0. -/
def pad (o : Word) : Word := 0xA000000000000000 + o
/-- The 1 GiB leaf maps host memory. -/
def hosted (s : State) : State := s.writeBytes none 0x102006 [8]
/-- Another hart of partition 0. -/
def withHart (h : Nat) (x : Hart) (s : State) : State := { s with harts := Tab.put s.harts h x }

/-- An answer that meets `f`; a result that is there and meets `f`. -/
def okThen {α : Type} (x : Look α) (f : α → State → Bool) : Bool := match x with | .ok a s => f a s | _ => false
def someThen {α : Type} (x : Option α) (f : α → Bool) : Bool := match x with | some a => f a | none => false
def nextThen (x : Out) (f : State → Bool) : Bool := match x with | .next s => f s | _ => false
/-- `State.Drains` of the state and some next one, which meets `f`. -/
def drains (s : State) (f : State → Bool := fun _ => true) : Bool :=
  !s.rowsBefore s.cx.hart s.steps false && someThen (s.drain s.cx.hart) fun t => t.me.st == s.me.st && f t
/-- The same of `State.DrainsIn`. -/
def drainsIn (sc : Nat) (s : State) (f : State → Bool := fun _ => true) : Bool :=
  (sc == 0 || !s.rowsBefore s.cx.hart s.steps false) && someThen (s.ordered s.cx.hart sc) fun t => t.me.st == s.me.st && f t
/-- The scope of the only level of the current hart's launch. -/
def levelScope (s : State) : Nat := ((s.launch s.me.launch).words.getD 8 0).toNat / 2 ^ 50 % 8

/-! ## States that meet the hypotheses of the statements -/

theorem meets_FieldAndCoordinateOperationsComplete :
    let at' := fun v : Word => ((regs [(2, v)] base).xy ⟨1, 2, .reg 3⟩).1.toNat
    (at' 0xA00000003FFFFFFF / 2 ^ 56 = 0xA0 ∧ at' 0xA00000003FFFFFFF / 2 ^ 30 % 2 ^ 26 = 0) ∧
    (at' 0xA10000003FFFFFFF / 2 ^ 56 = 0xA1 ∧ at' 0xA10000003FFFFFFF / 2 ^ 30 % 2 ^ 26 = 0) ∧
    ¬ ((at' 0xA000000040000000 / 2 ^ 56 = 0xA0 ∨ at' 0xA000000040000000 / 2 ^ 56 = 0xA1) ∧
      at' 0xA000000040000000 / 2 ^ 30 % 2 ^ 26 = 0) := by decide +kernel

theorem meets_DivisionCompletes :
    let xy := fun a b : Word => (regs [(2, a), (3, b)] base).xy ⟨1, 2, .reg 3⟩
    (xy 5 0).2 = 0 ∧ ((xy 0x8000000000000000 (-1)).1.toInt = -2 ^ 63 ∧ (xy 0x8000000000000000 (-1)).2.toInt = -1) ∧
    ((xy 0x8000000000000000 1).2 ≠ 0 ∧
      ¬ ((xy 0x8000000000000000 1).1.toInt = -2 ^ 63 ∧ (xy 0x8000000000000000 1).2.toInt = -1) ∧
      (xy 0x8000000000000000 1).1.toInt < 0) ∧ (0 ≤ (xy 0 (-1)).1.toInt ∧ (xy 0 (-1)).2 ≠ 0) := by decide +kernel

theorem meets_ResultsFrame :
    (1 : Nat) ≠ base.cx.hart ∧ (∀ p ∈ [Pend.vec 1 0, .scalar 2 7], Pend.names 1 p = false) ∧
    (∀ p ∈ [Pend.wait 0], Pend.names 1 p = false) ∧ (∀ p ∈ [Pend.scalar 1 5, .scalar 2 7], ∃ r v, p = Pend.scalar r v) ∧
    (let s := me fun x => { x with span := { count := 30 } }; s.cx.marker = false ∧ s.me.span.count < 31) :=
  ⟨by decide, by decide, by decide, by simp, by decide⟩

theorem meets_TransfersComplete :
    base.me.waiting = false ∧ ((regs [(3, 0)] base).settled.committed 3).getLsbD 0 = false ∧
    ((regs [(3, 1)] base).settled.committed 3).getLsbD 0 = true := by decide +kernel

theorem meets_TransferAndHoldFrames :
    (1 : Nat) ≠ base.cx.hart ∧ base.cx.len ≠ 0 ∧
    ((me fun x => { x with hold := some ⟨.waitph, 1, true, none⟩ }).hart 0).hold = some ⟨.waitph, 1, true, none⟩ := by
  decide +kernel

theorem meets_TrapsAndReturnsComplete :
    base.me.waiting = false ∧ base.me.mode = .kernel ∧
    (let s := me fun x => { x with mode := .monitor }; s.me.waiting = false ∧ s.me.mode = .monitor) ∧
    (let s := me fun x => { x with mode := .user, t := { x.t with utrap := true } }
     s.me.waiting = false ∧ s.me.mode = .user ∧ s.me.t.utrap = true) ∧ base.me.t.utrap = false := by decide +kernel

/-- A user hart that delegates cause 4, inside or outside a handler. -/
def delegating (intrap utrap : Bool) : Hart :=
  { hart0 with mode := .user, t := { tdeleg := 0x10, utvec := 1, intrap := intrap, utrap := utrap } }

theorem meets_TrapEntrySaves :
    (let x := delegating true false
     x.mode = .user ∧ x.t.tdeleg.getLsbD 4 = true ∧ x.t.utvec.getLsbD 0 = true ∧ x.t.utrap = false) ∧
    (let x := delegating false true
     ¬ (x.mode = .user ∧ x.t.tdeleg.getLsbD 4 = true ∧ x.t.utvec.getLsbD 0 = true ∧ x.t.utrap = false) ∧
       x.mode ≠ .monitor ∧ x.t.intrap = false) ∧
    (let x : Hart := { hart0 with mode := .monitor }; x.mode = .monitor ∧ x.mon.busy = false) ∧
    (let x : Hart := { hart0 with mode := .monitor, mon := { busy := true } }; x.mode = .monitor ∧ x.mon.busy = true) ∧
    (let x := delegating true true; x.mode ≠ .monitor ∧ x.t.intrap = true ∧
       ¬ (x.mode = .user ∧ x.t.tdeleg.getLsbD 4 = true ∧ x.t.utvec.getLsbD 0 = true ∧ x.t.utrap = false)) := by decide +kernel

theorem meets_WaitsComplete :
    (base.me.waiting = false ∧ base.me.event = false) ∧
    (let s := me fun x => { x with event := true }; s.me.waiting = false ∧ s.me.event = true) ∧
    (base.rd 1).toNat ≤ (base.partTick base.me.part).toNat ∧
    (let s := regs [(1, 1)] base; (s.partTick s.me.part).toNat < (s.rd 1).toNat) ∧
    (me fun x => { x with span := { pend := [.wait 0] } }).me.waiting = true := by decide +kernel

/-- Hart 0 with one store of a byte to its scratchpad in its buffer. -/
def buffered : State := me fun x => { x with sbuf := [{ base := Config.spadKey, bytes := [7] }] }
/-- Hart 0 with one store to a bank in its blackout. -/
def waitsBank : State :=
  (me fun x => { x with sbuf := [{ base := 0x400000, bytes := [7] }] }).modBank 0 (bankOf 0x400000) fun x => { x with blackoutEnd := 100 }
/-- Hart 0 with a live transfer of its own. -/
def copying : State :=
  { base with cores := [(0, { xfers := [(2, { live := true, gen := 5, issuer := 0, part := some 0, launch := 1 })] })] }

theorem meets_FencesComplete :
    (buffered.me.waiting = false ∧ buffered.settled.enginesBusy 0 = false ∧ drains buffered.settled = true) ∧
    (buffered.settled.othersOwe 0 = false ∧ buffered.me.sbuf ≠ [] ∧ buffered.settled.rowsBefore 0 buffered.settled.steps false = false) ∧
    (let s := withHart 1 { hart0 with sbuf := [{ base := Config.spadKey, due := 2 }] } base
     s.settled.othersOwe 0 = true ∧ drains s.settled = true) ∧
    (base.me.waiting = false ∧ base.me.sbuf = [] ∧ base.settled.enginesBusy 0 = false) ∧
    (let s := waitsBank; s.me.waiting = false ∧ s.settled.rowsBefore 0 s.settled.steps false = false ∧ s.settled.drain 0 = none) ∧
    (copying.me.waiting = false ∧ copying.settled.enginesBusy 0 = true) := by decide +kernel

theorem meets_CsrAccessCompletes :
    (base.me.waiting = false ∧ (0x405 : BitVec 12).toNat < 0xC00 ∧ 0x405 / 0x400 ≤ modeCode base.me.mode ∧
      (csrValue base.settled 0 0x405).isSome ∧ (csrSet base.settled.me 0x405 (-1)).isSome) ∧
    0xC00 ≤ (0xC00 : BitVec 12).toNat ∧ ((0xBFF : BitVec 12).toNat < 0xC00 ∧ modeCode base.me.mode < 0xBFF / 0x400) ∧
    (0x7FF / 0x400 ≤ modeCode base.me.mode ∧ csrValue base.settled 0 0x7FF = none ∧ csrSet base.settled.me 0x7FF 0 = none) ∧
    (0x021 ∈ [0x000, 0x001, 0x002, 0x021] ∧ Instr.csrw ≠ .csrr) := by
  refine ⟨by decide +kernel, by decide, by decide +kernel, by decide +kernel, by decide, fun h => ?_⟩
  have := congrFun h ⟨0, 0⟩
  simp at this

theorem meets_CsrWritesReadBack : (0x1FF : Word).toNat / 256 % 4 < 2 ∧ 2 ≤ (0x200 : Word).toNat / 256 % 4 := by decide

theorem meets_AccessCauseOrder :
    let w := base.who 0
    (0 < 8 ∧ classify w.h 0xA000000040000000 = .bad) ∧
    (classify w.h (pad 1) ≠ .bad ∧ (pad 1).toNat % 8 ≠ 0) ∧
    (classify w.h (pad 0x17FFC) = .coord 0x17FFC ∧ (pad 0x17FFC).toNat % 4 = 0 ∧ 0x18000 < 0x17FFC % 2 ^ 17 + 8) ∧
    (classify w.h 0xA000000000817FF8 = .coord 0x817FF8 ∧ 0xA000000000817FF8 % 8 = 0 ∧
      0x817FF8 % 2 ^ 17 + 8 ≤ 0x18000 ∧ base.inSet w.part (coreOfBits 0x817FF8 / 64) = false) ∧
    (classify w.h (pad 0x17FF8) = .coord 0x17FF8 ∧ (pad 0x17FF8).toNat % 8 = 0 ∧ 0x17FF8 % 2 ^ 17 + 8 ≤ 0x18000 ∧
      base.inSet w.part (coreOfBits 0x17FF8 / 64) = true ∧ Acc.load ≠ .fetch ∧ Acc.load ≠ .rowact) ∧
    (32767 < Config.nHarts ∧ 0xA000000000000000 / 2 ^ 56 = 0xA0 ∧ 0xA000000000000000 / 2 ^ 30 % 2 ^ 26 = 0) ∧
    (0xA10000003FFFFFFF / 2 ^ 56 = 0xA1 ∧ 0xA10000003FFFFFFF / 2 ^ 30 % 2 ^ 26 = 0) ∧
    (0xA080000000000000 / 2 ^ 56 = 0xA0 ∧ 0xA080000000000000 / 2 ^ 30 % 2 ^ 26 ≠ 0) ∧ 0xFF00000000000000 / 2 ^ 56 = 0xFF ∧
    (let top := 0xA200000000000000 / 2 ^ 56; top ≠ 0x00 ∧ top ≠ 0xFF ∧ top ≠ 0xA0 ∧ top ≠ 0xA1) := by decide +kernel

theorem meets_AccessFrameAndTraps :
    (okThen (access (base.who 0) .load 0x200000 8 8 base) fun p _ => p.key == 0x200000) = true ∧
    (classify 0 (pad 8) ≠ .g ∧ okThen (access (base.who 0) .load (pad 8) 8 8 base) (fun _ _ => true) = true) ∧
    (okThen (translate (base.who 0) 0x200000 base) fun e _ => !bit e.1 9) = true ∧
    (let s := regs [(1, pad 1), (2, pad 8)] base
     s.me.waiting = false ∧ s.me.todo = [] ∧ classify 0 (s.rd 1 + s.off .none) ≠ .bad ∧ (s.rd 1 + s.off .none).toNat % 2 ≠ 0 ∧
       (s.rd 1).toNat % 8 ≠ 0 ∧ classify 0 (s.rd 2) ≠ .bad ∧ (s.rd 2).toNat % 16 ≠ 0) := by decide +kernel

/-- The fields of `State.SpadOpen`, decided. -/
def openAt (s : State) (h x n : Nat) (m : Bool := false) : Bool :=
  decide (x < 2 ^ 30) && decide (x % 2 ^ 17 + n ≤ 0x18000) && s.inSet (s.hart h).part (coreOfBits x / 64) &&
    s.lostLink h (Config.spadKey + x) == none && s.padTurn (Asker.reads h none) (s.readAsk h none (Config.spadKey + x) n (!m) false) &&
      !s.eccBad (Config.spadKey + x) n && (s.hart h).todo == []
theorem opened {s : State} {h x n : Nat} {m : Bool} (d : openAt s h x n m = true) : s.SpadOpen h x n m := by
  simp only [openAt, Bool.and_eq_true, decide_eq_true_eq, beq_iff_eq, Bool.not_eq_true'] at d
  obtain ⟨⟨⟨⟨⟨⟨coord, inside⟩, inSet⟩, way⟩, turn⟩, sound⟩, fresh⟩ := d
  exact { coord, inside, inSet, way, turn, sound, fresh }

/-- Hart 0 with register 16 at a scratchpad offset. -/
def at16 (o : Word) : State := regs [(16, pad o)] base

theorem meets_LoadsComplete :
    (okThen (loadBytes 0 ((at16 0x10).rd 16) 8 8 0 (at16 0x10)) fun bs _ => bs.length == 8) = true ∧
    (okThen (loadBytes 0 ((regs [(16, 0x200000)] base).rd 16) 16 16 (acqScope 1 5) (regs [(16, 0x200000)] base))
      fun bs _ => bs.length == 16) = true ∧
    (classify 0 ((at16 0x17FF8).rd 16 + (at16 0x17FF8).off .none) = .coord 0x17FF8 ∧
      (∀ e ∈ (at16 0x17FF8).me.sbuf, e.sc = 0) ∧ (at16 0x17FF8).SpadOpen 0 0x17FF8 8 ∧
      ((at16 0x17FF8).rd 16 + (at16 0x17FF8).off .none).toNat % 8 = 0 ∧
      (at16 0x17FF8).pushedBefore 0 (at16 0x17FF8).steps (Config.spadKey + 0x17FF8) 8 false = false) := by
  refine ⟨?_, ?_, ?_, ?_, opened ?_, ?_⟩ <;> decide +kernel

theorem meets_StoresComplete :
    (okThen (checked 0 .store ((at16 8).rd 16 + (at16 8).off (.imm 8)) 16 16 (at16 8)) fun p _ => !isHost p.key) = true ∧
    (okThen (checked 0 .store 0x200000 1 1 base) fun _ _ => true) = true ∧
    (okThen (checked 0 .store 0x200000 16 16 (hosted base)) fun p _ => isHost p.key) = true := by decide +kernel

theorem meets_WrittenBytesRead :
    (1 : Nat) < [(1 : Byte), 2].length ∧ ((5 : Nat) < 6 ∨ 6 + [(1 : Byte), 2].length ≤ 5) ∧
    (let e : StoreEnt := { base := Config.spadKey + 0x17FFF, bytes := [7] }
     isSpad e.base = true ∧ e.mask = [] ∧ e.enc = none ∧ base.lostLink 0 e.base = none ∧
       base.eccBad e.base e.bytes.length = false) := by decide +kernel

theorem meets_BitAccessCompletes :
    (let s := me fun x => { x with u := { x.u with bitp := 0xBFFFF } }
     let p := s.me.u.bitp.toNat
     p + 1 - 1 ≤ 0xBFFFF ∧ s.eccBad (ownBit 0 p) ((p + 1 - 1) / 8 - p / 8 + 1) = false ∧
       s.padTurn (Asker.reads 0 none) (s.readAsk 0 none (ownBit 0 p) ((p + 1 - 1) / 8 - p / 8 + 1) true false) = true ∧ s.me.todo = [] ∧
       (∀ e ∈ s.me.sbuf, e.sc = 0) ∧ s.pushedBefore 0 s.steps (ownBit 0 p) ((p + 1 - 1) / 8 - p / 8 + 1) false = false ∧
       0 < Config.nHarts) ∧
    (let s := me fun x => { x with u := { x.u with bitp := 0xBFFFF } }
     0xBFFFF < s.me.u.bitp.toNat + 2 - 1 ∧ s.me.waiting = false) := by decide +kernel

/-- Nothing of hart 0 has to come before a read-modify-write of `n` bytes with order `ord` at a scratchpad offset. -/
abbrev first (s : State) (x n : Nat) (ord : OrderCode) : Prop :=
  (∀ e ∈ s.me.sbuf, e.overlaps (Config.spadKey + x) n = false) ∧ (ord = 0 ∨ (ord = 1 ∧ ∀ e ∈ s.me.sbuf, e.sc = 0)) ∧
    s.pushedBefore 0 s.steps (Config.spadKey + x) n false = false

theorem meets_AtomicsComplete :
    (let s := at16 0x17FF8
     classify 0 (s.rd 16 + 0) = .coord 0x17FF8 ∧ s.SpadOpen 0 0x17FF8 8 true ∧ (s.rd 16 + 0).toNat % 8 = 0 ∧
       first s 0x17FF8 8 1) ∧
    (okThen (rmw 0 (pad 0x17FF8) 8 3 5 true (fun old => some old) (at16 0x17FF8)) fun bs _ => bs.length == 8) = true :=
  ⟨⟨by decide +kernel, opened (by decide +kernel), by decide +kernel⟩, by decide +kernel⟩

/-- A counter at offset 0x40 with trigger word 0, and how its sum comes out. -/
def counter (v : Word) : State := regs [(16, pad 0x40), (17, v)] (base.writeBytes none (Config.spadKey + 0x40) [1])
/-- Eight triggers wait at the home of the counter. -/
def crowded : State := { counter (-1) with net := List.replicate 8 { via := 1, home := homeOf (Config.spadKey + 0x40) } }

theorem meets_CompareAndSwapAndCountersComplete :
    (let s := at16 0x17FF0
     classify 0 (s.rd 16) = .coord 0x17FF0 ∧ s.SpadOpen 0 0x17FF0 16 true ∧ (s.rd 16).toNat % 16 = 0 ∧
       first s 0x17FF0 16 0) ∧
    (let s := at16 0x17FF8
     classify 0 (s.rd 16) = .coord 0x17FF8 ∧ s.SpadOpen 0 0x17FF8 8 true ∧ (s.rd 16).toNat % 8 = 0 ∧
       first s 0x17FF8 8 1) ∧
    [(1 : Word), -1].all (fun v => okThen (checked 0 .atomic (pad 0x40) 16 16 (counter v)) (fun p t => !isHost p.key &&
      okThen (rmwAt 0 p (pad 0x40) 16 0 0
        (fun m => some (toBytes 8 (BitVec.ofNat 64 (ofBytes (m.take 8)) + v).toNat ++ m.drop 8)) {} t) fun bs _ =>
          (BitVec.ofNat 64 (ofBytes (bs.take 8)) + v == 0) == (v == -1) &&
          decide ((t.net.filter fun m => m.via == 1 && m.home == homeOf p.key).length < 8))) = true ∧
    okThen (checked 0 .atomic 0x200000 16 16 (hosted base)) (fun p t => isHost p.key && !t.me.waiting) = true ∧
    8 ≤ (crowded.net.filter fun m => m.via == 1 && m.home == homeOf (Config.spadKey + 0x40)).length :=
  ⟨⟨by decide +kernel, opened (by decide +kernel), by decide +kernel⟩, ⟨by decide +kernel, opened (by decide +kernel), by decide +kernel⟩,
   by decide +kernel, by decide +kernel, by decide +kernel⟩

/-- Word 0 of an object at offset 0x40 in phase `p`. -/
def object (p : Bool) : State := regs [(16, pad 0x40)] (base.writeBytes none (Config.spadKey + 0x47) [if p then 0x80 else 0])
/-- Ring 3 of the group with a configuration and counters. -/
def ringed (cfg : Word) (head tail : BitVec 16) : State := base.setRing 0 3 { cfg := cfg, head := head, tail := tail }

theorem meets_PollsAndRingsComplete :
    (∀ p ∈ [true, false], okThen (loadBytes 0 (pad 0x40) 8 16 0 (object p)) (fun bs _ =>
      (BitVec.ofNat 64 (ofBytes bs)).getLsbD 63 == p) = true) ∧
    classify 0 (pad 0x40) ≠ .g ∧
    (classify 0 0x200008 = .g ∧ base.boot.full = true ∧ okThen (translate (base.who 0) 0x200008 base) (fun e u =>
      okThen (u.physical (base.who 0) .load 0x200008 e.1 (e.1.toNat / 2 ^ 16 % 2 ^ 36 * 65536 + 0x200008 % leafSize e.2.2) 1)
        fun _ _ => true) = true) ∧
    (RingCfg.valid 0xC000000000000000 = false ∨ (0xC000000000000000 : Word).toNat / 2 ^ 62 % 4 = 3) ∧
    (let w : Word := 0x4180100000000000
     ¬ (RingCfg.valid w = false ∨ w.toNat / 2 ^ 62 % 4 = 3 ∨ w.toNat / 2 ^ 55 % 8 = 7 ∨ w.toNat / 2 ^ 16 % 2 ^ 16 ≠ 0)) ∧
    (base.ring 0 3).cfg.toNat / 2 ^ 62 % 4 = 0 ∧
    (let s := ringed 0x4180100000000000 5 6; let r := s.ring 0 3
     r.cfg.toNat / 2 ^ 62 % 4 ≠ 0 ∧ 2 ^ (r.cfg.toNat / 2 ^ 55 % 8) < (r.tail - r.head).toNat + (8 : BitVec 7).toNat ∧
       (r.tail - r.head).toNat + (7 : BitVec 7).toNat ≤ 2 ^ (r.cfg.toNat / 2 ^ 55 % 8) ∧
       (r.tail - r.head).toNat < (2 : BitVec 7).toNat ∧ (1 : BitVec 7).toNat ≤ (r.tail - r.head).toNat ∧
       s.rowsBefore 0 s.steps false = false ∧ drainsIn 2 s = true) := by decide +kernel

/-- Hart 0 with a header in register 16. -/
def sender (hdr : Word) : State := regs [(16, hdr)] base
/-- A full message of the hart that waits on a class. -/
def waits (s : State) (hdr : Word) : State := { s with net := [{ s.ownMsg hdr [] false with waiting := true }] }

theorem meets_SendsComplete :
    (let hdr : Word := 0x0E000000000000; let s := sender hdr
     (75 - 6 + 7 - 1 < 76 ∧ fileOf 69 = fileOf (69 + 7 - 1)) ∧ (s.rd 16).toNat / 2 ^ 49 % 8 = 7 ∧
       s.sendRefused s.me.part 0 hdr ((List.range 7).map fun i => s.me.reg (69 + i)) = false ∧
       hdr.toNat / 2 ^ 21 % 2 ^ 10 = s.pkgnum.toNat ∧
       drainsIn 4 s (fun t => !t.stalled (t.ownMsg hdr [] false) && !t.stalled (t.ownMsg hdr [] true)) = true) ∧
    (let s := waits (sender 0) 0
     drainsIn 4 s (fun t => t.stalled (t.ownMsg 0 [] false) && t.stalled (t.ownMsg 0 [] true)) = true ∧
       s.sendRefused s.me.part 0 0 [] = false) ∧
    (sender 0).me.waiting = false ∧ (1 : Word).toNat % 2 ^ 21 ≠ 0 ∧
    (let n := (0x04000000000000 : Word).toNat / 2 ^ 49 % 8; 0 < n ∧ 76 ≤ 75 + n - 1 ∧ fileOf 3 ≠ fileOf (3 + n - 1)) ∧
    (let hdr : Word := 0xF2000000000000; hdr.toNat / 2 ^ 52 % 16 = 15 ∧ hdr.toNat / 2 ^ 49 % 8 ≠ 0) ∧
    (let hdr : Word := 0x400000000; hdr.toNat / 2 ^ 21 % 2 ^ 10 = base.pkgnum.toNat ∧
      base.inSet base.me.part (hdr.toNat / 2 ^ 31 % 8 * 16 + hdr.toNat / 2 ^ 34 % 16) = false) ∧
    (let pkg := (0x200000 : Word).toNat / 2 ^ 21 % 2 ^ 10
     pkg ≠ base.pkgnum.toNat ∧ pkg ≠ 0x3FF ∧ 24 ≤ (Tab.get 0xFF base.tlpkg (0 / 16384 * 1024 + pkg)).toNat) ∧
    [31, 34, 38, 44].all (fun i => let n := 0x7FE00000 + 2 ^ i; n / 2 ^ 21 % 2 ^ 10 == 0x3FF && n / 2 ^ i % 2 == 1) = true ∧
    [(0xF8, 5, 0x100000008), (0xF8, 5, 0x1000200000008), (0xF8, 4, 0x100000004), (0xF8, 4, 0x100000000), (0xF8, 4, 0x100000808),
      (0xF9, 2, 0), (0xF9, 1, 0)].all (fun (k, n, w3) => let hdr := k * 2 ^ 56 + n * 2 ^ 49
        hdr / 2 ^ 56 % 256 == k && (k == 0xF9 && (n % 2 == 0 || decide (n < 3)) || k == 0xF8 && (w3 / 2 ^ 32 % 2 ^ 16 + 3 != n ||
          w3 / 2 ^ 48 != 0 || w3 % 2 ^ 32 % 8 != 0 || w3 % 2 ^ 32 < 8 || 2048 < w3 % 2 ^ 32))) = true ∧
    (let s := me fun x => { x with h := { x.h with running := true } }
     s.me.waiting = false ∧ s.me.h.running = true ∧ s.me.h.tracked = false) ∧
    (let s := me fun x => { x with h := { x.h with running := true, tracked := true } }
     s.me.h.tracked = true ∧ drainsIn (levelScope s) s.settled = true) ∧
    base.me.h.running = false ∧ base.me.mode ≠ .user ∧ (me fun x => { x with mode := .user }).me.mode = .user := by
  decide +kernel

/-- A hart that SPAWN started. -/
def spawnedHart : State := me fun x => { x with spawned := true }
/-- Hart 0 at a partition with an open episode. -/
def episode (e : Episode) : State := base.modPart 0 fun x => { x with episodes := [e] }
/-- A barrier may be opened by the current hart. -/
def opens (s : State) (n l : Nat) : Bool :=
  decide (l < (s.launch s.me.launch).nlev) && s.me.part.getD 128 == 0 && !s.me.spawned && !s.me.arrived.contains n

theorem meets_BarriersComplete_counters :
    ((base.launch base.me.launch).nlev ≤ (1 : BitVec 3).toNat ∧ base.me.waiting = false) ∧
    (opens base 15 0 = true ∧ (base.part 0).episodes = [] ∧ drainsIn (levelScope base) base = true) ∧
    ((0 : BitVec 3).toNat < (spawnedHart.launch spawnedHart.me.launch).nlev ∧ spawnedHart.me.part.getD 128 = 0 ∧
      spawnedHart.me.spawned = true) ∧
    (let s := episode { n := 15, launch := 2 }; opens s 15 0 = true ∧ ∃ d ∈ (s.part 0).episodes, d.n = 15 ∧ d.launch ≠ 1) ∧
    (let s := episode { n := 15, launch := 1, ared := true }
     opens s 15 0 = true ∧ (∀ d ∈ (s.part 0).episodes, d.n = 15 → d.launch = 1) ∧
       someThen ((s.part 0).episodes.find? fun e => e.n == 15 && e.launch == s.me.launch && s.me.idx.drop (e.level + 1) == e.inst)
         (·.ared) = true) ∧
    (let s := episode { n := 15, launch := 1, arrived := [(1, 0, [])] }
     opens s 15 0 = true ∧ (∀ d ∈ (s.part 0).episodes, d.n = 15 → d.launch = 1) ∧
       someThen ((s.part 0).episodes.find? fun e => e.n == 15 && e.launch == s.me.launch && s.me.idx.drop (e.level + 1) == e.inst)
         (fun e => e.level == 0 && !e.ared) = true) ∧
    (0 ≤ (base.rd 16).toInt ∧ (-1 : Word).toInt < 0 ∧ (base.launch base.me.launch).nlev - 1 < (base.launch base.me.launch).nlev ∧
      base.me.part.getD 128 = 0) := by decide +kernel

/-- Hart 0 with a reduction buffer of 8 words at an offset. -/
def buffer (o : Word) : State := regs [(16, pad o)] base

theorem meets_BarriersComplete :
    ((0 : BitVec 3).toNat < (base.launch base.me.launch).nlev ∧ base.me.waiting = false ∧ base.me.part.getD 128 = 0 ∧
      base.me.spawned = false ∧ base.me.arrived.contains 15 = false) ∧
    (let s := buffer 0x17FC0
     classify 0 (s.rd 16) = .coord 0x17FC0 ∧ (s.rd 16).toNat % 8 = 0 ∧ 0x17FC0 % 2 ^ 17 + 8 * 8 ≤ 0x18000 ∧ coreOfBits 0x17FC0 = 0 / 4 ∧
       okThen (readPlace 0 { key := Config.spadKey + 0x17FC0 } 64 0 (s.rd 16) s) (fun bs t =>
         bs.length == 64 && opens t 15 0 && (t.part 0).episodes == [] &&
           drainsIn (levelScope t) t && !t.me.sbuf.any (·.overlaps (Config.spadKey + 0x17FC0) 64)) = true) ∧
    (∀ z, classify 0 0x200000 ≠ .coord z) ∧
    (classify 0 (pad 4) = .coord 4 ∧ ¬ (pad 4).toNat % 8 = 0) ∧
    (classify 0 (pad 0x17FF8) = .coord 0x17FF8 ∧ (pad 0x17FF8).toNat % 8 = 0 ∧ ¬ 0x17FF8 % 2 ^ 17 + 8 * 2 ≤ 0x18000) ∧
    (classify 0 (pad 0x20000) = .coord 0x20000 ∧ (pad 0x20000).toNat % 8 = 0 ∧ 0x20000 % 2 ^ 17 + 8 ≤ 0x18000 ∧
      coreOfBits 0x20000 ≠ 0 / 4) ∧
    (spawnedHart.me.spawned = true ∧ (episode { n := 15, launch := 2 }).me.part.getD 128 = 0) := by
  refine ⟨by decide +kernel, by decide +kernel, fun z h => ?_, by decide +kernel, by decide +kernel, by decide +kernel,
    by decide +kernel⟩
  have g : classify 0 0x200000 = .g := by decide +kernel
  rw [g] at h
  cases h

theorem meets_HartsStartAndEnd :
    (base.me.waiting = false ∧
      someThen ((base.settled.leaveAll 0).flushStreams 0) (fun t => t.me.st == (base.settled.leaveAll 0).me.st &&
        t.mailBlock 0 == none) = true) ∧
    (let s := { me fun x => { x with mbs := [(7, { spillCount := 1, pins := [(0x200000, none)] })] } with devPend := [{ pa := 0x200000 }] }
     someThen ((s.settled.leaveAll 0).flushStreams 0) (fun t => t.me.st == (s.settled.leaveAll 0).me.st &&
       t.mailBlock 0 == some (7, 0, 0x200000)) = true) ∧
    (waitsBank.me.waiting = false ∧ (waitsBank.settled.leaveAll 0).flushStreams 0 = none) ∧
    (let s := regs [(16, 0x200000), (17, pad 0)] base
     classify 0 (s.rd 17) = .coord 0 ∧ (s.rd 16).getLsbD 0 = false ∧ s.inSet s.me.part (coreOfBits 0 / 64) = true ∧
       s.freeHartOf (s.launch s.me.launch) 0 = some 1 ∧ drainsIn 4 s = true) ∧
    (let s := withHart 1 hart0 (withHart 2 hart0 (withHart 3 hart0 base)); s.freeHartOf (s.launch s.me.launch) 0 = none) ∧
    (classify 0 0xA000000000800000 = .coord 0x800000 ∧ base.inSet base.me.part (coreOfBits 0x800000 / 64) = false) ∧
    classify 0 0x200000 = .g ∧ (0x200001 : Word).getLsbD 0 = true := by decide +kernel

/-- A launch queue of 8 slots at 0x300000. -/
def queue (q : LaunchQ) : State := base.modLq 0 3 fun _ => { q with base := 0x300000, lgsize := 3 }
/-- The launch unit's turn at queue 3, or at index i. -/
def turnAt (i j : Nat) (s : State) : State := { s with ev := { i := i, j := j } }
/-- A record for one hart, with an image at 0x200000 and the page table of `base`. -/
def record (part : Word) : List Word :=
  [0x200000, 0x103000, 0x1000000000000000 + part, 0, 0, 0x100000, 0, 0, 0x4000000000001] ++ List.replicate 23 0
/-- The header and text of an image of one instruction. -/
def image (s : State) : State :=
  (s.writeBytes none 0x200000 (toBytes 8 0x14D494B4E ++ toBytes 8 0x0000000200000040)).writeBytes none 0x200040 [0, 0]
/-- Queue 3 has taken a record. -/
def takenBy (s : State) (t : Taken) : State := turnAt 0 3 (s.modLq 0 3 fun q => { q with taken := [t] })

theorem meets_LaunchesComplete :
    (8 ≤ (8 : Word).toNat ∧ base.me.waiting = false ∧ (7 : Word).toNat < 8 ∧ canonical (pad 0) = false) ∧
    (let s := (queue { en := true, dev := true, tail := 7 }).modMe fun x => { x with
       todo := (List.replicate 4 [.place { key := 0x200000 } 0x200000, .read true (List.replicate 64 0)]).flatten }
     okThen (Look.each (fun i s => loadBytes 0 (0x200000 + BitVec.ofNat 64 (64 * i)) 64 64 0 s) (List.range 4) s) (fun _ t =>
       t.me.part == some 0 && (t.lq 0 3).open && t.boot.full &&
         t.bankFree (0x300000 + 512 * 7) ((t.who 0).came (0x300000 + 512 * 7) t.tick) && drains t) = true) ∧
    ((queue { en := true, dev := true, tail := 8 }).lq 0 3).open = false ∧
    (let s := turnAt 0 3 (queue { en := true, tail := 8, head := 7 }); let q := s.lq 0 3
     s.ev.i < 128 ∧ s.ev.j < 8 ∧ q.head ≠ q.tail ∧ q.taken = [] ∧ s.boot.full = true ∧ q.tries = 0) ∧
    (let s := turnAt 0 3 (queue { en := true, tail := 8, head := 7, tries := 4 }); let q := s.lq 0 3
     q.head ≠ q.tail ∧ q.taken = [] ∧ q.tries ≠ 0 ∧ q.retryAt ≤ s.tick) ∧
    (let s := takenBy base { id := 2, words := record 1 }
     ¬ (((record 1).getD 2 0).toNat % 128 = s.ev.i ∧ (s.part s.ev.i).live = true)) ∧
    (let s := takenBy base { id := 2, words := [] }
     ((([] : List Word).getD 2 0).toNat % 128 = s.ev.i ∧ (s.part s.ev.i).live = true) ∧ recordWf [] = false) ∧
    (recordWf (record 0) = true ∧ (match base.checkImage {} 0 2 (record 0) with | .ok none => true | _ => false) = true) ∧
    (match (image base).checkImage {} 0 2 (record 0) with | .ok (some _) => true | _ => false) = true ∧
    recHarts (record 0) ≤ 256 * (((image base).imageRead {} 0 (record 0)).part 0).clusters.length ∧
    (let ws := (record 0).set 8 0x4000000000100 ++ []; recordWf (((ws.set 2 0x2000000000000000).set 9 0x88000000000002)) = true ∧
      ¬ recHarts (((ws.set 2 0x2000000000000000).set 9 0x88000000000002)) ≤ 256 * (base.part 0).clusters.length) ∧
    (let s := { takenBy { base with launches := Tab.put base.launches 2 { id := 2, part := some 0, words := record 0 } }
         { id := 2, words := record 0, checked := true } with ev := { i := 0, j := 3, harts := [1] } }
     (s.part 0).swSt = .resident ∧ s.lowerFirst 0 3 = false ∧ s.placeOk (some 0) (s.launch 2) s.ev.harts = true ∧ s.claimOk (some 0) (s.launch 2) s.ev.harts = true) ∧
    (let s := { turnAt 1 0 base with harts := [] }
     (s.launch s.ev.i).placed = true ∧ (s.launch s.ev.i).retired = false ∧ s.launchOver s.ev.i = true) ∧
    (let s := { turnAt 8191 0 base with cores := [(8191, { resTag := 1 })] }
     s.ev.i < 8192 ∧ (s.core s.ev.i).resTag ≠ 0 ∧ (s.core s.ev.i).resUntil ≤ s.tick) := by decide +kernel

/-- Hart 0 with a setup: 16 bytes from pad 0 to pad 0x100, the block at 0x200000. -/
def copier (n : Word) : State :=
  me fun x => { x with cp := { src := pad 0, dst := pad 0x100, len := n, stride := 0, param := 0x200000 } }
/-- Slot 7 of core 0 with a transfer of hart 0. -/
def slot7 (x : Xfer) : State := base.setXfer 0 7 x
/-- An identifier of slot 7. -/
def idOf (g : Word) : Word := g * 8 + 7
def isOwn (w : Whose) : Bool := match w with | .own 0 7 _ => true | _ => false
def isStale (w : Whose) : Bool := match w with | .stale => true | _ => false
def isNone (w : Whose) : Bool := match w with | .none => true | _ => false

theorem meets_CopyInstructionsComplete :
    base.me.waiting = false ∧
    [(0 : Word), 16].all (fun n => okThen (loadBytes 0 (copier n).settled.me.cp.param 32 32 0 (copier n).settled) (fun bs t =>
      let x := t.setup (wordsOf bs 4)
      setupBad x == (n == 0) && (match checkEnd t 0 x.part x.src x.sstride x.rows x.rowlen with | .ok _ => true | _ => false) &&
        (match checkEnd t 0 x.part x.dst x.dstride x.rows x.rowlen with | .ok _ => true | _ => false) &&
        t.freeXfer 0 == some 0 && (n == 0 || t.touchesHost x x.src x.sstride == some false) && drains t)) = true ∧
    ((List.range 8).foldl (fun s k => s.setXfer 0 k { live := true }) base).freeXfer 0 = none ∧
    isNone (base.whose 0 (idOf 1)) = true ∧ isStale ((slot7 { gen := 8191 }).whose 0 (idOf 1)) = true ∧
    isOwn ((slot7 { gen := 8191 }).whose 0 (idOf 8191)) = true ∧
    (slot7 { gen := 1, live := true, promise := -1 }).promiseDue { gen := 1, live := true, promise := -1 } = false ∧
    ({ slot7 { gen := 1, live := true, promise := 0, part := some 0 } with tick := 2 }).promiseDue
      { gen := 1, live := true, promise := 0, part := some 0 } = true ∧
    [{ gen := 1, live := true }, { gen := 1, live := true, chunk := some ([], []) }, { gen := 1, live := true, resumed := some 0 }].all (fun (x : Xfer) =>
      match (slot7 x).whose 0 (idOf 1) with
      | .own 0 7 y => y == x && y.live && (y.resumed == some base.tick) == (x.resumed == some 0) && !y.suspended
      | _ => false) = true ∧
    base.me.copyStatus = none ∧ (me fun x => { x with hold := some ⟨.copy 15 (some 2), 1, false, none⟩ }).me.copyStatus = some 2 := by
  decide +kernel

/-! ## Vectors -/

theorem takes_low (s : State) (d : RegNo) (h : d.toNat < 16) : s.Takes d (fun v => .vec d.toNat v) s := by
  intro k
  have h2 : d.toNat < 32 := by omega
  simp [vdst, Hart.named, h, h2]

theorem reads_low (s : State) (r : RegNo) (h : r.toNat < 16) : s.Reads [r] [Tab.get 0 s.me.v r.toNat] s := by
  have h2 : r.toNat < 32 := by omega
  have hn : (s.hart s.cx.hart).named r.toNat = true := by simp [Hart.named, h]
  simp only [State.Reads, vreadList, vread1, h2, hn, if_true, Look.bind, State.vreg, h]
  rfl

theorem reads_low2 (s : State) (a b : RegNo) (ha : a.toNat < 16) (hb : b.toNat < 16) :
    s.Reads [a, b] [Tab.get 0 s.me.v a.toNat, Tab.get 0 s.me.v b.toNat] s := by
  have h2 : a.toNat < 32 := by omega
  have h3 : b.toNat < 32 := by omega
  have hn : (s.hart s.cx.hart).named a.toNat = true := by simp [Hart.named, ha]
  have hm : (s.hart s.cx.hart).named b.toNat = true := by simp [Hart.named, hb]
  simp only [State.Reads, vreadList, vread1, h2, h3, hn, hm, if_true, Look.bind, State.vreg, ha, hb]
  rfl

theorem reads_low3 (s : State) (a b c : RegNo) (ha : a.toNat < 16) (hb : b.toNat < 16) (hc : c.toNat < 16) :
    s.Reads [a, b, c] [Tab.get 0 s.me.v a.toNat, Tab.get 0 s.me.v b.toNat, Tab.get 0 s.me.v c.toNat] s := by
  have h2 : a.toNat < 32 := by omega
  have h3 : b.toNat < 32 := by omega
  have h4 : c.toNat < 32 := by omega
  have hn : (s.hart s.cx.hart).named a.toNat = true := by simp [Hart.named, ha]
  have hm : (s.hart s.cx.hart).named b.toNat = true := by simp [Hart.named, hb]
  have hk : (s.hart s.cx.hart).named c.toNat = true := by simp [Hart.named, hc]
  simp only [State.Reads, vreadList, vread1, h2, h3, h4, hn, hm, hk, if_true, Look.bind, State.vreg, ha, hb, hc]
  rfl

/-- Hart 0 that holds octet 0 in slot A, and in slot B one filled in this span. -/
def octets : State := me fun x => { x with slotA := some 0, slotB := some 1, freshB := true }
/-- Stream 7 of hart 0. -/
def streaming (x : Stream) : State := base.modStream 0 7 fun _ => x
def words4 (n : Nat) : List StreamEl := List.replicate n {}
/-- A write stream of five elements at the end of the own scratchpad. -/
def writing (n : Nat) : Stream :=
  { bound := true, wr := true, base := pad 0x17FC0 - 4 * 64, ndim := 1, counts := [5], strides := [64], buf := words4 n }

theorem meets_VectorOperandsRead :
    ((15 : RegNo).toNat < 16) ∧
    (let x := octets.me; let held := fun b : Bool => if b then x.slotB.isSome && !x.freshB else x.slotA.isSome && !x.freshA
     (16 ≤ (23 : RegNo).toNat ∧ (23 : RegNo).toNat < 32 ∧ held (decide (24 ≤ (23 : RegNo).toNat)) = true ∧ x.slotA = some 0) ∧
       held (decide (24 ≤ (31 : RegNo).toNat)) = false ∧ x.waiting = false) ∧
    (let s := streaming { bound := true, counts := [2], pos := 1, buf := words4 1 }
     32 ≤ (39 : RegNo).toNat ∧ (s.stream 0 ((39 : RegNo).toNat - 32)).bound = true ∧ (s.stream 0 7).wr = false ∧
       (s.stream 0 7).buf = {} :: []) ∧
    (let s := streaming { bound := true, counts := [2], pos := 2 }
     (s.stream 0 7).buf = [] ∧ (s.stream 0 7).total ≤ (s.stream 0 7).pos) ∧
    ((base.stream 0 0).bound = false ∧ ((streaming (writing 0)).stream 0 7).wr = true) ∧
    (let s := streaming (writing 4); let st := s.stream 0 7; let e := st.pos + s.me.pushes 7
     st.bound = true ∧ st.wr = true ∧ e < st.total ∧ 4 ≤ st.buf.length ∧ s.me.waiting = false) ∧
    (let s := streaming { writing 3 with pos := 4 }; let st := s.stream 0 7; let e := st.pos + s.me.pushes 7
     st.bound = true ∧ st.wr = true ∧ e < st.total ∧ st.buf.length < 4 ∧
       okThen (checked 0 .store (st.addr e) 64 64 s) (fun p _ => p.key == Config.spadKey + 0x17FC0) = true) ∧
    (let st := (streaming { writing 3 with pos := 5 }).stream 0 7; st.total ≤ st.pos) := by decide +kernel

theorem meets_VectorArithmeticCompletes :
    (vSources 15 14 (.reg 13) = [14, 13] ∧ base.Reads [14, 13] [Tab.get 0 base.me.v 14, Tab.get 0 base.me.v 13] base) ∧
    base.Takes 15 (fun v => .vec 15 v) base :=
  ⟨⟨rfl, reads_low2 _ _ _ (by decide) (by decide)⟩, takes_low _ _ (by decide)⟩

theorem meets_VectorFusedAndUnaryComplete :
    base.Takes 15 (fun v => .vec 15 v) base ∧
    base.Reads (vSources 15 14 (.reg 13) ++ [15]) [Tab.get 0 base.me.v 14, Tab.get 0 base.me.v 13, Tab.get 0 base.me.v 15] base ∧
    base.Reads (vSources 15 14 (.reg 13)) [Tab.get 0 base.me.v 14, Tab.get 0 base.me.v 13] base ∧
    base.Reads [14] [Tab.get 0 base.me.v 14] base :=
  ⟨takes_low _ _ (by decide), reads_low3 _ _ _ _ (by decide) (by decide) (by decide), reads_low2 _ _ _ (by decide) (by decide),
   reads_low _ _ (by decide)⟩

theorem meets_VectorComparesAndMasksComplete :
    base.Reads (vSources ((7 : BitVec 3).setWidth 7) 15 .none)
      [Tab.get 0 base.me.v 7, Tab.get 0 base.me.v 15] base := reads_low2 _ _ _ (by decide) (by decide)

theorem meets_LaneMovementCompletes :
    base.Takes 15 (fun v => .vec 15 v) base ∧ base.Reads [14] [Tab.get 0 base.me.v 14] base ∧
    base.Reads (vSources 15 14 (.reg 13)) [Tab.get 0 base.me.v 14, Tab.get 0 base.me.v 13] base :=
  ⟨takes_low _ _ (by decide), reads_low _ _ (by decide), reads_low2 _ _ _ (by decide) (by decide)⟩

theorem meets_VectorSumsComplete :
    base.Reads [14] [Tab.get 0 base.me.v 14] base ∧ base.Takes 15 (fun v => .vec 15 v) base ∧ (7 : TypeCode).toNat < 8 ∧
    (8 ≤ (8 : TypeCode).toNat ∧ (11 : TypeCode).toNat < 12) :=
  ⟨reads_low _ _ (by decide), takes_low _ _ (by decide), by decide, by decide⟩

/-- Lanes 0 to 7 from a place. -/
def lanes8 (a : Word) : List LaneAt := (List.range 8).map fun k => (k, a + BitVec.ofNat 64 (8 * k))
def laneOk (a : Word) : Bool :=
  okThen (checkLanes 0 .load 8 (lanes8 a) base) fun ps r =>
    [grantLanes 0 8 ps a r, .ok ps r].all fun x => okThen x fun ps r =>
      okThen (readLanes 0 8 0 ((lanes8 a).zip ps) r) fun bss v => bss.all (fun bs => bs.length == 8) && base.me.m == v.me.m
/-- Lane 7 is the first of them that fails. -/
def laneFails (acc : Acc) : Bool :=
  let ls := lanes8 (pad 0x17FC8)
  okThen (checkLanes 0 acc 8 (ls.take 7) base) fun _ q =>
    match checked 0 acc (pad 0x18000) 8 8 q with | .trap 0x05 _ r => !r.me.waiting | _ => false

theorem meets_VectorMemoryCompletes :
    (base.Takes 15 (fun v => .vec 15 v) base ∧ (pad 0x17FC0).toNat % 64 = 0 ∧ laneOk (pad 0x17FC0) = true ∧
      okThen (checkLanes 0 .store 8 (lanes8 (pad 0x17FC0)) base) (fun _ _ => true) = true ∧
      (List.range 8).all (fun k => base.active 0 k) = true) ∧
    (lanes8 (pad 0x17FC8) = (lanes8 (pad 0x17FC8)).take 7 ++ (7, pad 0x18000) :: [] ∧ laneFails .load = true ∧ laneFails .store = true) ∧
    (base.me.waiting = false ∧ classify 0 (pad 0x17FF8) ≠ .bad ∧ (pad 0x17FF8).toNat % 64 ≠ 0) ∧
    base.Reads [15] [Tab.get 0 base.me.v 15] base ∧
    base.Reads [14, 15] [Tab.get 0 base.me.v 14, Tab.get 0 base.me.v 15] base ∧
    (let s := me fun x => { x with u := { x.u with bitp := 0xBFFFF - 127 } }; let p := s.me.u.bitp.toNat
     p + 64 * 2 - 1 ≤ 0xBFFFF ∧ okThen (Look.each (fun i s => readBits true 0 (p + i * 2) 2 0 s) (List.range 64) s)
       (fun _ u => u.me.m == s.me.m) = true) ∧
    0xBFFFF < (0xBFFFF : BitVec 20).toNat + 64 * 1 - 1 := by
  refine ⟨⟨takes_low _ _ (by decide), ?_⟩, ?_, ?_, reads_low _ _ (by decide), reads_low2 _ _ _ (by decide) (by decide), ?_, ?_⟩ <;>
    decide +kernel

theorem meets_SelectionAndExpansionComplete :
    (base.Reads [13] [Tab.get 0 base.me.v 13] base ∧ base.Takes 14 (fun v => .vec 14 v) base ∧
      base.Takes (14 + 1) (fun v => .vec 15 v) base ∧ (10 : TypeCode).toNat < 12 ∧ (16 : BitVec 5).toNat ≤ 16 ∧
      (16 : BitVec 5).toNat ≤ WF.lanes 10) ∧
    base.Reads [13, 14] [Tab.get 0 base.me.v 13, Tab.get 0 base.me.v 14] base ∧
    base.Reads [13, 14, 14 + 1] [Tab.get 0 base.me.v 13, Tab.get 0 base.me.v 14, Tab.get 0 base.me.v 15] base :=
  ⟨⟨reads_low _ _ (by decide), takes_low _ _ (by decide), takes_low _ _ (by decide), by decide, by decide, by decide⟩,
   reads_low2 _ _ _ (by decide) (by decide), reads_low3 _ _ _ _ (by decide) (by decide) (by decide)⟩

theorem meets_RandomLanesAndPruningComplete :
    base.Takes 15 (fun v => .vec 15 v) base ∧ base.Reads [14] [Tab.get 0 base.me.v 14] base ∧ (11 : TypeCode).toNat < 12 ∧
    [some 1, none, some 0, some 1].length = 4 :=
  ⟨takes_low _ _ (by decide), reads_low _ _ (by decide), by decide, by decide⟩

/-- Octet 2 as a gift of hart 1 to hart 0. -/
def gifted (x : State) : State :=
  (x.setOctet 0 2 { st := .given 1 0 }).modCore 0 fun k => { k with gifts := [2] }
/-- A descriptor of a stream of one dimension at a place. -/
def descriptor (s : State) (o : Nat) : State := s.writeBytes none (Config.spadKey + o) (toBytes 8 0xA000000000000000 ++ [1] ++
  List.replicate 7 0 ++ [5] ++ List.replicate 15 0 ++ [64])

theorem meets_OctetsAndStreamsComplete :
    (base.me.slotA = none ∧ base.me.slotB = none ∧ base.me.waiting = false) ∧
    (octets.me.slotA = some 0 ∧ octets.me.freshA = false ∧ octets.me.slotB.isSome = true ∧ octets.me.freshB = true ∧
      octets.me.waiting = false) ∧
    ((((octets.flushSlot false).modMe fun x => { x with slotA := none }).hart (0 * 4 + (3 : BitVec 2).toNat)).st = .free) ∧
    ((((withHart 3 hart0 octets).flushSlot false).modMe fun x => { x with slotA := none }).hart (0 * 4 + (3 : BitVec 2).toNat)).st
      ≠ .free ∧
    base.giftsTo 0 = [] ∧ (gifted octets).giftsTo 0 = 2 :: [] ∧ (gifted base).giftsTo 0 = 2 :: [] ∧
    ((base.stream 0 7).bound = false ∧ ((streaming { bound := true }).stream 0 7).bound = true ∧
      ((streaming { bound := true }).stream 0 7).wr = false) ∧
    (let s := streaming (writing 2)
     (s.stream 0 7).bound = true ∧ (s.stream 0 7).wr = true ∧
       someThen (State.writeElements 0 7 ((s.flushPushes 7).stream 0 7).buf.length (s.flushPushes 7)) (fun w => w.me.st == s.me.st)
         = true) ∧
    [base, descriptor base 0x17FC0].all (fun s => okThen (loadBytes 0 (pad 0x17FC0) 64 64 0 s) fun bs _ =>
      bs.length == 64 && (ofBytes (bs.drop 8) % 256 == 1) == (s.mem != base.mem) &&
        ofBytes ((bs.drop 0).take 8) % 64 == 0 && ofBytes ((bs.drop 9).take 7) == 0 && ofBytes ((bs.drop 32).take 8) % 64 == 0 &&
        (1 ≤ ofBytes ((bs.drop 16).take 4)) == (s.mem != base.mem)) = true := by decide +kernel

/-! ## Maps, arrays and rows -/

/-- A map of two shards, named by register 16: their descriptors stand at 0x200000 in vault 0 and, where the second GiB is
mapped, at the same place in vault 1; the table of each is one bucket at 0x210000. -/
def mapped (second : Bool) : State :=
  regs [(16, 0x200000)] { base with
    mem := tables ++ [(0x102008, 0x3F), (0x10200C, 0x01), (0x200006, 0x2F), (0x200007, 0x4B), (0x20000A, 0x21)] ++
      if second then [(0x100200006, 0x2F), (0x100200007, 0x4B), (0x10020000A, 0x21)] else [] }
/-- An operation of hart 0 as issued. -/
def mapOp (k : MapKind) : MapOp :=
  { kind := k, named := 0x200000, key := [1], val := [0], ptroot := 0x100000, part := some 0, mode := .kernel }

/-- The home and the descriptors that an operation of hart 0 comes to. -/
def sentTo (k : MapKind) (s : State) (f : Nat → Desc → Word → State → Bool) : Bool :=
  okThen (mapShard (s.who 0) (mapOp k) s) fun r t => someThen r fun x => f x.1 x.2.1 x.2.2 t

theorem meets_MapInstructionsComplete :
    (base.me.waiting = false ∧ (0x200001 : Word).toNat % 64 ≠ 0 ∧ (0x200000 : Word).toNat % 64 = 0 ∧
      canonical 0xA000000000000000 = false ∧ canonical 0x200000 = true) ∧
    (match bufferOf (mapOp .probe) 0 base with | .ok none _ => true | _ => false) = true ∧
    okThen (bufferOf { mapOp .probe with vf := 2 } (pad 0) base) (fun b _ => b.isSome) = true ∧
    (match mapShard (base.who 0) (mapOp .probe) base with | .trap _ _ t => !t.me.waiting | _ => false) = true ∧
    sentTo .probe (mapped false) (fun g d va s2 =>
      match acceptMap (s2.who 0) (mapOp .probe) g d va s2 with
      | .trap _ _ t => !t.me.waiting && s2.requestCut 0 (g * 2 ^ 32) == none && (s2.cluster g).pinEntries == []
      | _ => false) = true ∧
    [MapKind.probe, .ins, .ups, .rem].all (fun k =>
      drains (mapped true) fun t => sentTo k t fun g d va s2 =>
        s2.requestCut 0 (g * 2 ^ 32) == none && okThen (acceptMap (s2.who 0) (mapOp k) g d va s2) fun o s3 => someThen o fun op' =>
          g == 1 && (s2.cluster g).mapq == [] && s3.replyCut 0 (g * 2 ^ 32) == none &&
            s2.pinRoom g (some 0) 0 (op'.pages.map (·.2.1)).eraseDups) = true ∧
    (let s := { mapped true with badCodewords := [0x200000 / 1024] }
     drains s fun t => okThen (mapShard (t.who 0) (mapOp .probe) t) fun r _ => r.isNone) = true ∧
    (let s := { mapped true with badCodewords := [0x100200000 / 1024] }
     sentTo .probe s fun g d va s2 => s2.requestCut 0 (g * 2 ^ 32) == none && (s2.cluster g).pinEntries == [] &&
       okThen (acceptMap (s2.who 0) (mapOp .probe) g d va s2) fun o _ => o.isNone) = true := by decide +kernel

/-- The bucket of an idle shard at 0x210000, after the bytes `hdr`; its descriptor, and an operation accepted there. -/
def bucketed (hdr : List Byte) : State := base.writeBytes none 0x210000 hdr
def shardDesc : Desc := [0x4B2F000000000000, 0x210000, 0, 0, 0, 0, 0, 0]
def accepted (k : MapKind) : MapOp := { mapOp k with desc := 0x200000, words := shardDesc, pages := [(0x20, 0x20, none), (0x21, 0x21, none)] }

/-- The result that an operation comes to in the bucket. -/
def answers (k : MapKind) (hdr : List Byte) (c0 : Word) : Bool :=
  match mapAct (accepted k) 0 shardDesc (bucketed hdr) with | .ok a _ => a.c0 == c0 | _ => false

/-- With the bucket empty, with the key in slot 0 (the tag of key 1 under seed 0 is 0xB9 by R274), and with four other keys. -/
theorem test_map_empty : (answers .probe [] 0 && answers .ins [] 1) = true := by decide +kernel
theorem test_map_present : (answers .rem [0xB9, 0, 0, 0, 0, 0, 0, 0, 1] 1 && answers .ups [0xB9, 0, 0, 0, 0, 0, 0, 0, 1] 1) = true := by
  decide +kernel
theorem test_map_full : (answers .ins [5, 5, 5, 5] (-2) && answers .rem [5, 5, 5, 5] 0) = true := by decide +kernel

theorem meets_MapResults :
    (shardDesc.length = 8 ∧ Desc.growing shardDesc = false ∧ ((accepted .probe).pages.map (·.2.1)).Nodup ∧
      (accepted .ins).key.length = Desc.kw shardDesc ∧ (accepted .ins).val.length = Desc.vw shardDesc ∧
      (Desc.count shardDesc + 1) * 8 ≤ Desc.thr shardDesc * 2 ^ Desc.lg (Desc.w shardDesc 1) * 4) ∧
    (answers .probe [] 0 = true ∧ answers .rem [0xB9, 0, 0, 0, 0, 0, 0, 0, 1] 1 = true) ∧
    ((chainVas shardDesc (Desc.w shardDesc 1) (mapHash (Desc.seed shardDesc) [1])).all fun b =>
      (List.range (Desc.bucket shardDesc / 8)).all fun i =>
        ((accepted .probe).pages.find? fun p => p.1 == (b + BitVec.ofNat 64 (8 * i)).toNat / 65536).isSome) = true :=
  ⟨by decide +kernel, by decide +kernel, by decide +kernel⟩

/-- Hart 0 holds the lease of its current array for a run. -/
def leasing (r : Nat) (s : State) : State := s.modGroup 0 fun x => { x with holder := some (0, r) }
/-- Eight and seven commands are queued. -/
def busyWith (n : Nat) (s : State) : State := s.modGroup 0 fun x => { x with cmds := List.replicate n { kind := .zero, h := 0 } }

theorem meets_MatrixInstructionsComplete :
    ((leasing 1 base).leased 0).isSome = true ∧
    (base.leased 0 = none ∧ (base.group (0 / 256 * 4 + 3)).holder = none ∧ (base.group 3).lq = []) ∧
    (let s := base.modGroup 3 fun x => { x with holder := some (1, 2) }
     s.leased 0 = none ∧ ¬ ((s.group 3).holder = none ∧ (s.group 3).lq = [])) ∧
    ((busyWith 7 base).group ((busyWith 7 base).curGroup 0)).queued < 8 ∧
    okThen (unitPlace .atomic (pad 0x17FF0) 16 16 base) (fun p t =>
      !t.me.waiting && (t.group 0).queued < 8 && base.pinRoom 0 base.me.part base.me.t.pspace (pagesOf [p]) && drains t) = true ∧
    okThen (unitPlace .atomic 0x200000 16 16 base) (fun p t => pagesOf [p] == [0x20] && t.pinRoom 0 t.me.part t.me.t.pspace [0x20])
      = true ∧
    ((0x17C00 : Word).toNat % 128 = 0 ∧ (0x17C00 : Word).toNat + 1024 ≤ 0x18000 ∧ ¬ (0x17C80 : Word).toNat + 1024 ≤ 0x18000 ∧
      (0x17C40 : Word).toNat % 128 ≠ 0) := by decide +kernel

/-- Hart 0 with operand formats, an object at the end of its scratchpad, and a lease. -/
def formats (a b : BitVec 8) (r : Nat) : State :=
  leasing r ((regs [(16, pad 0x17FF0)] base).modMe fun x =>
    { x with u := { x.u with fmta := a, fmtb := b, cbka := pad 0x20, cbkb := pad 0x80 } })
def bothBooks (s : State) : Bool := isBook (fmtType s.me.u.fmta) && isBook (fmtType s.me.u.fmtb)
/-- The places of a product are found, and the queue takes `m` commands. -/
def productOk (m : Nat) (s : State) : Bool :=
  someThen (s.leaseRun 0 0) (fun r => decide (m ≤ r)) &&
    okThen (unitPlace .atomic (s.rd 16) 16 16 s) fun po s1 => okThen (bookPlace s.me.u.fmta s.me.u.cbka s1) fun pa s2 =>
      okThen (bookPlace s.me.u.fmtb s.me.u.cbkb s2) fun pb s3 =>
        s.pinRoom 0 s.me.part s.me.t.pspace (pagesOf ([po] ++ [pa, pb])) && drains s3

theorem meets_MatrixProductsComplete :
    (let s := formats 8 13 1; s.denseOnly = false ∧ s.me.hold = none ∧ bothBooks s = false ∧ productOk 1 s = true) ∧
    (let s := formats 12 8 8; s.denseOnly = false ∧ bothBooks s = false ∧ productOk 8 s = true) ∧
    (let s := formats 8 12 1; let w := depthOf s.me.u.fmta / 64; let c := chunksOf (fmtType s.me.u.fmtb)
     fmtSparse s.me.u.fmtb = 0 ∧ w ≤ c ∧ 3 % w = 0 ∧ 3 < c ∧ ¬ 4 < c ∧ bothBooks s = false ∧ productOk 1 s = true) ∧
    (let s := busyWith 7 (formats 12 8 8); productOk 8 s = true ∧ 8 - (s.group 0).queued = 1) ∧
    (let s := (busyWith 7 (formats 12 8 8)).modMe fun x => { x with hold := some ⟨.arrayMid [{ kind := .mul, h := 0 }] 65536 1, 3, false, none⟩ }
     someThen s.me.hold (fun x => x.kind == .arrayMid [{ kind := .mul, h := 0 }] 65536 1) = true ∧ (s.group 0).queued + 1 ≤ 8) ∧
    (let s := formats 12 13 1; bothBooks s = true ∧ s.me.waiting = false) ∧
    ((∀ r, base.leaseRun 0 0 = some r → r < 1) ∧ (∀ r, (formats 8 8 31).leaseRun 0 0 = some r → r < 32)) ∧
    (let s := { formats 12 8 1 with boot := {} }; s.denseOnly = true ∧ s.me.waiting = false) := by
  refine ⟨by decide +kernel, by decide +kernel, by decide +kernel, by decide +kernel, by decide +kernel, by decide +kernel,
    ⟨fun r h => ?_, fun r h => ?_⟩, by decide +kernel⟩
  · have g : base.leaseRun 0 0 = none := by decide +kernel
    rw [g] at h
    cases h
  · have g : (formats 8 8 31).leaseRun 0 0 = some 31 := by decide +kernel
    rw [g] at h
    cases h
    decide

/-- Slot 3 of the leased array of hart 0. -/
def slot3 (t : Nat) (x : RowSlot) : State := { (leasing 1 base).setSlot 0 3 x with tick := t }
/-- A unit's turn at indices i and j. -/
def unitAt (i j : Nat) (s : State) : State := { s with ev := { i := i, j := j } }
/-- Bank 255 of cluster 127, at a tick. -/
def bank255 (t : Nat) (x : VBank) : State := unitAt 127 255 { base.modBank 127 255 (fun _ => x) with tick := t }

theorem meets_RowsComplete :
    (base.leaseRun 0 0 = none ∧ base.me.waiting = false) ∧
    (let s := slot3 0 {}
     (s.leaseRun 0 0).isSome = true ∧ okThen (rowPlace 0 0x400000 s) (fun p t => t.me.sbuf.all (fun e => !e.overlaps p.key 8192) &&
       !t.pushedBefore 0 t.steps p.key 8192 p.so && !p.so && s.pinRoom 0 s.me.part s.me.t.pspace [p.key / 65536] &&
         let y := t.senseDue 0
         (y.slot 0 3).at y.tick == .free && !y.earlierWait 0 3 && !y.rowHeld 0 3 &&
           (y.bankSlots 0 (bankOf p.key)).all (fun q => !q.holdsAt y.tick)) = true) ∧
    (let s := (slot3 0 {}).modMe fun x => { x with sbuf := [{ base := 0x400000, bytes := [1] }] }
     okThen (rowPlace 0 0x400000 s) (fun p t => t.me.sbuf.any (fun e => e.overlaps p.key 8192) && drains t) = true) ∧
    (let s := slot3 3599 { st := .ready, row := 0x600000, holds := true }
     okThen (rowPlace 0 0x400000 s) (fun p t => (t.bankSlots 0 (bankOf p.key)).any fun y => y.holdsAt t.tick) = true ∧
       ((s.senseDue 0).slot 0 3).at s.tick = .ready ∧ (s.slot 0 3).st ≠ .free ∧ (s.senseDue 0).earlierWait 0 3 = false ∧ (s.senseDue 0).rowHeld 0 3 = false ∧
       (s.senseDue 0).senseOf 0 3 = none) ∧
    (let s := slot3 3599 { st := .taken, holds := true }; (s.slot 0 3).at s.tick = .taken ∧ (s.slot 0 3).holdsAt s.tick = true) ∧
    (let s := slot3 13 { st := .activating, holds := true }; (s.slot 0 3).at s.tick = .activating) ∧
    (let s := slot3 3600 { st := .activating, holds := true }; (s.slot 0 3).at s.tick = .expired) ∧
    (let s := slot3 3600 { st := .taken, holds := true }; (s.slot 0 3).at s.tick = .taken ∧ (s.slot 0 3).holdsAt s.tick = false) ∧
    ((slot3 0 {}).slot 0 3).at 0 = .free ∧
    (let s := unitAt 0 3 (slot3 5 { st := .activating, holds := true, want := some (5, 0, 9) })
     s.ev.i < 512 ∧ s.ev.j < 4 ∧ (s.slot 0 3).want ≠ none ∧ s.earlierWait 0 3 = false ∧
       someThen (s.senseOf 0 3) (fun p => decide (p.2 ≤ s.tick)) = true) ∧
    (let s := unitAt 511 3 { base.setSlot 511 3 { st := .activating, holds := true } with tick := 14 }; let x := s.slot 511 3
     s.ev.i < 512 ∧ x.st = .activating ∧ x.at s.tick = .ready) ∧
    (let s := unitAt 0 3 (slot3 3600 { st := .ready, holds := true }); let x := s.slot 0 3
     x.holds = true ∧ x.want = none ∧ x.st ≠ .free ∧ x.a + 3600 ≤ s.tick) ∧
    (let s := bank255 7 { closing := true, release := 7 }; let y := s.bank 127 255
     s.ev.i < 128 ∧ s.ev.j < 256 ∧ y.closing = true ∧ y.release ≤ s.tick) ∧
    (let s := bank255 21 { everOpened := true, release := 7 }; let y := s.bank 127 255
     y.everOpened = true ∧ y.closing = false ∧ y.release + 14 ≤ s.tick) ∧
    (let s := bank255 3900 { refreshed := true }; let y := s.bank 127 255
     ¬ (y.refreshed = true ∧ s.tick < y.lastRefresh + 3900) ∧ (∀ z ∈ s.bankSlots 127 255, ¬ (z.want = none ∧ z.holdsAt s.tick = true)) ∧
       ¬ s.tick < s.bankReady 127 255 ∧ ¬ s.tick < y.busyUntil) ∧
    (let s := bank255 3900 { refreshed := true, busyUntil := 3901 }; s.tick < (s.bank 127 255).busyUntil) ∧
    (let s := bank255 3900 { refreshed := true, everOpened := true, release := 3887 }; s.tick < s.bankReady 127 255) := by decide +kernel

/-! ## Supervisor instructions -/

theorem meets_SupervisorInstructionsTrapInUserMode :
    (me fun x => { x with mode := .user }).me.mode = .user ∧ (me fun x => { x with mode := .user }).me.waiting = false := by
  decide +kernel

/-- Hart 0 held at `k`. -/
def heldAt (k : HoldKind) (s : State) : State := s.modMe fun x => { x with hold := some ⟨k, 1, false, none⟩ }
/-- A walk that ends in a leaf that meets `f`. -/
def leafThen (w : Walk) (f : Word → Nat → Nat → Bool) : Bool := match w with | .leaf e entry level => f e entry level | _ => false
def faults (w : Walk) : Bool := match w with | .fault .. => true | _ => false
/-- A splinter that has to wait; one that ends with `n`. -/
def splintWaits (x : Splint) : Bool := match x with | .wait .. => true | _ => false
def splintEnds (n : Int) (x : Splint) : Bool := match x with | .done r _ => r == n | _ => false
/-- The first MiB mapped by 64 KiB leaves, the first of them present. -/
def small : State :=
  { base with mem := [(0x100000, 0x01), (0x100001, 0x10), (0x100002, 0x10), (0x101000, 0x01), (0x101001, 0x20), (0x101002, 0x10),
      (0x102000, 0x01), (0x102001, 0x30), (0x102002, 0x10), (0x103000, 0x01), (0x103001, 0x40), (0x103002, 0x10), (0x104000, 0x3F)] }
/-- The 1 GiB leaf is marked. -/
def markedLeaf : State := base.writeBytes none 0x102001 [0x08]
/-- Hart 1 of the partition has a store under way. -/
def inUse (s : State) : State :=
  withHart 1 { hart0 with sbuf := [{ base := 0x200000, bytes := [1], va := 0x200000 }] } s
/-- A page of the partition's splinter pool. -/
def pooled (s : State) : State := s.modPart 0 fun x => { x with splitHead := 0x300000 }
/-- Hart 0 held after the table of a splinter is built, while the entry holds `old`, or once it is in place. -/
def splinting (old : Word) (uses : Bool) (s : State) : State :=
  s.modMe fun x => { x with hold := some ⟨.splinter 0x102000 2 0x300000 old uses, 2, false, none⟩ }
/-- A translation of the 1 GiB leaf is cached. -/
def cached (s : State) : State := s.modCluster 0 fun x => { x with tlb := [{ part := some 0, level := 2, leaf := 0x3F, entry := 0x102000 }] }

theorem meets_TranslationAndKeyInstructionsComplete :
    (base.me.mode ≠ .user ∧ drains base = true ∧ base.me.waiting = false ∧ canonical 0x200000 = true ∧
      canonical 0xA000000000000000 = false) ∧
    ((base.invalidate 0 4 (some 0) fun _ => true).usesLeft 0 4 (some 0) ((0, 2 ^ 64) :: base.cachedRanges 0 4 (some 0) fun _ => true)
        = false ∧
      (let t := cached (inUse base)
       drains t = true ∧ ((t.invalidate 0 4 (some 0) fun _ => true).usesLeft 0 4 (some 0)
         ((0x400000, 65536) :: t.cachedRanges 0 4 (some 0) fun e => e.covers 0x400000)) = true)) ∧
    (let s := heldAt (.tinv [(0x200000, 65536)]) base
     someThen s.me.hold (fun k => k.kind == .tinv [(0x200000, 65536)]) = true ∧ s.usesLeft 0 4 s.me.part [(0x200000, 65536)] = false) ∧
    faults (ownWalk 0x40000000 base) = true ∧
    leafThen (ownWalk 0 markedLeaf) (fun e _ _ => e.getLsbD 11) = true ∧
    leafThen (ownWalk 0 small) (fun e _ level => !e.getLsbD 11 && level == 0) = true ∧
    leafThen (ownWalk 0x200000 base) (fun e _ level => !e.getLsbD 11 && level != 0 && (base.part 0).splitHead == 0) = true ∧
    leafThen (ownWalk 0x200000 (pooled base)) (fun e entry level =>
      splintWaits (splintStart 0x200000 e entry level ((pooled base).walkDone (ownWalk 0x200000 (pooled base)) 0x200000))) = true ∧
    [true, false].all (fun uses => let s := splinting 0x3F uses base
      (uses || (s.bankFree 0x102000 s.tick && s.rd8 0x102000 == 0x3F)) &&
        !(if uses then s else s.devWriteFor 0 0x102000 (toBytes 8 0x300001)).usesLeft 0 4 (some 0) [(0, leafSize 2)]) = true ∧
    (base.keyRange 15 = true ∧ base.keyRange 16 = false ∧ okThen (loadBytes 0 (pad 0) 64 64 0 base) (fun _ _ => true) = true) ∧
    (classify 0 (pad 0x17FC0) = .coord 0x17FC0 ∧ base.SpadOpen 0 0x17FC0 64 ∧ (pad 0x17FC0).toNat % 64 = 0 ∧
      base.pushedBefore 0 base.steps (Config.spadKey + 0x17FC0) 64 false = false) :=
  by refine ⟨?_, ?_, ?_, ?_, ?_, ?_, ?_, ?_, ?_, ?_, ?_, opened ?_, ?_⟩ <;> decide +kernel

/-- What MIGR does after the mark, at a leaf that needs no splitting. -/
def migrates (va : Word) (s : State) (f : State → Nat → Nat → Nat → Bool) : Bool :=
  leafThen (ownWalk va s) fun e entry level =>
    let first := va.toNat / leafSize level * leafSize level
    let n := leafSize level / 65536
    let u := ((s.walkDone (ownWalk va s) va).setMark s.cx.hart entry true).invalidate s.cx.hart 4 s.me.part fun x =>
      decide (x.base.toNat < first + leafSize level) && decide (first < x.base.toNat + leafSize x.level)
    !e.getLsbD 11 && s.bankFree entry ((s.who s.cx.hart).came entry s.tick) && f u (e.toNat / 2 ^ 16 % 2 ^ 36) n entry
def usedAt (va : Word) (u : State) (n : Nat) : Bool :=
  u.usesLeft u.cx.hart 4 u.me.part [(va.toNat / (n * 65536) * (n * 65536), n * 65536)]
/-- A pin on page 0. -/
def pinnedPage (s : State) : State := s.pin 0 ⟨some 0, 0, 0, .cmd 0⟩

theorem meets_MigrationInstructionsComplete :
    (base.me.mode ≠ .user ∧ base.me.hold = none ∧ canonical 0xA000000000000000 = false ∧ base.me.waiting = false ∧
      canonical 0 = true ∧ drains base = true) ∧
    faults (ownWalk 0x40000000 base) = true ∧ leafThen (ownWalk 0 markedLeaf) (fun e _ _ => e.getLsbD 11) = true ∧
    leafThen (ownWalk 0 base) (fun e _ level =>
      !e.getLsbD 11 && level != 0 && (base.part 0).splitHead == 0) = true ∧
    leafThen (ownWalk 0 (pooled base)) (fun e entry level =>
      splintWaits (splintStart 0 e entry level ((pooled base).walkDone (ownWalk 0 (pooled base)) 0))) = true ∧
    (let s := heldAt (.migrate 0x104000 0 1 0 none) small
     s.pinned 0 1 = false ∧ s.usesLeft 0 4 s.me.part [(0, 65536)] = false) ∧
    splintEnds 1 (splintGo 0x102000 2 0x300000 0x3F true 0 (splinting 0x3F true base)) = true ∧
    splintEnds (-3) (splintGo 0x102000 2 0x300000 0x7F false 0 (splinting 0x7F false base)) = true ∧
    splintEnds (-1) (splintGo 0x101000 3 0x300000 0x7F false 0 (splinting 0x7F false base)) = true ∧
    leafThen (ownWalk 0 small) (fun _ _ level => level == 0) = true ∧
    migrates 0x200000 (inUse base) (fun u _ n _ => usedAt 0x200000 u n) = true ∧ drains (inUse base) = true ∧
    migrates 0 small (fun u lo n _ => !usedAt 0 u n && !u.pinned lo n) = true ∧ drains small = true ∧
    migrates 0 (pinnedPage small) (fun u lo n entry => !usedAt 0 u n && u.pinned lo n && u.bankFree entry u.tick) = true ∧
      drains (pinnedPage small) = true := by decide +kernel

/-- Registers 16 and 17 of hart 0 name hart 1 or another, and an area. -/
def saver (x : Hart) (s : State) : State := regs [(16, 1), (17, 0x210000)] (withHart 1 x s)
def areaThen (pins : Bool) (s : State) (f : Area → State → Bool) : Bool := okThen (areaParts pins 0x210000 s) fun a t => drains t fun q => f a q
/-- A hart that can be evicted, held at a wait for an event. -/
def idle : Hart := { hart0 with hold := some ⟨.wfe, 1, false, none⟩ }

/-- The pages of that area mapped by leaves of their own. -/
def paged : State := { small with mem := small.mem.take 12 ++
  [(0x103008, 0x01), (0x103009, 0x40), (0x10300A, 0x10), (0x104008, 0x3F), (0x10400A, 0x21), (0x104010, 0x3F), (0x104012, 0x22),
   (0x104018, 0x3F), (0x10401A, 0x23)] }

theorem meets_ContextInstructionsComplete :
    (base.me.mode ≠ .user ∧ base.me.hold = none ∧ drains base = true) ∧
    [true, false].all (fun b => areaThen b (regs [(16, 0x40000000)] paged) fun _ t => t.ctxTarget (t.rd 16) == none) = true ∧
    areaThen true (regs [(16, 0)] paged) (fun _ t => t.ctxTarget (t.rd 16) == some 0) = true ∧
    areaThen true (saver {} paged) (fun _ t => t.ctxTarget (t.rd 16) == some 1 && (t.hart 1).st == .free) = true ∧
    areaThen true (saver hart0 paged) (fun _ t => t.ctxTarget (t.rd 16) == some 1 && !(t.hart 1).frozen && (t.hart 1).st == .active &&
      !t.evictable 1) = true ∧
    [hart0, idle].all (fun x => areaThen true (saver x paged) fun area t =>
      (t.hart 1).boundary &&
        let taken := (area.foldl (fun v p => v.pin 0 ⟨v.me.part, v.me.t.pspace, p.1 / 65536, .area t.cx.hart⟩) t).freeze 1
        taken.enginesDone 1 && someThen (taken.flushStreams 1) fun u => u.areaBlock area (fun _ => u.tick) == none && t.evictable 1 == (x == idle)) = true ∧
    areaThen false (saver hart0 paged) (fun _ t => (t.hart 1).st != .saved) = true ∧
    [1, 0xC7].all (fun m => areaThen false (saver { hart0 with st := .saved } { paged with mem := paged.mem ++ [(0x210000, 1), (0x210007, m)] })
      fun area t => (t.hart 1).st == .saved && t.areaBlock area (fun pa => (t.who 0).came pa t.tick) == none && !t.eccBad (areaAt area 0).1 8 &&
        area.all (fun p => !t.eccBad p.1 (min p.2.2 areaSize)) &&
        ((t.areaGet area 0).toNat / 2 ^ 56 == 0xC7) == (m == 0xC7) &&
          (t.areaGet area 0).toNat % 2 ^ 25 == (t.hartId 1).toNat) = true ∧
    (let s := { saver { hart0 with st := .saved } { paged with mem := paged.mem ++ [(0x210000, 1), (0x210007, 0xC7)] } with
      badCodewords := [0x220000 / 1024] }
     areaThen false s fun area t => (t.hart 1).st == .saved && t.areaBlock area (fun pa => (t.who 0).came pa t.tick) == none &&
      !t.eccBad (areaAt area 0).1 8 && (t.areaGet area 0).toNat / 2 ^ 56 == 0xC7 && (t.areaGet area 0).toNat % 2 ^ 25 == (t.hartId 1).toNat &&
        area == area.take 1 ++ area.drop 1 && (area.take 1).all (fun r => !t.eccBad r.1 r.2.2) && area.all (fun r => decide (r.2.2 ≤ 0x24000)) &&
          someThen area[1]? fun p => t.eccBad p.1 p.2.2) = true ∧
    (let s := { saver { hart0 with st := .saved } { paged with mem := paged.mem ++ [(0x210000, 1)] } with badCodewords := [0x210000 / 1024] }
     areaThen false s fun area t => t.eccBad (areaAt area 0).1 8) = true ∧
    (let s := saver { hart0 with st := .saved } base
     s.ctxTarget (s.rd 16) = some 1 ∧ (s.hart 1).st = .saved ∧ s.mailBlock 1 = none) ∧
    (let s := saver { hart0 with st := .parked } base
     s.ctxTarget (s.rd 16) = some 1 ∧ (s.hart 1).frozen = false ∧ (s.hart 1).st = .parked ∧ drains s = true) ∧
    (let s := (saver hart0 base).setXfer 0 7 { live := true, gen := 1, issuer := 1, faultSusp := true }
     match s.whose 1 15 with | .own 0 7 x => x.live && x.faultSusp | _ => false) = true ∧
    isNone (base.whose 1 15) = true := by decide +kernel

/-- The saved context of hart 1, in an area of one part. -/
theorem meets_ContextInstructionsComplete_saved :
    let s := withHart 1 { hart0 with st := .saved } base; let area : Area := [(0x240000, none, 0x24000)]; let x := s.hart 1
    (area.map (·.2.2)).sum = 0x24000 ∧ (∀ p ∈ area, p.1 % 64 = 0 ∧ p.2.2 % 64 = 0) ∧
      area.Pairwise (fun p q => p.1 + p.2.2 ≤ q.1 ∨ q.1 + q.2.2 ≤ p.1) ∧
      (∀ p ∈ area, ∀ b, p.1 ≤ b → b < p.1 + p.2.2 → s.shadowDraw b = none) ∧
      x.savedSlots ∈ [[], [false], [true], [false, true]] ∧ x.savedOctets.length = x.savedSlots.length ∧
      x.savedOctets.length + x.savedGifts.length ≤ 4 := by
  refine ⟨by decide, by decide, by decide, fun p _ b _ _ => ?_, by decide, by decide, by decide⟩
  unfold State.shadowDraw
  split <;> rfl

/-! ## Steps of the other agents -/

/-- Hart 0 with stores in its buffer. -/
def storing (es : List StoreEnt) : State := me fun x => { x with sbuf := es }
def spadStore : StoreEnt := { base := Config.spadKey + 0x17FF8, bytes := [1] }
def farStore : StoreEnt := { base := Config.spadKey + 0x20000, bytes := [1] }
def vaultStore : StoreEnt := { base := 0x200000, bytes := [1] }
/-- The entry at the turn's indices exists and may be performed. -/
def mayAt (s : State) (f : StoreEnt → Bool) : Bool :=
  someThen ((s.hart s.ev.i).sbuf[s.ev.j]?) fun e => s.storeMay s.ev.i s.ev.j && f e

/-- Hart 1 waits at banks. -/
def padHeld (w : PadWait) (s : State := base) : State := s.modHart 1 fun x => { x with st := .active, hold := some ⟨.pad w, 1, false, none⟩ }

/-- A remote store of hart 4 waits at bank 8, which has made `n` grants since. -/
def rival (n : Nat) : State :=
  (base.modHart 4 fun x => { x with sbuf := [{ base := Config.spadKey + 0x840, bytes := List.replicate 8 1, sent := true }] }).modCore 0
    fun k => { k with grants := [(8, n)] }
/-- R45's example: the load is in class 2 and goes first, until the store has lost four arbitrations (hand calculation). -/
theorem test_bank_rank :
    okThen (loadBytes 0 (pad 0x40) 8 8 0 (rival 3)) (fun _ _ => true) = true ∧
    (match loadBytes 0 (pad 0x40) 8 8 0 (rival 4) with | .wait (.pad w) _ => w.words == [8] && w.cls == 2 | _ => false) = true ∧
    okThen (loadBytes 0 (pad 0x48) 8 8 0 (rival 4)) (fun _ _ => true) = true := by decide +kernel

theorem meets_StoreStepsComplete :
    (let s := storing [vaultStore]
     mayAt s (fun e => !e.toReg && !isSpad e.base && s.entryFree 0 0 e) = true) ∧
    mayAt (storing [spadStore]) (fun e => !e.toReg && isSpad e.base) = true ∧
    mayAt waitsBank (fun e => !e.toReg && !waitsBank.entryFree 0 0 e) = true ∧
    (let d := { vaultStore with sent := true }; let s := storing [d]
     mayAt s (fun e => !s.ev.ok && e.sent && isVault e.base && s.entryFree 0 0 e) = true) ∧
    (let d := { farStore with sent := true }; let s := storing [d]
     mayAt s (fun e => !s.ev.ok && e.sent && e.remote 0 && s.granted 0 0 e) = true) ∧
    (let s := { base with devPend := [{ pa := 0x200000, bytes := [1] }], ev := { ok := true } }
     someThen (s.devPend[0]?) (fun d => s.devFree 0 d) = true) ∧
    (let d := { spadStore with sent := true }; let s := unitAt 0 15 (storing [d])
     s.ev.i < 8192 ∧ s.ev.j < 16 ∧ (s.bankReqs 0).filter (·.uses 15) ≠ [] ∧ s.granted 0 0 d = true ∧ d.whole = false) ∧
    (let w := base.readAsk 1 none (Config.spadKey + 0x17FF8) 8 true false; let s := unitAt 0 15 (padHeld w)
     (s.bankReqs 0).filter (·.uses 15) ≠ [] ∧ ∀ r ∈ s.bankReqs 0, r.asker = .read 1) ∧
    (let s := { base with trained := [(1, 23)], ev := { ok := true, w := 8, v := pad 0x17FF8 } }
     s.trained ≠ [] ∧ s.boot.full = true ∧ 0 < s.ev.w ∧ s.ev.w ≤ 4096 ∧ s.ev.bytes = [] ∧ s.ev.v.toNat / 2 ^ 30 = 0xA0 * 2 ^ 26 ∧
       s.ev.v.toNat % 2 ^ 17 + s.ev.w ≤ 0x18000 ∧ (s.partOf (coreOfBits (s.ev.v.toNat % 2 ^ 30) / 64)).isSome) ∧
    (let r : PeerReq := { key := Config.spadKey + 0x40, data := some [1], n := 1 }; let s := { rival 4 with peerPend := [r] }
     let turn := fun s : State => s.padTurn (· == .peer 0) ((s.ask (padCore r.key) (spadWords (r.key % 2 ^ 17) 1) false 5).kept none)
     s.peerPend[0]? = some r ∧ s.eccBad r.key r.n = false ∧ turn { base with peerPend := [r] } = true ∧ turn s = false) ∧
    (isSpad (Config.spadKey + 0x17FF8) = true ∧ 15 < 16) ∧
    (let s := { me fun x => { x with hold := some ⟨.waitt 7, 1, false, none⟩ } with tick := 7 }
     (s.hart 0).st = .active ∧ (s.hart 0).hold = some ⟨.waitt 7, 1, false, none⟩ ∧ (7 : Word).toNat ≤ (s.partTick (s.hart 0).part).toNat) := by
  decide +kernel

/-- The group's queue holds a command, and rings 0 and 1 are in use with one operand each. -/
def commanded (c : Cmd) : State :=
  let r : Ring := { cfg := 0x4180100000000000, tail := 1 }
  ((base.setRing 0 0 r).setRing 0 1 r).modGroup 0 fun x => { x with cmds := [c], slots := [(0, { st := .ready, holds := true })] }
def copyingAt (x : Xfer) : State := unitAt 0 7 (slot7 { x with live := true, gen := 1, part := some 0, mode := .kernel, rowlen := 16, src := pad 0, dst := pad 16 })

theorem meets_UnitStepsComplete :
    (let s := base.modCore 0 fun k => { k with claims := [{ h := 0, n := 2 }] }
     (s.core 0).claims = { h := 0, n := 2, resumed := false } :: [] ∧ 2 ≤ (s.freeOctets 0).length) ∧
    (let s := unitAt 0 7 (streaming { bound := true, base := pad 0x17FC0, ndim := 1, counts := [1], strides := [64] })
     (s.stream 0 7).bound = true ∧ (s.stream 0 7).wr = false ∧ (s.stream 0 7).buf.length < 4 ∧ (s.hart 0).st ≠ .free ∧
       (s.hart 0).st ≠ .saved ∧ s.scopeHeld 0 = false ∧ s.withheld 0 = false ∧ okThen (fetchElement 0 7 s) (fun _ _ => true) = true) ∧
    (match fetchElement 0 7 (streaming { bound := true, base := 0x200000, ndim := 1, counts := [1], strides := [64] } |> hosted) with
      | .host _ _ => true | _ => false) = true ∧
    (let s := streaming (writing 1); (s.stream 0 7).buf = {} :: [] ∧ (s.hart 0).sbuf.any (·.stream == some 7) = false) ∧
    (let op := { mapOp .stat with desc := 0x200000, words := [0x4B2F000000000000, 0x210000, 0, 0, 0, 0, 0, 0], pages := [(0x20, 0x20, none)] }
     let s := (mapped false).modCluster 0 fun k => { k with mapq := [op] }
     (s.cluster 0).mapq = [] ++ op :: [] ∧ s.scopeHeld op.h = false ∧ (match runMap op 0 s with | .ok _ _ => true | _ => false) = true ∧
       (match runMap op 0 { s with badCodewords := [0x200000 / 1024] } with | .ecc _ _ => true | _ => false) = true) ∧
    [CmdKind.zero, .load, .store, .release, .mul, .mulr].all (fun k =>
      let c : Cmd := { kind := k, h := 0, obj := Config.spadKey, qb := 1, na := 1, nb := 1, depth := 64 }
      let s := commanded c
      (s.group 0).cmds == [c] && !s.scopeHeld 0 && !s.me.owes && !s.arrayRefused 0 c &&
        !(bankWaits (s.group 0).waits s.tick c.vaults).any (fun w => !s.bankFree w.2 w.1) && (k != .mul || someThen (runMul 0 c s) fun _ => true) &&
        (k != .mulr || someThen (runMulR 0 c s) fun _ => true)) = true ∧
    (let s := copyingAt { chunk := some ([], []) }; (s.xfer 0 7).suspended = false ∧ s.scopeHeld (s.xfer 0 7).issuer = false ∧
       (s.hart (s.xfer 0 7).issuer).owes = false) ∧
    (let s := copyingAt {}
     (s.xfer 0 7).chunk = none ∧ okThen (chunkSpans (s.xfer 0 7) s) (fun ab _ =>
       s.pinRoom 0 (some 0) 0 (spanPages (ab.1 ++ ab.2))) = true) ∧
    (let s := { heldAt (.copy 15 none) (copyingAt { promise := 0 }) with tick := 3 }; let x := s.xfer 0 7
     (s.hart x.issuer).hold = some ⟨.copy (x.id 7) none, 1, false, none⟩ ∧ (s.hart x.issuer).st = .active ∧ s.promiseDue x = true ∧
       (s.hart x.issuer).waiting = false) ∧
    (let s := pinnedPage (heldAt (.migrate 0x102000 0 1 0 (some 0)) base)
     0 ≤ s.tick ∧ s.pinned 0 1 = true ∧ s.bankFree 0x102000 s.tick = true) ∧
    [none, some []].all (fun f =>
      let s := (heldAt (.qwait 0) base).modPart 0 fun x => { x with qwaits := [{ h := 0, level := 0, first := f }] }
      let ext := (s.launch 1).extent 0
      someThen ((s.part 0).qwaits.find? (·.h == 0)) (fun q => q.first == f && q.level == 0) &&
        (s.cores.filter fun kc => kc.1 * 4 / ext == 0 / ext).map (fun kc => Tab.get (0, 0) kc.2.qcount 1) == [] &&
        s.harts.all (fun kx => s.quiet kx.1) && !(s.launch 1).fabric 0) = true := by decide +kernel

/-- Sixteen bytes of the own scratchpad to the sixteen behind them. -/
def shortCopy : List CopySpan × List CopySpan := ([{ key := Config.spadKey, n := 16 }], [{ key := Config.spadKey + 16, n := 16 }])

theorem meets_ProductAndChunkResults :
    [(CmdKind.mul, 0), (.mul, 1), (.mulr, 1)].all (fun (k, b) =>
      let c : Cmd := { kind := k, h := 0, obj := Config.spadKey, fmta := 8, fmtb := 8, qb := b, na := if b == 0 then 0 else 1, nb := 1,
                       depth := if b == 0 then 0 else 64 }
      decide (c.depth ≤ c.na * depthOf 8 ∧ c.depth ≤ c.nb * depthOf 8) &&
        someThen (if k == .mul then runMul 0 c (commanded c) else runMulR 0 c (commanded c)) fun _ => true) = true ∧
    (let s := copyingAt {}; let x := s.xfer 0 7; let src := shortCopy.1; let dst := shortCopy.2
     let reads := spanLocs src; let into := (spanLocs dst).map (·.1)
     (∀ p ∈ src, p.remote = false ∧ isHost p.key = false) ∧ (∀ p ∈ dst, p.remote = false ∧ p.enc = none) ∧ x.tag = false ∧
       reads.length = into.length ∧ into.Nodup ∧ (∀ l ∈ reads, l.1 ∉ into ∧ ∀ o ∈ x.old, o.1 ≠ l.1) ∧
       (∀ w ∈ bankWaits x.banks s.tick ((src ++ dst).filterMap (·.bank)), s.bankFree w.2 w.1 = true) ∧
       (∀ w ∈ s.chunkAsks 0 x src dst, s.padTurn (· == .copy 0 7) w = true) ∧
       (∀ p ∈ src, p.bad s = false) ∧ (∀ p ∈ dst, p.mergesBad (wholeCodewords dst) s = false) ∧ s.chunkCut x src dst = false) := by
  decide +kernel

/-- One message on its way. -/
def sent (hdr : Word) (pay : List Word) (hops := 0) : State :=
  { base with net := [{ hdr := hdr, pay := pay, part := some 0, hops := hops }] }
def bound (s : State) (f : Dest → Bool) : Bool :=
  someThen (s.net[s.ev.i]?) fun m => s.arrived s.ev.i m && !s.swapHeld m && m.part == some 0 && f (s.dest m)
/-- A mailbox of one slot in use. -/
def boxed (b : Mailbox) : State := me fun x => { x with u := { x.u with mben := 0x80 }, mbs := [(7, { b with w0 := 1 })] }

theorem meets_MessageStepsComplete :
    (let s := { base with ev := { ok := true, j := 1, v := 0x0002000000000000, w := 7, bytes := [1, 0, 0, 0, 0, 0, 0, 0] } }
     let n := outsideMsg s.ev
     s.partOf (Hdr.hart n.hdr / 256) = some 0 ∧ Hdr.pkg n.hdr = s.pkgnum.toNat ∧ n.origin = 1 ∧ s.boot.hostLink = true) ∧
    (let s := { base with trained := [(1, 23)] }; let n := outsideMsg s.ev
     s.partOf (Hdr.hart n.hdr / 256) = some 0 ∧ Hdr.pkg n.hdr = s.pkgnum.toNat ∧ n.origin = 2 ∧ s.trained ≠ []) ∧
    bound (sent 0 []) (fun d => d == .mailbox 0 0) = true ∧ bound (sent 0x200000 [] 2) (fun d => d == .peer) = true ∧
    bound (sent 0x00F0000000000000 []) (fun d => d == .event 0) = true ∧
    (let s := sent 0xF800000000000000 [0, pad 0x17FF8, 0x100000008, 0x17FF8]
     bound s (fun d => d == .gather 0) = true ∧ s.coreHeld 0 = false ∧ activeCheck s (some 0) 0 0x17FF8 8 = none ∧
       gatherDest s (some 0) (pad 0x17FF8) 8 = none ∧ activeCheck s (some 0) 0 0x17FFC 8 = some 0x04 ∧
       [s.ask 0 (wordsAt [0x17FF8] 8) true 5, s.ask 0 (wordsAt [0x17FF8] 8) false 5].all
         (fun w => s.padTurn (· == .sluice) (w.kept none)) = true) ∧
    (let s := sent 0xF900000000000000 [0, 0x17FF8, 5]
     bound s (fun d => d == .scatter 0) = true ∧ s.coreHeld 0 = false ∧ activeCheck s (some 0) 0 0x17FF8 8 = none ∧
       s.padTurn (· == .sluice) ((s.ask 0 (wordsAt [0x17FF8] 8) false 5).kept none) = true) ∧
    bound (sent 0x7FE00000 [] 1) (fun d => d == .host) = true ∧
    ((Tab.get ({} : HostQ) (base.part 0).hqs 0).full = true ∧ ({ en := true, lgsize := 0 } : HostQ).full = false) ∧
    someThen ((boxed { spillCount := 1, pins := [(0x200000, none)] }).spillMove 0 7) (fun _ => true) = true ∧
    (let s := boxed { ringCount := 1 }; (s.hart 0).openFor = true ∧ s.withheld 0 = false ∧ s.scopeHeld 0 = false ∧ s.choose 0 = some 7 ∧ s.spilled 0 = none) ∧
    (let s := boxed { spillCount := 1, pins := [(0x200000, none)] }
     s.spilled 0 = some 7 ∧ someThen (s.spillMove 0 7) (fun _ => true) = true) := by decide +kernel

/-- A store to a control register at an offset of region 4. -/
def regStore (off : Nat) (v : Word) : StoreEnt := { base := 4 * 2 ^ 48 + off, bytes := toBytes 8 v.toNat }

/-- The shadow region of vault 0 is its last one. -/
def shadowed : State := base.modCluster 0 fun x => { x with vshadow := 0x80000000000007FC }

theorem meets_RegisterStepsComplete :
    ([(0x200007F00, 1), (0x200000000, 0), (0xB00007F10, 1 <<< 63), (0xB00000010, 0), (0xB00000000, 1), (0xB00000008, 1),
      (0x600000000, 4), (0x600000000, 8), (0xC00000040, 0), (0xA0007FFC8, 0), (0xA00000000, 1 <<< 63), (0xA00000018, 1 <<< 63),
      (0xA00000020, 0), (0x300000000, 0), (0x400000000, 0), (0xD00000000, 0)] : List (Nat × Word)).all (fun r =>
        mayAt (storing [regStore r.1 r.2]) fun e => e.toReg && e.sc == 0) = true ∧
    ((base.part 127).live = false ∧ (base.part 0).live = true ∧ (Tab.get ({} : LaunchQ) (base.part 0).lqs 0).en = false ∧
      (Tab.get ({} : HostQ) (base.part 0).hqs 0).en = false) ∧
    [0, 8, 0x10, 0x18, 0x20].all (fun off =>
      let s := { base with ev := { ok := true, v := 1 <<< 63, req := ⟨0, 0x1000 * 127 + 0x40 * 7 + off, 3⟩ }, hostPend := [{ requester := 4 }] }
      s.boot.hostLink && s.hostPend.all (fun d => d.requester != s.ev.req.requester) &&
        !(Tab.get ({} : LaunchQ) (s.part 127).lqs 7).en && !(Tab.get ({} : HostQ) (s.part 127).hqs 7).en) = true ∧
    (let s := base.modPart 0 fun x => { x with swSt := .out1 }
     (s.part 0).swSt = .out1 ∧ (s.part 0).swRows = none ∧ s.swapReady 0 = true ∧
       someThen ((s.partHarts 0).foldl (fun (t : Option State) h => t.bind fun t => t.swapTake h) (some s)) (fun _ => true) = true) ∧
    [0, 1].all (fun n => let s := base.modPart 0 fun x => { x with swSt := .out1, swRows := some [(0, n)] }
      (s.part 0).swRows == some [(0, n)] && (s.part 0).swSt == .out1) = true ∧
    (let s := base.modPart 127 fun x => { x with swSt := .in1 }; (s.part 127).swSt = .in1 ∧ (s.part 127).swRows = none) ∧
    [0, 1].all (fun n => let s := base.modPart 127 fun x => { x with swSt := .in1, swRows := some [(0, n)] }
      (s.part 127).swRows == some [(0, n)] && (s.modPart 127 fun x => { x with swRows := none }).badShadow 127 == none) = true ∧
    (let s := { shadowed.modPart 0 fun x => { x with swSt := .in1, swRows := some [] } with badCodewords := [0x3FFFFF] }
     (s.part 0).swSt = .in1 ∧ (s.modPart 0 fun x => { x with swRows := none }).badShadow 0 = some 0x3FFFFF) := by decide +kernel

/-- A host request to a vault. -/
def asked (s : State) (a : Nat) : State := { s with ev := { w := 1, req := ⟨2, a, 0⟩, bytes := [1] } }
def linked (x : Link) : State := unitAt 63 0 (base.setLink 63 x)

theorem meets_LinkAndHostStepsComplete :
    (let x := (linked { seq := 3 }).link 63
     x.up = true ∧ x.locked = true ∧ (BitVec.ofNat 12 2 - x.acked).toNat ≤ (x.seq - x.acked - 1).toNat) ∧
    ((linked { attempts := 3 }).link 63).up = true ∧ ((linked { attempts := 3 }).link 63).attempts < 4 ∧
    (let x := (linked { locked := false, attempts := 4 }).link 63; x.up = true ∧ x.locked = false ∧ 4 ≤ x.attempts) ∧
    (let s := { base with tick := 512, net := [{ hdr := 0x80000000, moved := some 0 }] }
     let users := s.net.filter fun m => Hdr.cls m.hdr == 0 && (s.msgRoute m).contains 0
     someThen (users.find? fun m => s.output m == some 0) (fun m => m.moved == some 0) = true ∧
       (∀ m ∈ users, m.waiting = false) ∧ (0, 0) ∉ s.escape ∧ (∀ m ∈ users, ¬ (m.esc = true ∧ 0 ∈ (s.msgRoute m).take m.hops)) ∧
       someThen s.net[0]? (fun m => s.nextLink m == some 0 && s.mayPassLink 0 m 0) = true) ∧
    (base.boot.full = true ∧ (1, 23) ∉ base.trained) ∧
    ((linked { locked := false }).link 63).locked = false ∧ ((linked {}).link 63).locked = true ∧
    (let a := 2 ^ 39 - 1; let s := asked base a
     let d : HostPend := { requester := s.ev.req.requester, addr := a, want := 1 }
     s.hostReach 1 = true ∧ s.hostQuiet 0 = true ∧ s.hostFree d = true ∧ s.hostShadow a 1 = false ∧
       ({ s with devPend := [{ pa := a }] }).hostFree d = false) ∧
    (let e : HostPend := { requester := 1, addr := 0x200008, want := 8 }
     ({ base with hostPend := [e] }).hostPend[0]? = some e ∧ base.hostFree e = true ∧ base.hostShadow e.addr 8 = false ∧
       shadowed.hostShadow 0xFFFFFFFF 1 = true) ∧
    (let d : HostPend := { requester := 1, addr := 0x200008, bytes := [5] }; let e : HostPend := { d with write := 1, addr := 0x200040 }
     let s := { base with hostPend := [d, e] }
     s.hostPend[1]? = some e ∧ (∀ y ∈ s.hostPend.take 1, y.before e = false) ∧ s.hostFree e = true ∧
       ({ s with devPend := [{ pa := e.addr }] }).hostFree e = false ∧ s.isShadow e.addr = false ∧ s.isShadow (e.addr + 0) = false ∧ s.eccBad e.addr 1 = false) ∧
    (let s := { base with ev := { w := 8, req := ⟨0, 2 ^ 24 - 8, 0⟩ } }
     s.boot.hostLink = true ∧ s.ev.w = 8 ∧ s.ev.req.off % 8 = 0 ∧ s.ev.req.off < 2 ^ 24) ∧
    (let a := 0xFFFFFFFF; let s := asked shadowed a; s.hostReach 1 = true ∧ s.hostShadow a 1 = true) ∧
    (let s := { base with hostOut := [{ n := 1 }], tick := 50000, ev := { ok := true, bytes := [1] } }
     someThen (s.hostOut[s.ev.i]?) (fun q => s.ev.bytes.length == q.n && q.issued + 50000 == s.tick) = true) ∧
    someThen (({ base with hostOut := [{ n := 1 }], tick := 50001 }).hostOut[0]?) (fun q => decide (q.issued + 50000 < 50001)) = true := by
  decide +kernel

theorem meets_PackageStepsComplete :
    State.reset.heldHot = false ∧
    (let b : Boot := { step := 3 }; b.failed = false ∧ b.hot = false ∧ b.full = false ∧ b.step = (if b.lc = 3 then 2 else 3)) ∧
    (let b : Boot := { step := 2, lc := 3 }; b.step = (if b.lc = 3 then 2 else 3)) ∧
    (let b := State.reset.boot; (b.lc = 1 ∧ ((2 : Nat) = 2 ∨ (2 : Nat) = 3)) ∧ ¬ ((b.lc = 0 ∧ 0 = 1) ∨ (b.lc = 1 ∧ (0 = 2 ∨ 0 = 3)) ∨
      (b.lc = 2 ∧ (0 = 1 ∨ 0 = 3)))) ∧
    (let s := { State.reset with tick := 1000 }; s.power.last + 1000 ≤ s.tick ∧ s.power.cap < 1401 ∧ 1400 ≤ s.power.cap ∧
      95 * s.power.cap < 100 * 1331 ∧ 100 * 1330 ≤ 95 * s.power.cap) ∧
    (base.power.noBoost = false ∧ 1400 ≤ base.power.cap ∧ Tab.get 0 base.temps 7 ≤ 95 ∧ base.boot.full = true ∧
      base.power.lowered.contains 127 = false) ∧
    ({ base.power with lowered := [0] }).lowered.contains 0 = true ∧
    (let s := { base with ev := { i := 7, w := 111 } }; s.ev.i < 8 ∧ 110 < s.ev.w) ∧ 7 < 8 ∧ (110 : Nat) ≤ 110 := by decide +kernel

/-- A word where the next step fetches it. -/
def placed (nbits w : Nat) : State := State.reset.withFetchWord nbits w

theorem meets_StepRunsTheDecodedInstruction :
    (let s := placed 16 0x8000
     s.turn = .core 0 false ∧ pick Machine.exec 0 false s = some 0 ∧ (s.hart 0).hold = none ∧ slotOf (fetch 0 s) = false ∧
       ready Machine.exec 0 s = true ∧
       okThen (fetchWord 0 ((s.hart 0).pc + BitVec.ofNat 64 (2 * 0)) [] s) (fun wg t =>
         (t.hart 0).h.bad == none && match decodeWords ([] ++ [wg.1]) with | .ok k => k.len == 1 | _ => false) = true) ∧
    (let k : Hold := ⟨.again, 1, false, none⟩; let v := me fun x => { x with hold := some k }
     (v.hart 0).hold = some k ∧ k.kind = .again ∧ (base.hart 0).hold = none) ∧
    (let s := placed 16 0x8000; let t := s.modHart 0 fun x => { x with h := { x.h with bad := some 0x1000 } }
     t.turn = .core 0 false ∧ pick Machine.exec 0 false t = some 0 ∧ (t.hart 0).h.bad = some 0x1000) ∧
    (let k : Hold := ⟨.again, 1, false, some ⟨0, .nop, 1, 0x8000, true⟩⟩
     let t := (placed 16 0x8000).modHart 0 fun x => { x with hold := some k, done := [.read true []] }
     t.turn = .core 0 false ∧ pick Machine.exec 0 false t = some 0 ∧ (t.hart 0).hold = some k ∧ (t.hart 0).h.bad = none ∧
       (t.hart 0).done ≠ []) ∧
    (State.reset.turn = .event .packageReset {} ∧ Instr.packageReset.isEvent = true) := by decide +kernel

theorem meets_EncodingRoundTrips :
    (Instr.vcbexp ⟨13, 7, 39, 39, 38, 64⟩).wf = true ∧ (Instr.movi ⟨75, -1⟩).wf = true := by decide +kernel

theorem meets_StepKeepsMemoryCanonical :
    ∃ t, State.Canonical { base with turn := .core 8192 false } ∧ step { base with turn := .core 8192 false } = .next t :=
  ⟨_, by unfold State.Canonical; decide +kernel, rfl⟩

theorem meets_StateAfterReset : isSpad Config.spadKey = true ∧ isBoot bootSram = true ∧ isSpad 0 = false ∧ isBoot 0 = false := by
  decide +kernel

/-! ## Single steps

The expected values are those of the examples and tables of spec/ (the rule is named), or computed by hand from the rule. -/

/-- The state that an instruction leaves, with its deferred writes in place. -/
def ran (i : Instr) (s : State) : State := match Machine.exec i s with | .next t => t.settled | _ => State.reset
/-- A scalar register, a mask, a vector register's lanes after an instruction. -/
def got (i : Instr) (s : State) (r : Nat) : Word := (ran i s).committed r
def lanesOfReg (w n : Nat) (s : State) (r : Nat) : List Nat := (List.range n).map (lane w (Tab.get 0 s.me.v r))
/-- Vector registers of hart 0 from lanes of `w` bits. -/
def vregs (w : Nat) (vs : List (Nat × List Nat)) : State :=
  me fun x => { x with v := vs.map fun kv => (kv.1, packLanes w kv.2) }
/-- Registers 2 and 3 hold x and y, and the instruction writes register 1. -/
def of2 (f : Alu → Instr) (x y : Word) : Word := got (f ⟨1, 2, .reg 3⟩) (regs [(2, x), (3, y)] base) 1

/-- −2^63. -/
def minWord : Word := 0x8000000000000000

/-- The span of R182's example: a1 is loaded with 40, b1 is 5 forwarded. -/
def inSpan : State :=
  me fun x => { x with regs := [(13, 10)], span := { count := 2, fwd := [(5, 5)], pend := [.scalar 13 40, .scalar 5 5] } }
theorem test_span_forwards : (match Machine.exec (.add ⟨6, 5, .imm 2⟩) inSpan with | .next t => t.rd 6 | _ => 0) = 7 ∧
    (match Machine.exec (.add ⟨15, 13, .imm 1⟩) inSpan with | .next t => t.rd 15 | _ => 0) = 11 := by decide +kernel
theorem test_span_ends : (let s := inSpan.settled; got (.add ⟨17, 13, .reg 7⟩) (regs [(7, 49), (13, 40)] s) 17) = 89 := by decide +kernel

theorem test_division :
    (of2 .sdiv 7 (-2), of2 .rem 7 (-2), of2 .divn 7 (-2), of2 .remn 7 (-2)) = (-3, 1, 0, 7) ∧
    (of2 .sdiv (-7) 2, of2 .rem (-7) 2, of2 .divn (-7) 2, of2 .remn (-7) 2) = (-3, -1, 0x7FFFFFFFFFFFFFFC, 1) := by decide +kernel
theorem test_division_corners :
    (of2 .sdiv 5 0, of2 .rem 5 0, of2 .divn 5 0, of2 .remn 5 0) = (-1, 5, -1, 5) ∧
    (of2 .sdiv minWord (-1), of2 .rem minWord (-1), of2 .divn minWord (-1), of2 .remn minWord (-1)) =
      (minWord, 0, 0, minWord) := by decide +kernel
theorem test_products : (of2 .mulh (-1) (-1), of2 .mulhn (-1) (-1), of2 .mul (-1) (-1)) = (0, 0xFFFFFFFFFFFFFFFE, 1) := by
  decide +kernel
/-- R197. -/
theorem test_clmul : of2 .clmul 0b10000100 (-1) = 0x7C ∧ of2 .clmul 0b100 (-1) = 0xFFFFFFFFFFFFFFFC ∧
    of2 .clmulh (1 <<< 63) 2 = 1 := by decide +kernel
theorem test_shifts : (of2 .shl 1 63, of2 .shr (-1) 64, of2 .sar minWord 63, of2 .rol minWord 1) = (minWord, -1, -1, 1) := by
  decide +kernel
theorem test_compares : (of2 .slt (-1) 0, of2 .sltn (-1) 0, of2 .min (-1) 0, of2 .minn (-1) 0, of2 .max (-1) 0, of2 .maxn (-1) 0) =
    (1, 0, -1, 0, 0, -1) := by decide +kernel
/-- R196: bit 7 copied; position 60 and length 8; the container's bits below 60 kept. -/
theorem test_fields : (of2 .sext 0x80 7, of2 .zext 0x1FF 7, of2 .bfx (0xF <<< 60) (60 + 7 * 64)) = (0xFFFFFFFFFFFFFF80, 0xFF, 0xF) ∧
    got (.bfi ⟨1, 2, .imm (60 + 7 * 64)⟩) (regs [(1, 5), (2, 0xAB)] base) 1 = 0xB000000000000005 := by decide +kernel
theorem test_counts : (got (.clz ⟨1, 2⟩) (regs [(2, 1)] base) 1, got (.ctz ⟨1, 2⟩) base 1, got (.popc ⟨1, 2⟩) (regs [(2, 0xF0)] base) 1,
    got (.bswap ⟨1, 2⟩) (regs [(2, 0x0102030405060708)] base) 1) = (63, 64, 4, 0x0807060504030201) := by decide +kernel
theorem test_select : got (.sel ⟨1, 2, .reg 3⟩) (regs [(0, 1), (2, 7), (3, 9)] base) 1 = 7 ∧
    got (.sel ⟨1, 2, .none⟩) (regs [(1, 7), (2, 9)] base) 1 = 9 := by decide +kernel

/-- R13: cluster 3 of die 1, core 60 names core 27 of cluster 14 of die 5; core 0 of cluster 0 of die 6 another one. -/
theorem test_relative : classify (4 * (1024 + 64 * 3 + 60)) 0xA100000027BE4A18 = .coord 0x2DB64A18 ∧
    classify (4 * 6144) 0xA100000027BE4A18 = .coord (2 * 2 ^ 27 + 3 * 2 ^ 25 + 3 * 2 ^ 23 + 31 * 2 ^ 17 + 0x4A18) := by decide +kernel
/-- R13, R17, R19: an 8-byte load at 0x17FFC is misaligned, a 4-byte one at 0x18000 in the hole. -/
theorem test_window : (match access (base.who 0) .load 0xA100000000017FFC 8 8 base with | .trap 0x04 _ _ => true | _ => false) = true ∧
    (match access (base.who 0) .load 0xA100000000018000 4 4 base with | .trap 0x05 _ _ => true | _ => false) = true := by
  decide +kernel
/-- R8 and its example: vault 9 of die 3, bank 17 of layer 5, row 1,234. -/
theorem test_physical : (vaultOf 0x399A562000, bankOf 0x399A562000, rowOf 0x399A562000) = (3 * 16 + 9, 5 * 32 + 17, 1234) := by
  decide +kernel
/-- R92 and its example: the walk of VA 0x0012_3456_789A_BCD8 ends at the leaf of its 64 KiB page. -/
theorem test_walk :
    (let s := { base with mem := [(0x100000090, 0x01), (0x100000091, 0x20), (0x100000094, 0x01), (0x100002340, 0x01), (0x100002341, 0x40),
       (0x100002344, 0x01), (0x100004AC8, 0x01), (0x100004AC9, 0x60), (0x100004ACC, 0x01), (0x100006E20, 0x2F), (0x100006E21, 0x01),
       (0x100006E22, 0x60), (0x100006E23, 0x40), (0x100006E24, 0x02), (0x100006E26, 0x50), (0x100006E27, 0x02)] }
     walkRoot s { base.who 0 with ptroot := 0x100000000 } 0x00123456789ABCD8) = .leaf 0x025000024060012F 0x100006E20 1 := by decide +kernel

/-- R216 and its example: a delegated misaligned load. -/
theorem test_delegated :
    (let s := (regs [(17, 0x100000)] base).modMe fun x =>
       { x with mode := .user, pc := 0x30120, t := { x.t with tdeleg := 0x10, utvec := 0x40001 } }
     let t := ran (.ld8 ⟨5, 17, .imm 4, 0, 0⟩) { s with cx := { s.cx with len := 3 } }
     (t.me.t.uepc, t.me.t.utcause, t.me.t.utaddr, t.me.t.utrap, t.me.pc, t.me.mode)) =
      (0x30120, 0x604, 0x100004, true, 0x40000, .user) := by decide +kernel
theorem test_syscall :
    (let t := ran (.trap ⟨1, 0x77⟩) (regs [(1, 9)] base); (t.me.t.tcause.toNat % 256, t.me.t.taddr, t.me.t.tcause.toNat / 2 ^ 32, t.me.t.intrap))
      = (0x13, 9, 0x77, true) := by decide +kernel

/-- R230, R231 and their example. -/
theorem test_bit_stream :
    (let s := ((base.writeBytes none (Config.spadKey + 0x200) [0xC5, 0xE8, 0xFC]).modMe fun x => { x with u := { x.u with bitp := 0x1006 } })
     let t := ran (.ldbt ⟨6, .imm 6, 0, 0⟩) s; (t.committed 6, t.me.u.bitp)) = (35, 0x100C) := by decide +kernel
theorem test_loads : (let s := { base with mem := (Config.spadKey + 8, 0x80) :: (Config.spadKey + 15, 0xFF) :: [] }
    (got (.ld1s ⟨1, 16, .imm 8, 0, 0⟩) (regs [(16, pad 0)] s) 1, got (.ld1n ⟨1, 16, .imm 8, 0, 0⟩) (regs [(16, pad 0)] s) 1,
      got (.ld8 ⟨1, 16, .imm 8, 0, 0⟩) (regs [(16, pad 0)] s) 1)) = (0xFFFFFFFFFFFFFF80, 0x80, 0xFF00000000000080) := by decide +kernel
/-- R225: a store goes to the buffer and is seen by the hart's own load. -/
theorem test_store : (let t := ran (.st2 ⟨1, 16, .none, 0, 0⟩) (regs [(1, 0x1234), (16, pad 0x40)] base)
    (t.me.sbuf.map fun e => (e.base, e.bytes), got (.ld2n ⟨2, 16, .none, 0, 0⟩) t 2)) =
    ([(Config.spadKey + 0x40, [0x34, 0x12])], 0x1234) := by decide +kernel
theorem test_atomics : (let s := regs [(1, 5), (16, pad 0x40)] { base with mem := (Config.spadKey + 0x40, 7) :: [] }
    let t := ran (.amoadd ⟨2, 16, some 1, 0, 0, 0⟩) s; (t.committed 2, (t.readBytes none (Config.spadKey + 0x40) 2))) = (7, [12, 0]) := by
  decide +kernel
theorem test_cas : (let s := regs [(1, 7), (2, 9), (16, pad 0x40)] { base with mem := (Config.spadKey + 0x40, 7) :: [] }
    let t := ran (.cas ⟨1, 16, 2, 0, 0⟩) s; (t.committed 0, t.committed 1, t.readBytes none (Config.spadKey + 0x40) 1)) = (1, 7, [9]) := by
  decide +kernel

/-- R241 and its example, steps 1 to 6. -/
def q3 (h t seq : BitVec 16) : State := ringed 0x8140110000000064 h t |>.modGroup 0 fun x =>
  { x with rings := x.rings.map fun kr => (kr.1, { kr.2 with seq := seq }) }
theorem test_rings :
    (got (.ringcfg 3 18) (regs [(18, 0x8140110000000064)] base) 0, got (.ringq 3) (q3 0 0 100) 0, got (.ringadv 3 3) (q3 0 0 100) 0) =
      (1, 0x0064000000009000, 0x00640000) := by decide +kernel
theorem test_ring_limits :
    (got (.ringadv 3 2) (q3 0 3 103) 0, got (.ringadv 3 1) (q3 0 3 103) 0, got (.ringpop 3 2) (ran (.ringadv 3 3) (q3 0 0 100)) 0,
      ((ran (.ringadv 3 1) (q3 0 3 103)).ring 0 3).seq) = (-1, 0x00670003, 0x00640000, 104) := by decide +kernel
/-- R52 and its example: bytes of slot 2 of a striped ring of group 1. -/
theorem test_ring_places : RingCfg.dataLoc 1 0x8140110000000064 2 0xD84 = spadLoc 27 0x10484 ∧
    RingCfg.sideAt 1 0x8140110000000064 2 0x82 = spadLoc 24 0x11022 := by decide +kernel

/-- R248. -/
theorem test_saturation :
    (lanesOfReg 8 2 (ran (.vabs ⟨0, true, 0, 1, 2⟩) (vregs 8 [(2, [0x80, 0xFF])])) 1,
      lanesOfReg 8 2 (ran (.vabs ⟨0, false, 0, 1, 2⟩) (vregs 8 [(2, [0x80, 1])])) 1,
      lanesOfReg 8 1 (ran (.vsub ⟨4, true, 0, 1, 2, .reg 3⟩) (vregs 8 [(2, [3]), (3, [5])])) 1) = ([127, 1], [128, 1], [0]) := by
  decide +kernel
/-- R60, R249: 2^24 + 1 in f32 is a tie to the even significand; a signalling NaN gives the canonical one and nv. -/
theorem test_float_add :
    (let t := ran (.vadd ⟨10, false, 0, 1, 2, .reg 3⟩) (vregs 32 [(2, [0x4B800000, 0x7F800001]), (3, [0x3F800000, 0])])
     (lanesOfReg 32 2 t 1, t.me.u.fflags)) = ([0x4B800000, 0x7FC00000], 0x11) := by decide +kernel
theorem test_float_divide :
    (let t := ran (.vdiv ⟨8, false, 0, 1, 2, .reg 3⟩) (vregs 16 [(2, List.replicate 32 0x3F80), (3, 0 :: List.replicate 31 0x4000)])
     (lanesOfReg 16 2 t 1, t.me.u.fflags)) = ([0x7F80, 0x3F00], 8) := by decide +kernel
theorem test_predicate :
    (let s := (vregs 64 [(1, [9, 9, 9, 9]), (2, [1, 2, 3, 4])]).modMe fun x => { x with m := [(1, 0b1010)] }
     lanesOfReg 64 4 (ran (.vadd ⟨3, false, 1, 1, 2, .imm (-1)⟩) s) 1) = [9, 1, 9, 3] := by decide +kernel
/-- R251: part 1 writes lanes 16 to 31 and leaves lanes 0 to 15. -/
theorem test_convert :
    (let t := ran (.vcvt ⟨8, false, 0, 7, 2, 10, 1⟩) ((vregs 32 [(2, List.replicate 16 0x3F800000)]))
     (lanesOfReg 16 17 t 7).drop 15) = [0, 0x3F80] := by decide +kernel
theorem test_convert_saturates :
    (lanesOfReg 16 1 (ran (.vcvt ⟨5, false, 0, 1, 2, 1, 0⟩) (vregs 16 [(2, [0xFFFF])])) 1,
      lanesOfReg 16 1 (ran (.vcvt ⟨1, false, 0, 1, 2, 5, 0⟩) (vregs 16 [(2, [0xFFFF])])) 1) = ([0], [0x7FFF]) := by decide +kernel
theorem test_lane_movement :
    (let s := (vregs 64 [(2, [10, 11, 12, 13, 14, 15, 16, 17])]).modMe fun x => { x with m := [(1, 0b10100100)] }
     (lanesOfReg 64 8 (ran (.vperm ⟨7, false, 0, 1, 2, .imm 3⟩) s) 1, lanesOfReg 64 8 (ran (.vcompr ⟨7, false, 1, 1, 2⟩) s) 1,
       got (.vcompr ⟨7, false, 1, 1, 2⟩) s 0, got (.vextr ⟨3, false, 0, 1, 2, .imm 9⟩) s 1)) =
      ([13, 14, 15, 16, 17, 10, 11, 12], [12, 15, 17, 0, 0, 0, 0, 0], 3, 11) := by decide +kernel
theorem test_compare_mask :
    (let t := ran (.vcmplt ⟨3, 0, 1, 2, .imm 0⟩) (vregs 64 [(2, [1, 2 ^ 64 - 1])]); Tab.get 0 t.me.m 1) = 0b10 := by decide +kernel
theorem test_reductions :
    (let s := vregs 64 [(2, [5, 2 ^ 64 - 7, 3])]
     (got (.vredadd ⟨3, false, 0, 1, 2⟩) s 1, got (.vredmin ⟨3, false, 0, 1, 2⟩) s 1, got (.vredmax ⟨3, false, 0, 1, 2⟩) s 1)) =
      (1, -7, 5) := by decide +kernel
/-- R260 and its example. -/
theorem test_vector_bits :
    (let s := { base with mem := (Config.spadKey + 0x200, 0xC5) :: (Config.spadKey + 0x201, 0xE8) :: (Config.spadKey + 0x202, 0xFC) :: [] }
     let t := ran (.vldbt ⟨5, 0, 4, 6⟩) (s.modMe fun x => { x with u := { x.u with bitp := 0x1000 } })
     (lanesOfReg 16 4 t 4, t.me.u.bitp)) = ([5, 35, 14, 63], 0x10C0) := by decide +kernel
theorem test_topk :
    (let t := ran (.vtopk ⟨3, false, 0, 1, 4, 3⟩) (vregs 64 [(4, [5, 2 ^ 64 - 1, 9, 5])])
     (lanesOfReg 64 4 t 1, lanesOfReg 32 4 t 2, t.committed 0)) = ([9, 5, 5, 0], [2, 0, 3, 0], 3) := by decide +kernel
/-- R264 and its example. -/
theorem test_prune :
    (let t := ran (.vprune ⟨10, false, 1, 1, 2⟩) ((vregs 32 [(2, [0x3F000000, 0xBFC00000, 0, 0x40000000])]).modMe fun x =>
       { x with m := [(1, 0xF)], u := { x.u with rnglo := 1, rnghi := 2 } })
     (lanesOfReg 32 4 t 1, Tab.get 0 t.me.m 0, t.me.u.rnghi)) = ([0x3F000000, 0, 0, 0x40000000], 0b1001, 0x800043) := by decide +kernel
/-- R64 and its example: a c4 stream selects 0.5, −2.0, 0 and the NaN. -/
theorem test_codebook :
    (let t := ran (.vcbexp ⟨12, 0, 1, 2, 3, 0⟩) (me fun x => { x with v := [(2, 0xF021),
       (3, packLanes 16 ([0, 0x3F00, 0xC000] ++ List.replicate 12 0 ++ [0x7FC1]))] })
     lanesOfReg 16 4 t 1) = [0x3F00, 0xC000, 0, 0x7FC1] := by decide +kernel

/-- R274 and its example. -/
theorem test_map_hash :
    (let h := mapHash 0xA5 [0x42]; let d : Desc := [0x4B40000000000000 + 0xA5]
     (h, shardOf d h, bucketOf d h 3, bucketOf d h 4, tagOfHash h)) = (0xC40ED5EF, 3, 0, 1, 0xEF) := by decide +kernel
/-- R299 and its example: the two placements of a 1 differ by 2. -/
theorem test_group_sums :
    (let two12 := some 0x4580; let one := some 0x3F80
     let sum (a b : List (Option Nat)) := (partialSum (fun k => a.getD k (some 0)) (fun k => b.getD k (some 0))).1
     (sum [two12, one, some 0, some 0, one, one] [two12, one, some 0, some 0, one, one],
       sum [two12, some 0, some 0, some 0, one, one, one] [two12, some 0, some 0, some 0, one, one, one])) =
      (0x4B800001, 0x4B800002) := by decide +kernel

/-- R72 to R74 and their example: bank 17 of layer 5, sensed at tick 1,000. -/
def rowAt (t : Nat) (x : RowSlot) : State :=
  { (leasing 1 base).setSlot 0 2 { x with row := 0x162000, holds := true } with tick := t }
theorem test_row_early :
    (let t := ran (.rowtake 2) (rowAt 1008 { st := .activating, a := 1000 }); (t.me.t.tcause.toNat % 256, (t.slot 0 2).st)) =
      (0x09, .activating) ∧ ((rowAt 1014 { st := .activating, a := 1000 }).slot 0 2).at 1014 = .ready := by decide +kernel
theorem test_row_closes :
    (let t := ran (.rowclose 2) (rowAt 1022 { st := .taken, a := 1000 })
     ((t.slot 0 2).st, (t.bank 0 177).closing, (t.bank 0 177).release, t.bankReady 0 177)) = (.free, true, 1028, 1042) := by decide +kernel

/-- R346, R348 and their example: rank 37 has a2 = 0x0001_0201. -/
theorem test_indices : recIdx ([0, 0, 0x3000000000000000, 0, 0, 0, 0, 0, 0x4000000000002, 0x28000000000010, 0x90000000000002]) 37 =
    [1, 2, 1] := by decide +kernel
/-- R329 and its example: the delivered header. -/
theorem test_delivered : ({ hdr := 0x2132625880A00000, pay := [1], sender := BitVec.ofNat 15 (4 * (64 * 2 + 4) + 1) } : Msg).delivered =
    0x2132625880A01088 ∧ ({ w0 := 0x2120100000002001 } : Mailbox).tag = 0x21 ∧ ({ w0 := 0x2120100000002001 } : Mailbox).cap = 2 ∧
    ({ w0 := 0x2120100000002001 } : Mailbox).ring = 0x2000 := by decide +kernel
theorem test_flood : ({ hdr := 0x2130625880A00000, sender := BitVec.ofNat 15 (4 * (64 * 2 + 4) + 1), err := some 4 } : Msg).delivered =
    0x2130625880B0108C := by decide +kernel
theorem test_halt : ((match Machine.exec .halt base with | .next t => (t.hart 0).st | _ => .active) = .free) := by decide +kernel
theorem test_spawn :
    (let t := ran (.spawn ⟨1, 16, 17⟩) (regs [(1, 5), (16, 0x4000), (17, pad 0)] base)
     (t.committed 1, (t.hart 1).st, (t.hart 1).pc, (t.hart 1).reg 13, (t.hart 1).reg 14)) = (1, .active, 0x4000, 5, -1) := by
  decide +kernel

end Sys2Proof.Machine.Tests
end

section
/-! Steps of the units: the octet pool, streams, map homes, arrays, copy slots, and the ends of bounded waits (spec/02 R35,
spec/05 R110, spec/06 R139, spec/12 R269, spec/14 R277, spec/15 R302, spec/17 R318 to R324, spec/19 R359). Each lemma says what
the step does at a unit that is ready. -/

namespace Sys2Proof.Machine

variable {s : State}

/-! ## The octet pool and streams -/

/-- R35: the oldest claim of the pool is granted whole. -/
theorem execOctetGrant_of_claim {q : Claim} {rest : List Claim} {os : List Nat} (hi : s.ev.i < Config.nCores)
    (hq : (s.core s.ev.i).claims = q :: rest) (hn : q.n ≤ (s.freeOctets s.ev.i).length) (hr : q.resumed = false)
    (hos : (s.freeOctets s.ev.i).take q.n = os) :
    execOctetGrant s = .next (((os.foldl (fun v o => v.setOctet s.ev.i o { st := .held q.h })
      (s.modCore s.ev.i fun k => { k with claims := rest })).modHart q.h fun x =>
        { x with slotA := os[0]?, slotB := os[1]?, freshA := true, freshB := true }).release q.h []) := by
  have granted : ¬ os.length < q.n := by simp [← hos, hn]
  simp only [execOctetGrant, Nat.not_le.mpr hi, hq, hos, granted, hr, if_false, Bool.false_eq_true]

/-- What a fetch leaves, whether it has the element or has asked the host for it (R269, R394). -/
theorem State.fetchAhead_of_ok_or_host {h n : Nat} {v : VWord} {t : State}
    (hf : fetchElement h n s = .ok v t ∨ ∃ st, fetchElement h n s = .host st t) : s.fetchAhead h n = t := by
  obtain hf | ⟨st, hf⟩ := hf <;> simp only [State.fetchAhead, hf]

/-- R269: a bound read stream with room fetches, where no release holds its hart. -/
theorem execStreamFetch_of_ready (hi : s.ev.i < Config.nHarts) (hj : s.ev.j < 8) (hb : (s.stream s.ev.i s.ev.j).bound = true)
    (hw : (s.stream s.ev.i s.ev.j).wr = false) (hl : (s.stream s.ev.i s.ev.j).buf.length < 4)
    (hfree : (s.hart s.ev.i).st ≠ .free) (hsaved : (s.hart s.ev.i).st ≠ .saved) (hsc : s.scopeHeld s.ev.i = false)
    (hwh : s.withheld s.ev.i = false) : execStreamFetch s = .next (s.fetchAhead s.ev.i s.ev.j) := by
  simp [execStreamFetch, Nat.not_le.mpr hi, Nat.not_le.mpr hj, Nat.not_le.mpr hl, hb, hw, hfree, hsaved, hsc, hwh]

/-- The stores of an element take of their hart its program counter and its mode, not its streams. -/
theorem StreamEl.stores_streams (e : StreamEl) (n : Nat) (x : Hart) (ts : Tab Stream) :
    e.stores n { x with streams := ts } = e.stores n x := rfl

/-- R139, R269: the oldest element in the buffer of a write stream leaves as stores, at its place in program order. -/
theorem State.writeElement_of_buf {h n : Nat} {e : StreamEl} {rest : List StreamEl} (hb : (s.stream h n).bound = true)
    (hw : (s.stream h n).wr = true) (hbuf : (s.stream h n).buf = e :: rest)
    (hidle : (s.hart h).sbuf.any (·.stream == some n) = false) :
    s.writeElement h n = some ((s.modStream h n fun t => { t with buf := rest }).modHart h fun x => { x with
      sbuf := x.sbuf.filter (·.born < e.born) ++ e.stores n (s.hart h)
        ++ x.sbuf.filter fun d => !decide (d.born < e.born) }) := by
  simp only [State.writeElement, State.oldestPush, hb, hw, hbuf, hidle, Option.map_some, State.modStream, State.modHart_modHart,
    StreamEl.stores_streams, Bool.not_true, Bool.or_self, Bool.false_eq_true, if_false]
  rfl

theorem execStreamWrite_of_writeElement {t : State} (hi : s.ev.i < Config.nHarts) (hj : s.ev.j < 8)
    (hw : s.writeElement s.ev.i s.ev.j = some t) : execStreamWrite s = .next t := by
  simp [execStreamWrite, Nat.not_le.mpr hi, Nat.not_le.mpr hj, hw]

/-! ## Map homes -/

/-- An operation at the home of cluster `g` ends: it leaves the queue, its pins are given up and its hart has its results. -/
def State.endMapOp (t : State) (g : Nat) (op : MapOp) (ps : List Pend) : State :=
  ((t.modCluster g fun k => { k with mapq := k.mapq.filter (·.wait != op.wait) }).unpin g
    fun p => p.holder == .mapOp op.wait).resolve op.h op.wait ps

/-- R277: an operation that can be executed is executed as one step, and answered. -/
theorem State.mapRun_of_ok {g : Nat} {op : MapOp} {ps : List Pend} {t : State} (hsc : s.scopeHeld op.h = false)
    (hr : runMap op g s = .ok ps t) : s.mapRun g op = some (t.endMapOp g op ps) := by
  simp only [State.mapRun, hsc, hr, Bool.false_eq_true, if_false]
  rfl

/-- R379: one that reads an uncorrectable word ends with −4 and a machine-check record. -/
theorem State.mapRun_of_ecc {g : Nat} {op : MapOp} {va : Word} {key : Nat} (hsc : s.scopeHeld op.h = false)
    (hr : runMap op g s = .ecc va key) :
    s.mapRun g op = some (((s.countBad key).machineCheck 6 0 op.h op.desc va).endMapOp g op [.scalar 0 (-4)]) := by
  simp only [State.mapRun, hsc, hr, Bool.false_eq_true, if_false]
  rfl

/-- R285: the home executes the oldest operation that need not wait. -/
theorem execMapHomeExecution_of_oldest {op : MapOp} {pre rest : List MapOp} {t : State} (hi : s.ev.i < Config.nClusters)
    (hq : (s.cluster s.ev.i).mapq = pre ++ op :: rest) (hpre : ∀ d ∈ pre, s.mapRun s.ev.i d = none)
    (hrun : s.mapRun s.ev.i op = some t) : execMapHomeExecution s = .next t := by
  have oldest : (pre ++ op :: rest).findSome? (s.mapRun s.ev.i) = some t := by
    rw [List.findSome?_append, List.findSome?_eq_none_iff.mpr hpre, List.findSome?_cons, hrun, Option.none_or]
  simp only [execMapHomeExecution, Nat.not_le.mpr hi, hq, oldest, if_false, Option.getD_some]

/-! ## Arrays -/

/-- What a command of an array leaves, as the head of its queue; a product whose operands are not there leaves all as it was. -/
def State.runCommand (s : State) (g : Nat) (c : Cmd) : State :=
  match c.kind with
  | .release => s.settleQueue g
  | .zero => runZero g c s
  | .load => runLoad g c s
  | .store => runStore g c s
  | .mul => (runMul g c s).getD s
  | .mulr => (runMulR g c s).getD s

/-- R302: the command at the head of the queue executes once nothing before it and no bank holds it up. -/
theorem execArrayCommand_of_head {c : Cmd} {rest : List Cmd} (hi : s.ev.i < Config.nGroups)
    (hq : (s.group s.ev.i).cmds = c :: rest) (hsc : s.scopeHeld c.h = false) (howes : (s.hart c.h).owes = false)
    (href : s.arrayRefused s.ev.i c = false)
    (hbanks : ((bankWaits (s.group s.ev.i).waits s.tick c.vaults).any fun w => !s.bankFree w.2 w.1) = false) :
    execArrayCommand s = .next (s.runCommand s.ev.i c) := by
  have free : ((bankWaits (s.group s.ev.i).waits s.tick c.vaults).all fun w => s.bankFree w.2 w.1) = true := by
    rw [List.all_eq_not_any_not, hbanks, Bool.not_false]
  simp only [execArrayCommand, Nat.not_le.mpr hi, hq, hsc, howes, href, free, Bool.or_self, Bool.not_true, Bool.false_eq_true,
    if_false]
  cases hk : c.kind <;> simp only [State.runCommand, hk]

/-! ## Copy slots -/

/-- A slot whose next chunk may be worked on (R318). -/
structure Xfer.Ready (s : State) (x : Xfer) : Prop where
  live : x.live = true
  running : x.suspended = false
  unheld : s.scopeHeld x.issuer = false
  ordered : (s.hart x.issuer).owes = false

section
variable {x : Xfer} {a b : List CopySpan} (hi : s.ev.i < Config.nCores) (hj : s.ev.j < 8) (hx : s.xfer s.ev.i s.ev.j = x)
  (hready : x.Ready s)
include hi hj hx hready

/-- R318: a translated chunk is performed. -/
theorem execCopyChunk_of_chunk (hc : x.chunk = some (a, b)) :
    execCopyChunk s = .next (performChunk s.ev.i s.ev.j x a b s) := by
  obtain ⟨hlive, hrun, hsc, howes⟩ := hready
  simp [execCopyChunk, State.chunkHeld, Nat.not_le.mpr hi, Nat.not_le.mpr hj, hx, hlive, hrun, hsc, howes, hc]

/-- R318, R108: a chunk whose pages have room in the pin table is translated, and they are pinned. -/
theorem execCopyChunk_of_spans {t : State} (hc : x.chunk = none) (hs : chunkSpans x s = .ok (a, b) t)
    (hroom : s.pinRoom (s.ev.i / 64) x.part x.pspace (spanPages (a ++ b)) = true) :
    execCopyChunk s = .next (((spanPages (a ++ b)).foldl (fun v p =>
      v.pin (s.ev.i / 64) ⟨x.part, x.pspace, p, .xfer s.ev.i s.ev.j⟩) t).setXfer s.ev.i s.ev.j
        { x with chunk := some (a, b) }) := by
  obtain ⟨hlive, hrun, hsc, howes⟩ := hready
  have gate : s.pinGate (s.ev.i / 64) x.who (.ok (a, b) t) (fun ab => spanPages (ab.1 ++ ab.2)) = true := hroom
  simp [execCopyChunk, State.chunkHeld, Nat.not_le.mpr hi, Nat.not_le.mpr hj, hx, hlive, hrun, hsc, howes, hc, hs, gate]

end

/-! ## Ends of bounded waits -/

/-- R320, R321, R324: a hart that CPWAIT holds traps once the promise of its transfer has passed. -/
theorem execPromiseExpiry_of_due {x : Xfer} {n : Nat} {m : Bool} {c : Option Cx} (hi : s.ev.i < Config.nCores) (hj : s.ev.j < 8)
    (hx : s.xfer s.ev.i s.ev.j = x) (hh : (s.hart x.issuer).hold = some ⟨.copy (x.id s.ev.j) none, n, m, c⟩)
    (hact : (s.hart x.issuer).st = .active) (hdue : s.promiseDue x = true) (hw : (s.hart x.issuer).waiting = false) :
    execPromiseExpiry s = .next (((s.setXfer s.ev.i s.ev.j { x with missed := true }).commit x.issuer).trapEnter x.issuer n
      Cause.promiseMissed 0 (w64 (x.id s.ev.j))) := by
  subst hx
  simp [execPromiseExpiry, Nat.not_le.mpr hi, Nat.not_le.mpr hj, hh, hact, hdue, hw]

/-- R110: a MIGR.force whose bound has passed with pins left takes its mark back and returns −3. -/
theorem execMwaitExpiry_of_due {entry lo n d t len : Nat} {m : Bool} {c : Option Cx} (hi : s.ev.i < Config.nHarts)
    (hh : (s.hart s.ev.i).hold = some ⟨.migrate entry lo n d (some t), len, m, c⟩) (ht : t ≤ s.tick)
    (hp : s.pinned lo n = true) (hb : s.bankFree entry s.tick = true) :
    execMwaitExpiry s = .next ((s.setMark s.ev.i entry false).release s.ev.i [.scalar d (wInt (-3))]) := by
  simp [execMwaitExpiry, Nat.not_le.mpr hi, hh, ht, hp, hb]

/-! ## Collections (R359) -/

/-- The counts of launch `k` at the cores of the block of `ext` harts that hart `h` lies in. -/
def State.quietCounts (s : State) (h k ext : Nat) : List (Int × Nat) :=
  (s.cores.filter fun kc => kc.1 * 4 / ext == h / ext).map fun kc => Tab.get (0, 0) kc.2.qcount k

/-- Hart `h` waits in a QWAIT that is registered as `q`. -/
structure QWaiter.Waits (s : State) (h : Nat) (q : QWaiter) : Prop where
  held : ∃ l n m c, (s.hart h).hold = some ⟨.qwait l, n, m, c⟩
  registered : (s.part (s.hart h).barriers).qwaits.find? (·.h == h) = some q

section
variable {q : QWaiter} {k ext : Nat} (hi : s.ev.i < Config.nHarts) (hq : q.Waits s s.ev.i) (hk : (s.hart s.ev.i).launch = k)
  (hext : (s.launch k).extent q.level = ext) (hsum : ((s.quietCounts s.ev.i k ext).map (·.1)).sum = 0)
include hi hq hk hext hsum

/-- The first collection keeps the counts that it finds, if they sum to zero. -/
theorem execQuiescenceCollection_first (hfirst : q.first = none) :
    execQuiescenceCollection s = .next (s.modPart (s.hart s.ev.i).barriers fun x => { x with qwaits := x.qwaits.map fun d =>
      if d.h = s.ev.i then { d with first := some (s.quietCounts s.ev.i k ext) } else d }) := by
  obtain ⟨⟨l, n, m, c, hh⟩, hreg⟩ := hq
  simp only [State.quietCounts] at hsum ⊢
  simp only [execQuiescenceCollection, Nat.not_le.mpr hi, hh, hreg, hk, hext, hfirst, hsum, beq_self_eq_true, beq_iff_eq,
    if_true, if_false]

/-- The second, at counts unchanged and with every hart of the block quiet, ends the wait. -/
theorem execQuiescenceCollection_second (hfirst : q.first = some (s.quietCounts s.ev.i k ext))
    (hquiet : ∀ kx ∈ s.harts, kx.2.launch = k → kx.1 / ext = s.ev.i / ext → s.quiet kx.1 = true)
    (hinner : (s.launch k).fabric q.level = false) :
    execQuiescenceCollection s = .next ((s.modPart (s.hart s.ev.i).barriers fun x =>
      { x with qwaits := x.qwaits.filter (·.h != s.ev.i) }).release s.ev.i [.scalar 0 1]) := by
  obtain ⟨⟨l, n, m, c, hh⟩, hreg⟩ := hq
  simp only [State.quietCounts] at hsum hfirst
  have allQuiet : ((s.harts.filter fun kx => kx.2.launch == k && kx.1 / ext == s.ev.i / ext).all
      fun kx => s.quiet kx.1) = true := by
    simp only [List.all_eq_true, List.mem_filter, Bool.and_eq_true, beq_iff_eq]
    exact fun kx ⟨hmem, hlaunch, hinst⟩ => hquiet kx hmem hlaunch hinst
  simp only [execQuiescenceCollection, Nat.not_le.mpr hi, hh, hreg, hk, hext, hfirst, hsum, allQuiet, hinner, beq_self_eq_true,
    Bool.not_false, Bool.true_or, Bool.and_self, if_true, if_false]

end

/-- Settles O51: each unit, at a state in which it is ready, takes the step that its lemma above gives. -/
theorem unitStepsComplete : Obligations.UnitStepsComplete := by
  unfold Obligations.UnitStepsComplete
  intro s
  refine ⟨?octets, ?fetch, ?write, ?map, ?array, ?copy, ?promise, ?bound, ?collect⟩
  case octets => exact fun q rest hi hq hn hr => execOctetGrant_of_claim hi hq hn hr rfl
  case fetch =>
    intro v t hi hj hb hw hl hfree hsaved hsc hwh hf
    rw [exec_streamFetch, execStreamFetch_of_ready hi hj hb hw hl hfree hsaved hsc hwh, State.fetchAhead_of_ok_or_host hf]
  case write =>
    exact fun e rest hi hj hb hw hbuf hidle =>
      execStreamWrite_of_writeElement hi hj (State.writeElement_of_buf hb hw hbuf hidle)
  case map =>
    intro op pre rest hi hq hpre hsc
    exact ⟨fun ps t hr => execMapHomeExecution_of_oldest hi hq hpre (State.mapRun_of_ok hsc hr),
      fun va key hr => execMapHomeExecution_of_oldest hi hq hpre (State.mapRun_of_ecc hsc hr)⟩
  case array =>
    intro c rest hi hq hsc howes href ws hbanks
    have step : exec .arrayCommand s = .next (s.runCommand s.ev.i c) := execArrayCommand_of_head hi hq hsc howes href hbanks
    rw [step]
    refine ⟨fun hk => ?_, fun hk => ?_, fun hk => ?_, fun hk => ?_, fun t hk hr => ?_, fun t hk hr => ?_⟩
    all_goals simp only [State.runCommand, hk]
    · rw [hr, Option.getD_some]
    · rw [hr, Option.getD_some]
  case copy =>
    intro hi hj x hlive hrun hsc howes
    have ready : x.Ready s := ⟨hlive, hrun, hsc, howes⟩
    exact ⟨fun a b hc => execCopyChunk_of_chunk hi hj rfl ready hc,
      fun a b t hc hs hroom => execCopyChunk_of_spans hi hj rfl ready hc hs hroom⟩
  case promise =>
    exact fun hi hj n m c hh hact hdue hw => execPromiseExpiry_of_due hi hj rfl hh hact hdue hw
  case bound =>
    exact fun entry lo n d t len m c hi hh ht hp hb => execMwaitExpiry_of_due hi hh ht hp hb
  case collect =>
    intro p q l n m c hi hp hh hreg k ext counts quiet hsum
    subst hp
    have waits : q.Waits s s.ev.i := ⟨⟨l, n, m, c, hh⟩, hreg⟩
    exact ⟨fun hfirst hquiet hinner => execQuiescenceCollection_second hi waits rfl rfl hsum hfirst hquiet hinner,
      fun hfirst => execQuiescenceCollection_first hi waits rfl rfl hsum hfirst⟩

end Sys2Proof.Machine
end

section
/-! Bytes under keys (spec/04 R83, spec/10 R228): what a read gives after a write under the same key, what a write leaves alone,
and a store performed at a scratchpad (spec/06 R115). -/

namespace Sys2Proof.Machine

/-! ## The key of a unit -/

theorem getD_of_lt {α : Type} {l : List α} {i : Nat} {d : α} (h : i < l.length) : l.getD i d = l[i] := by
  rw [List.getD_eq_getElem?_getD, List.getElem?_eq_getElem h, Option.getD_some]

theorem Tab.find?_filter_ne {α : Type} (t : Tab α) (i j : Nat) :
    Tab.find? (t.filter fun k => k.1 != i) j = if j = i then none else Tab.find? t j := by
  induction t with
  | nil => simp [Tab.find?]
  | cons x t ih =>
    obtain ⟨k, v⟩ := x
    by_cases hk : k = i
    · simp only [List.filter_cons, hk, bne_self_eq_false, Bool.false_eq_true, if_false, ih]
      grind [Tab.find?]
    · simp only [List.filter_cons, bne_iff_ne, ne_eq, hk, not_false_eq_true, if_true, Tab.find?, ih]
      grind

@[simp] theorem State.rekey_clusters (s : State) (q : Option (BitVec 512)) (a : Nat) : (s.rekey q a).clusters = s.clusters := by
  unfold State.rekey; split <;> rfl

theorem State.shadowDraw_of_clusters {s t : State} (h : t.clusters = s.clusters) (a : Nat) :
    t.shadowDraw a = s.shadowDraw a := by
  have part (g : Nat) : t.cluster g = s.cluster g := by rw [State.cluster, State.cluster, h]
  rw [State.shadowDraw, State.shadowDraw, State.isShadow, State.isShadow, part]

@[simp] theorem State.rekey_shadowDraw (s : State) (q : Option (BitVec 512)) (a b : Nat) :
    (s.rekey q a).shadowDraw b = s.shadowDraw b :=
  State.shadowDraw_of_clusters (s.rekey_clusters q a) b

theorem State.rekey_unitKey (s : State) (q : Option (BitVec 512)) (a b : Nat) :
    (s.rekey q a).unitKey b = if b / 64 = a / 64 then q else s.unitKey b := by
  unfold State.rekey
  by_cases hq : s.unitKey a = q
  · simp only [hq, beq_self_eq_true, if_true]
    split
    · next e => rw [← hq, State.unitKey, State.unitKey, e]
    · rfl
  · rw [if_neg (by simpa using hq)]
    cases q with
    | none => exact Tab.find?_filter_ne _ _ _
    | some k =>
      by_cases e : b / 64 = a / 64
      · rw [if_pos e, State.unitKey, e]; exact Tab.find?_put_self _ _ _
      · rw [if_neg e]; exact Tab.find?_put_ne _ _ e

/-- A unit that changes its key holds what a read under the new one gives (R83). -/
theorem State.rekey_mem (s : State) (q : Option (BitVec 512)) (a b : Nat) :
    Mem.get (s.rekey q a).mem b = if s.unitKey a ≠ q ∧ b / 64 = a / 64 then s.readKey q b else Mem.get s.mem b := by
  unfold State.rekey
  by_cases hq : s.unitKey a = q
  · simp [hq]
  · simp only [beq_iff_eq, hq, if_false, Mem.get_puts, List.length_map, List.length_range, ne_eq, not_false_eq_true, true_and]
    by_cases hb : b / 64 = a / 64
    · rw [if_pos (by omega), if_pos hb]
      have hi : b - a / 64 * 64 < 64 := by omega
      rw [getD_of_lt (by rwa [List.length_map, List.length_range]), List.getElem_map, List.getElem_range,
        show a / 64 * 64 + (b - a / 64 * 64) = b by omega]
    · rw [if_neg (by omega), if_neg hb]

/-! ## Reads under a key -/

/-- A read sees the key of its unit, the unit's bytes, and whether a swap has written its byte. -/
theorem State.readKey_congr {s t : State} (q : Option (BitVec 512)) (a : Nat) (hd : t.shadowDraw a = s.shadowDraw a)
    (hu : t.unitKey a = s.unitKey a) (hm : ∀ b, b / 64 = a / 64 → Mem.get t.mem b = Mem.get s.mem b) :
    t.readKey q a = s.readKey q a := by
  have unit : ((List.range 64).map fun i => (Mem.get t.mem (a / 64 * 64 + i)).toNat) =
      (List.range 64).map fun i => (Mem.get s.mem (a / 64 * 64 + i)).toNat := by
    refine List.map_congr_left fun i hi => ?_
    rw [hm _ (by have := List.mem_range.1 hi; omega)]
  simp only [State.readKey, hd, hu, hm a rfl, unit]

/-- A read under the key that wrote its unit gives the byte as written, where no swap has written it. -/
theorem State.readKey_plain {s : State} {q : Option (BitVec 512)} {a : Nat} (hd : s.shadowDraw a = none)
    (hu : s.unitKey a = q) : s.readKey q a = Mem.get s.mem a := by
  simp only [State.readKey, hd, hu, beq_self_eq_true, if_true]

theorem State.readKey_shadow {s : State} {q : Option (BitVec 512)} {a n : Nat} (hd : s.shadowDraw a = some n) :
    s.readKey q a = Config.shadowByte n q a := by
  simp only [State.readKey, hd]

/-- A unit's change of key does not change what a read under the new key gives, anywhere. -/
theorem State.readKey_rekey (s : State) (q : Option (BitVec 512)) (a b : Nat) : (s.rekey q a).readKey q b = s.readKey q b := by
  by_cases hb : b / 64 = a / 64
  · have hu : (s.rekey q a).unitKey b = q := by rw [State.rekey_unitKey, if_pos hb]
    cases hd : s.shadowDraw b with
    | some n => rw [State.readKey_shadow hd, State.readKey_shadow (by rw [State.rekey_shadowDraw, hd])]
    | none =>
      rw [State.readKey_plain (by rw [State.rekey_shadowDraw, hd]) hu, State.rekey_mem]
      split
      · rfl
      · next hq =>
        have old : s.unitKey b = q := by
          rw [State.unitKey, hb]; exact Decidable.not_not.1 fun h => hq ⟨h, hb⟩
        exact (State.readKey_plain hd old).symm
  · refine State.readKey_congr q b (s.rekey_shadowDraw q a b) (by rw [State.rekey_unitKey, if_neg hb]) fun c hc => ?_
    rw [State.rekey_mem, if_neg fun h => hb (hc.symm.trans h.2)]

/-- Of the bytes that a swap has written, a write takes its own out (R88). -/
theorem State.shadowWrite_shadowDraw (s : State) (a b : Nat) :
    (s.shadowWrite a).shadowDraw b = if b = a then none else s.shadowDraw b := by
  unfold State.shadowWrite
  split
  · by_cases hv : vaultOf b = vaultOf a
    · by_cases hb : b = a
      · subst hb; simp [State.shadowDraw]
      · simp [State.shadowDraw, State.isShadow, hv, hb]
    · have hb : b ≠ a := fun h => hv (by rw [h])
      simp [State.shadowDraw, State.isShadow, State.cluster_modCluster_ne _ _ hv, hb]
  · next hd =>
    split
    · next e => rw [e]; simpa using hd
    · rfl

@[simp] theorem State.shadowWrite_encUnits (s : State) (a : Nat) : (s.shadowWrite a).encUnits = s.encUnits := by
  unfold State.shadowWrite; split <;> rfl

/-- A byte that is written reads back under the same key, and every other byte reads under it as before (R83, R228). -/
theorem State.readKey_writeByte (s : State) (enc : Option (BitVec 12)) (a b : Nat) (v : Byte) :
    (s.writeByte enc a v).readKey (s.slotKey enc) b = if b = a then v else s.readKey (s.slotKey enc) b := by
  rw [← s.readKey_rekey (s.slotKey enc) a b]
  have ha : (s.rekey (s.slotKey enc) a).unitKey a = s.slotKey enc := by rw [State.rekey_unitKey, if_pos rfl]
  simp only [State.writeByte]
  generalize s.slotKey enc = q at ha ⊢
  generalize s.rekey q a = r at ha ⊢
  have hm : ∀ c, Mem.get (Mem.put (r.shadowWrite a).mem a v) c = if c = a then v else Mem.get r.mem c := fun c => by
    rw [Mem.get_put, State.shadowWrite_mem]
  have hu : ∀ c, State.unitKey { r.shadowWrite a with mem := Mem.put (r.shadowWrite a).mem a v } c = r.unitKey c := by
    simp only [State.unitKey, State.shadowWrite_encUnits, implies_true]
  have hd : ∀ c, State.shadowDraw { r.shadowWrite a with mem := Mem.put (r.shadowWrite a).mem a v } c =
      if c = a then none else r.shadowDraw c := r.shadowWrite_shadowDraw a
  by_cases hb : b = a
  · subst hb
    rw [State.readKey_plain (by rw [hd, if_pos rfl]) (by rw [hu, ha]), hm, if_pos rfl, if_pos rfl]
  · rw [if_neg hb]
    by_cases hc : b / 64 = a / 64
    · have hk : r.unitKey b = q := by rw [← ha, State.unitKey, State.unitKey, hc]
      cases hs : r.shadowDraw b with
      | some n => rw [State.readKey_shadow hs, State.readKey_shadow (by rw [hd, if_neg hb, hs])]
      | none =>
        rw [State.readKey_plain hs hk, State.readKey_plain (by rw [hd, if_neg hb, hs]) (by rw [hu, hk]), hm, if_neg hb]
    · refine State.readKey_congr q b (by rw [hd, if_neg hb]) (hu b) fun c hbc => ?_
      rw [hm, if_neg fun h => hc (by rw [← hbc, h])]

theorem State.shadowWrite_frame (s : State) (a : Nat) : { s.shadowWrite a with clusters := s.clusters } = s := by
  unfold State.shadowWrite; split <;> rfl

theorem State.writeByte_frame (s : State) (enc : Option (BitVec 12)) (a : Nat) (v : Byte) :
    { s.writeByte enc a v with mem := s.mem, encUnits := s.encUnits, clusters := s.clusters } = s := by
  have shadow := (s.rekey (s.slotKey enc) a).shadowWrite_frame a
  rw [State.rekey_clusters] at shadow
  exact (congrArg (fun t : State => { t with mem := s.mem, encUnits := s.encUnits }) shadow).trans
    (s.rekey_mem_only (s.slotKey enc) a)

/-- What a write leaves alone: all but the bytes, their units' keys, and the record of what a swap has written. -/
theorem State.writeBytes_frame (bs : List Byte) : ∀ (s : State) (enc : Option (BitVec 12)) (a : Nat),
    { s.writeBytes enc a bs with mem := s.mem, encUnits := s.encUnits, clusters := s.clusters } = s := by
  induction bs with
  | nil => exact fun _ _ _ => rfl
  | cons b bs ih =>
    intro s enc a
    have byte := s.writeByte_frame enc a b
    have rest := congrArg (fun t : State => { t with mem := s.mem, encUnits := s.encUnits, clusters := s.clusters })
      (ih (s.writeByte enc a b) enc (a + 1))
    exact rest.trans byte

@[simp] theorem State.writeByte_slotKey (s : State) (enc k : Option (BitVec 12)) (a : Nat) (v : Byte) :
    (s.writeByte enc a v).slotKey k = s.slotKey k := by
  cases k with
  | none => rfl
  | some k => simp only [State.slotKey, (Kept.writeByte s enc a v).keys]

/-- Bytes that are written read back under the same key, and every byte outside reads under it as before (R83, R228). -/
theorem State.readKey_writeBytes (bs : List Byte) : ∀ (s : State) (enc : Option (BitVec 12)) (a b : Nat),
    (s.writeBytes enc a bs).readKey (s.slotKey enc) b =
      if a ≤ b ∧ b < a + bs.length then bs.getD (b - a) 0 else s.readKey (s.slotKey enc) b := by
  induction bs with
  | nil => intro s enc a b; simp [State.writeBytes, show ¬ (a ≤ b ∧ b < a) by omega]
  | cons v bs ih =>
    intro s enc a b
    have rest := ih (s.writeByte enc a v) enc (a + 1) b
    rw [State.writeByte_slotKey, State.readKey_writeByte] at rest
    rw [State.writeBytes, rest]
    by_cases hb : b = a
    · subst hb
      rw [if_neg (by omega), if_pos rfl, if_pos (by rw [List.length_cons]; omega), Nat.sub_self, List.getD_cons_zero]
    · by_cases hin : a + 1 ≤ b ∧ b < a + 1 + bs.length
      · have hpos : b - a = (b - (a + 1)) + 1 := by omega
        rw [if_pos hin, if_pos (by rw [List.length_cons]; omega), hpos, List.getD_cons_succ]
      · rw [if_neg hin, if_neg hb, if_neg (by rw [List.length_cons]; omega)]

/-! ## A store performed at a scratchpad -/

theorem isReg_of_isSpad {a : Nat} (h : isSpad a = true) : isReg a = false := by
  simp only [isSpad, Config.spadKey, Config.sideKey, Bool.and_eq_true, decide_eq_true_eq] at h
  simp only [isReg, beq_eq_false_iff_ne]; omega

theorem isVault_of_isSpad {a : Nat} (h : isSpad a = true) : isVault a = false := by
  simp only [isSpad, Config.spadKey, Config.sideKey, Bool.and_eq_true, decide_eq_true_eq] at h
  simp only [isVault, decide_eq_false_iff_not]; omega

/-- The banks of a scratchpad serve a store of whole bytes: its words are renewed, its core is woken, its words are mended. -/
def State.padServed (s : State) (a n : Nat) : State := ((s.renew a n).wake a n).mend a n

/-- Serving a store changes the core and the count of corrected words. -/
theorem State.padServed_eq {a : Nat} (s : State) (n : Nat) (h : isSpad a = true) :
    ∃ cs k, s.padServed a n = { s with cores := cs, mccorr := k } := by
  simp only [State.padServed, State.mend, State.wake, State.renew, h, if_true]
  exact ⟨_, _, rfl⟩

@[simp] theorem State.core_correct (s : State) (c k : Nat) (ws : List Nat) : (s.correct c ws).core k = s.core k := rfl

/-- Correctable words stay correctable. -/
theorem State.padServed_eccBad {a n : Nat} (s : State) (h : isSpad a = true) (e : s.eccBad a n = false) :
    (s.padServed a n).eccBad a n = false := by
  simp only [State.eccBad, h, if_true, List.any_eq_false] at e ⊢
  simp only [State.padServed, State.mend, State.wake, State.renew, h, if_true, State.core_modCore_self, State.core_correct]
  exact fun w hw => e w ((List.mem_filter.1 hw).1)

/-- The bytes that a store without a mask writes are its own, whatever was there. -/
theorem unmasked_bytes (old bs : List Byte) :
    ((List.range bs.length).map fun i =>
      (old.getD i 0 &&& ~~~(([] : List Byte).getD i 0xFF)) ||| (bs.getD i 0 &&& ([] : List Byte).getD i 0xFF)) = bs := by
  have whole (x y : Byte) : (x &&& ~~~(0xFF#8)) ||| (y &&& 0xFF#8) = y := by
    rw [show 0xFF#8 = BitVec.allOnes 8 from rfl, BitVec.not_allOnes, BitVec.and_zero, BitVec.and_allOnes, BitVec.zero_or]
  refine List.ext_getElem (by simp) fun i hi _ => ?_
  rw [List.length_map, List.length_range] at hi
  simp only [List.getElem_map, List.getElem_range, List.getD_nil, getD_of_lt hi]
  exact whole _ _

/-- A store of whole bytes performed at a scratchpad in correctable words (R115, R228). -/
theorem State.performHere_spad {e : StoreEnt} (s : State) (h : Nat) (hs : isSpad e.base = true) (hm : e.mask = [])
    (he : s.eccBad e.base e.bytes.length = false) :
    let u := (s.padServed e.base e.bytes.length).fetchedBefore h e.base e.bytes.length
    s.performHere h e = u.keepOlder (u.writeBytes e.enc e.base e.bytes) h e := by
  intro u
  have hv := isVault_of_isSpad hs
  have ecc : u.eccBad e.base e.bytes.length = false := s.padServed_eccBad hs he
  have served : (((s.renew e.base e.bytes.length).wake e.base e.bytes.length).touch e.base e.bytes.length).mend e.base
      e.bytes.length = s.padServed e.base e.bytes.length := by
    rw [State.touch, if_neg (by simp [hv]), State.padServed]
  simp only [State.performHere, isReg_of_isSpad hs, hm, unmasked_bytes, beq_self_eq_true, if_true, served, hv, Bool.false_and,
    Bool.false_eq_true, if_false]
  rw [if_neg (by rw [ecc]; simp)]

/-- The same over links that are up (R229). -/
theorem State.perform_of_lostLink {h : Nat} {e : StoreEnt} (s : State) (hl : s.lostLink h e.base = none) :
    s.perform h e = s.performHere h e := by
  unfold State.lostLink at hl
  split at hl
  · cases hl
  · next hq => simp [State.perform, hq, hl]

theorem State.fetchedBefore_hart (s : State) (h a n k : Nat) (e : k ≠ h) :
    (s.fetchedBefore h a n).hart k = s.hart k := State.hart_modHart_ne s _ e

/-- What a fetch may have found before a store is kept with the hart alone (R146). -/
theorem State.fetchedBefore_icache (s : State) (h a n : Nat) :
    { (s.fetchedBefore h a n).hart h with icache := (s.hart h).icache } = s.hart h := by
  rw [State.fetchedBefore, State.hart_modHart_self]

/-- Settles O20: a write is a change of its unit's key, which no read under the new key sees, and then a put of each byte; a
store at a scratchpad is such a write after its words are served. -/
theorem writtenBytesRead : Obligations.WrittenBytesRead := by
  unfold Obligations.WrittenBytesRead
  refine ⟨fun s enc a bs => ?write, fun s h e hs hm henc hl he => ?store⟩
  case write =>
    have frame := State.writeBytes_frame bs s enc a
    refine ⟨fun i hi => ?_, fun b hb => ?_, (congrArg State.harts frame :), (congrArg State.cores frame :),
      (congrArg State.groups frame :), (congrArg State.parts frame :), (congrArg State.keys frame :)⟩
    · rw [State.readKey_writeBytes, if_pos ⟨Nat.le_add_right a i, Nat.add_lt_add_left hi a⟩, Nat.add_sub_cancel_left]
    · rw [State.readKey_writeBytes, if_neg (by omega)]
  case store =>
    obtain ⟨cs, m, served⟩ := s.padServed_eq e.bytes.length hs
    have here := (s.perform_of_lostLink hl).trans (s.performHere_spad h hs hm he)
    rw [served, henc] at here
    generalize hu : State.fetchedBefore { s with cores := cs, mccorr := m } h e.base e.bytes.length = u at here
    have before (q : Option (BitVec 512)) (b : Nat) : u.readKey q b = s.readKey q b := by rw [← hu]; rfl
    have after (b : Nat) : (s.perform h e).readKey none b =
        if e.base ≤ b ∧ b < e.base + e.bytes.length then e.bytes.getD (b - e.base) 0 else s.readKey none b := by
      rw [here, ← before]; exact State.readKey_writeBytes e.bytes u none e.base b
    have harts (k : Nat) : (s.perform h e).hart k = u.hart k := by
      rw [here]; exact (Kept.writeBytes e.bytes u none e.base).hart k
    refine ⟨fun i hi => ?_, fun b hb => ?_, fun k hk => ?_, ?_⟩
    · rw [after, if_pos ⟨Nat.le_add_right _ i, Nat.add_lt_add_left hi _⟩, Nat.add_sub_cancel_left]
    · rw [after, if_neg (by omega)]
    · rw [harts, ← hu]; exact State.fetchedBefore_hart _ h _ _ k hk
    · rw [harts, ← hu]; exact State.fetchedBefore_icache _ h _ _

end Sys2Proof.Machine
end

section
/-! Frames of rows and banks (spec/04 R70 to R86): what time brings about at a bank and what a sense leaves alone. -/

namespace Sys2Proof.Machine

/-! ## Deferred writes -/

/-- Deferred writes change harts, and the octets of their cores. -/
theorem State.land_frame (s : State) (h : Nat) (d : Pend) :
    { State.land h s d with harts := s.harts, cores := s.cores } = s := by
  cases d with
  | vec r v =>
    simp only [State.land, State.setVec]
    split
    · rfl
    · split <;> rfl
  | _ => rfl

theorem State.lands_frame (ds : List Pend) (h : Nat) : ∀ s : State,
    { ds.foldl (State.land h) s with harts := s.harts, cores := s.cores } = s := by
  induction ds with
  | nil => exact fun _ => rfl
  | cons d ds ih =>
    exact fun s => (congrArg (fun t : State => { t with harts := s.harts, cores := s.cores }) (ih (State.land h s d))).trans
      (s.land_frame h d)

theorem State.commit_frame (s : State) (h : Nat) : { s.commit h with harts := s.harts, cores := s.cores } = s :=
  State.lands_frame _ h s

/-- The answer to an operation changes its hart, and through the span that it ends the octets of its core. -/
theorem State.resolve_frame (s : State) (h id : Nat) (ps : List Pend) :
    { s.resolve h id ps with harts := s.harts, cores := s.cores } = s := by
  simp only [State.resolve]
  split
  · exact congrArg (fun t : State => { t with harts := s.harts, cores := s.cores }) (State.commit_frame (s.modHart h _) h)
  · rfl

/-! ## The steps of banks and senses move neither time nor memory -/

/-- The tick, the chain being executed and memory are as they were. -/
structure Unmoved (s t : State) : Prop where
  tick : t.tick = s.tick
  cx : t.cx = s.cx
  mem : t.mem = s.mem

theorem Unmoved.refl (s : State) : Unmoved s s := ⟨rfl, rfl, rfl⟩
theorem Unmoved.trans {s t u : State} (a : Unmoved s t) (b : Unmoved t u) : Unmoved s u :=
  ⟨b.tick.trans a.tick, b.cx.trans a.cx, b.mem.trans a.mem⟩
theorem Unmoved.foldl {α : Type} {f : State → α → State} (k : ∀ s a, Unmoved s (f s a)) (l : List α) :
    ∀ s, Unmoved s (l.foldl f s) := by
  induction l with
  | nil => exact .refl
  | cons a l ih => exact fun s => (k s a).trans (ih _)

theorem Unmoved.expireSlot (s : State) (g k : Nat) : Unmoved s (s.expireSlot g k) := by
  simp only [State.expireSlot]
  split <;> exact ⟨rfl, rfl, rfl⟩

theorem Unmoved.bankEnd (s : State) (e : BankEnd) : Unmoved s (s.bankEnd e) := by
  simp only [State.bankEnd]
  split <;> exact ⟨rfl, rfl, rfl⟩

/-- Rows of bank `b` of vault `v` that time has expired release it (R73). -/
def State.expireBank (s : State) (v b : Nat) : State :=
  (List.range 16).foldl (fun s i =>
    if bankOf (s.slot (v * 4 + i / 4) (i % 4)).row == b then s.expireSlot (v * 4 + i / 4) (i % 4) else s) s
/-- What the releases of the bank that have come end (R81, R108). -/
def State.endBank (s : State) (v b : Nat) : State :=
  ((s.bank v b).ends.filter fun e => e.tick ≤ s.tick).foldl State.bankEnd s

theorem Unmoved.expireBank (s : State) (v b : Nat) : Unmoved s (s.expireBank v b) :=
  .foldl (fun s i => by
    split
    · exact .expireSlot s _ _
    · exact .refl s) _ s

theorem Unmoved.endBank (s : State) (v b : Nat) : Unmoved s (s.endBank v b) := .foldl .bankEnd _ s

/-- A bank at tick `now`: releases that have come end its closing, and a pending refresh runs once the bank is cool (R76). -/
def VBank.settled (x : VBank) (now cool : Nat) (held : Bool) : VBank :=
  let runs := x.refreshPending && !held && decide (cool ≤ now)
  { x with
    ends := x.ends.filter fun e => now < e.tick
    closing := x.closing && decide (now < x.release)
    refreshPending := x.refreshPending && !runs
    blackoutEnd := if runs then cool else x.blackoutEnd }

/-- A bank settles in three parts: rows expire, releases end, and then the bank itself takes up what has come (R73, R76). -/
theorem State.settleBank_eq (s : State) (v b : Nat) : s.settleBank v b =
    let u := (s.expireBank v b).endBank v b
    u.modBank v b fun x =>
      x.settled u.tick (u.bankCool v b) ((u.bankSlots v b).any fun y => y.want.isNone && y.holdsAt u.tick) := by
  rfl

theorem Unmoved.settleBank (s : State) (v b : Nat) : Unmoved s (s.settleBank v b) := by
  rw [State.settleBank_eq]
  exact ((Unmoved.expireBank s v b).trans (.endBank _ v b)).trans ⟨rfl, rfl, rfl⟩

theorem Unmoved.sensedCells (s : State) (row : Nat) : Unmoved s (s.sensedCells row).2 := by
  simp only [State.sensedCells]
  split <;> exact ⟨rfl, rfl, rfl⟩

theorem Unmoved.resolve (s : State) (h id : Nat) (ps : List Pend) : Unmoved s (s.resolve h id ps) :=
  have frame := s.resolve_frame h id ps
  ⟨(congrArg State.tick frame :), (congrArg State.cx frame :), (congrArg State.mem frame :)⟩

/-- What a sense leaves of the state whose bank has settled, with the row's cells read: `x` is the slot as sensed. -/
def State.latched (s : State) (v g k a : Nat) (x : RowSlot) : State :=
  let s := s.setSlot g k x
  let old := (s.rowWaits v).foldl (fun m w => min m w.came) s.tick
  s.modCluster v fun c => { c with senses := a :: c.senses.filter fun u => old < u + 18 }

/-- The slot of a row that is sensed at tick `a`, its bank settled in `o` and its cells read as `cells` (R74, R309). -/
def RowSlot.sensedIn (x : RowSlot) (o : State) (a : Nat) (cells : List Host.Cell) : RowSlot :=
  { x with a := a, want := none, sensed := cells, units := o.rowUnits x.row,
           ready := match x.part with | some p => a + 14 - (o.part p).tickOff | none => a + 14 }

@[simp] theorem State.sensedCells_encUnits (s : State) (row : Nat) : (s.sensedCells row).2.encUnits = s.encUnits := by
  simp only [State.sensedCells]
  split <;> rfl

/-- With no older store to find, a row is read as it is (R87). -/
theorem State.sensedCells_of_older (s : State) (row : Nat) (h : s.older = []) : (s.sensedCells row).1 = s.rowCells row := by
  simp [State.sensedCells, h]

/-- A sense: the bank settles, the row is read, the slot latches it, and the hart that waits has its ready tick (R74). -/
theorem State.senseAt_eq {g k a t h id : Nat} (s : State) (hw : (s.slot g k).want = some (t, h, id)) :
    let x := s.slot g k
    let o := s.settleBank (g / 4) (bankOf x.row)
    let c := o.sensedCells x.row
    let y := x.sensedIn o a c.1
    let u := c.2.latched (g / 4) g k a y
    s.senseAt g k a = u ∨ s.senseAt g k a = u.resolve h id [.scalar x.dest (w64 y.ready)] := by
  intro x o c y u
  have units : c.2.rowUnits x.row = o.rowUnits x.row := by simp only [State.rowUnits, c, State.sensedCells_encUnits]
  have latch : u = c.2.latched (g / 4) g k a { y with units := c.2.rowUnits x.row } := by rw [units]; rfl
  simp only [State.senseAt, hw]
  split
  · right
    rw [latch]
    rfl
  · left
    rw [latch]
    rfl

theorem State.senseAt_of_none {g k : Nat} (s : State) (a : Nat) (hw : (s.slot g k).want = none) : s.senseAt g k a = s := by
  simp only [State.senseAt, hw]

theorem Unmoved.latched (s : State) (v g k a : Nat) (x : RowSlot) : Unmoved s (s.latched v g k a x) := ⟨rfl, rfl, rfl⟩

theorem Unmoved.senseAt (s : State) (g k a : Nat) : Unmoved s (s.senseAt g k a) := by
  cases hw : (s.slot g k).want with
  | none => rw [s.senseAt_of_none a hw]; exact .refl s
  | some w =>
    have latched (y : RowSlot) : Unmoved s
        (((s.settleBank (g / 4) (bankOf (s.slot g k).row)).sensedCells (s.slot g k).row).2.latched (g / 4) g k a y) :=
      ((Unmoved.settleBank s _ _).trans (.sensedCells _ _)).trans (.latched _ _ _ _ _ _)
    obtain h | h := s.senseAt_eq (a := a) hw
    · rw [h]; exact latched _
    · rw [h]; exact (latched _).trans (.resolve _ _ _ _)

theorem Unmoved.countDeferred (s : State) (v : Nat) (late : Bool) : Unmoved s (s.countDeferred v late) := by
  cases late
  · exact .refl s
  · exact ⟨rfl, rfl, rfl⟩

theorem Unmoved.senseRow (s : State) (p : RowWait × Nat) : Unmoved s (s.senseRow p) :=
  (Unmoved.senseAt s p.1.g p.1.k p.2).trans (.countDeferred _ _ _)

theorem Unmoved.senseDue (s : State) (v : Nat) : Unmoved s (s.senseDue v) := .foldl .senseRow _ s

/-- The sense that is planned for a slot takes place. -/
def State.senseSlot (s : State) (g k : Nat) : State := match s.senseOf g k with | some p => s.senseRow p | none => s
/-- A slot is freed, and its bank released where it holds one (R73, R79). -/
def State.freeSlot (s : State) (g k : Nat) : State :=
  let x := s.slot g k
  let s := s.setSlot g k { va := x.va }
  if x.holds then
    let t := max s.tick (x.a + 28)
    s.closeBank (g / 4) (bankOf x.row) t [x.ending g k t]
  else s

/-- A slot is closed once the rows that are due, and its own, have been sensed and its bank has settled. -/
theorem State.closeSlot_eq (s : State) (g k : Nat) : s.closeSlot g k =
    let u := (s.senseDue (g / 4)).senseSlot g k
    (u.settleBank (g / 4) (bankOf (u.slot g k).row)).freeSlot g k := by
  cases h : (s.senseDue (g / 4)).senseOf g k <;> simp only [State.closeSlot, State.senseSlot, State.freeSlot, h]

theorem Unmoved.senseSlot (s : State) (g k : Nat) : Unmoved s (s.senseSlot g k) := by
  unfold State.senseSlot
  split
  · exact .senseRow s _
  · exact .refl s

theorem Unmoved.freeSlot (s : State) (g k : Nat) : Unmoved s (s.freeSlot g k) := by
  simp only [State.freeSlot]
  split <;> exact ⟨rfl, rfl, rfl⟩

theorem Unmoved.closeSlot (s : State) (g k : Nat) : Unmoved s (s.closeSlot g k) := by
  rw [State.closeSlot_eq]
  exact (((Unmoved.senseDue s (g / 4)).trans (.senseSlot _ g k)).trans (.settleBank _ _ _)).trans (.freeSlot _ g k)

/-! ## Slots and banks -/

@[simp] theorem State.slot_setSlot_self (s : State) (g k : Nat) (x : RowSlot) : (s.setSlot g k x).slot g k = x := by
  simp [State.slot, State.setSlot]

theorem State.resolve_groups (s : State) (h id : Nat) (ps : List Pend) : (s.resolve h id ps).groups = s.groups :=
  (congrArg State.groups (s.resolve_frame h id ps) :)

theorem State.slot_of_groups {s t : State} (h : t.groups = s.groups) (g k : Nat) : t.slot g k = s.slot g k := by
  simp only [State.slot, State.group, h]

/-- R74, R309: a row that is sensed at tick `a` is in its slot as its settled bank had it. -/
theorem State.senseAt_slot {g k a t h id : Nat} (s : State) (hw : (s.slot g k).want = some (t, h, id)) :
    let x := s.slot g k
    let o := s.settleBank (g / 4) (bankOf x.row)
    (s.senseAt g k a).slot g k = x.sensedIn o a (o.sensedCells x.row).1 := by
  intro x o
  have latched (u : State) (y : RowSlot) : (u.latched (g / 4) g k a y).slot g k = y := u.slot_setSlot_self g k y
  obtain e | e := s.senseAt_eq (a := a) hw
  · rw [e, latched]
  · rw [e, State.slot_of_groups (State.resolve_groups _ _ _ _), latched]

theorem State.bank_modBank (s : State) (v b w c : Nat) (f : VBank → VBank) :
    (s.modBank v b f).bank w c = if w = v ∧ c = b then f (s.bank v b) else s.bank w c := by
  by_cases hw : w = v
  · subst hw
    simp only [State.bank, State.modBank, State.cluster_modCluster_self, Tab.get_put, true_and]
  · simp only [State.bank, State.modBank, State.cluster_modCluster_ne _ _ hw, hw, false_and, if_false]

/-- A bank is released no later than it was going to be, or than it now is. -/
theorem State.closeBank_release (s : State) (v b t w c : Nat) (es : List BankEnd) :
    ((s.closeBank v b t es).bank w c).release ≤ max (s.bank w c).release t := by
  rw [State.closeBank, State.bank_modBank]
  split
  · next same =>
    obtain ⟨rfl, rfl⟩ := same
    dsimp only
    split
    · exact Nat.le_refl _
    · exact Nat.le_max_right _ _
  · exact Nat.le_max_left _ _

/-- An expiry is a release by now (R73, R74). -/
theorem State.expireSlot_release (s : State) (g k v b : Nat) (h : (s.bank v b).release ≤ s.tick) :
    ((s.expireSlot g k).bank v b).release ≤ (s.expireSlot g k).tick := by
  rw [(Unmoved.expireSlot s g k).tick]
  simp only [State.expireSlot]
  split
  · next due =>
    simp only [Bool.and_eq_true, decide_eq_true_eq] at due
    exact Nat.le_trans (State.closeBank_release _ _ _ _ v b _) (Nat.max_le.2 ⟨h, due.2⟩)
  · exact h

theorem State.expireBank_release (s : State) (v b : Nat) (h : (s.bank v b).release ≤ s.tick) :
    ((s.expireBank v b).bank v b).release ≤ (s.expireBank v b).tick := by
  refine List.foldlRecOn (motive := fun t : State => (t.bank v b).release ≤ t.tick) (List.range 16) _ h fun t ht i _ => ?_
  split
  · exact t.expireSlot_release _ _ v b ht
  · exact ht

@[simp] theorem State.bankEnd_bank (s : State) (e : BankEnd) (v b : Nat) : (s.bankEnd e).bank v b = s.bank v b := by
  have pins (f : List Pin → List Pin) :
      (s.modCluster (e.g / 4) fun x => { x with pins := f x.pins }).bank v b = s.bank v b := by
    by_cases hv : v = e.g / 4
    · subst hv; simp [State.bank]
    · simp [State.bank, State.cluster_modCluster_ne _ _ hv]
  simp only [State.bankEnd]
  split
  · exact pins _
  · exact pins _

@[simp] theorem State.endBank_bank (s : State) (v b : Nat) : (s.endBank v b).bank v b = s.bank v b :=
  List.foldlRecOn (motive := fun t : State => t.bank v b = s.bank v b) _ _ rfl fun t ht e _ => (t.bankEnd_bank e v b).trans ht

/-- R74: a bank whose release has come is closing no more. -/
theorem State.settleBank_closing (s : State) (v b : Nat) (h : (s.bank v b).release ≤ s.tick) :
    ((s.settleBank v b).bank v b).closing = false := by
  have past := s.expireBank_release v b h
  rw [State.settleBank_eq, State.bank_modBank, if_pos ⟨rfl, rfl⟩]
  simp only [VBank.settled, State.endBank_bank, (Unmoved.endBank _ v b).tick, Bool.and_eq_false_imp, decide_eq_false_iff_not]
  exact fun _ => Nat.not_lt.2 past

end Sys2Proof.Machine
end

section
/-! Row windows (spec/04 R71 to R86, spec/15 R309 to R311): what ROWACT, ROWTAKE, ROWCLOSE and ROWQ do, and the steps of slots,
banks and refresh. -/

namespace Sys2Proof.Machine

/-! ## Answers of another unit (R182) -/

/-- A result that a chain waits for is still waited for once the chain has been issued. -/
theorem State.retire_wait (s : State) (h len id : Nat) (mk : Bool) (e : Pend.wait id ∈ (s.hart h).span.pend) :
    Pend.wait id ∈ ((s.retire h len mk).hart h).span.pend := by
  have waiting (x : Hart) (hx : x.span.pend = (s.hart h).span.pend) : x.waiting = true :=
    List.any_eq_true.2 ⟨_, hx ▸ e, rfl⟩
  unfold State.retire
  dsimp only
  split
  · rw [if_pos (waiting _ (by rw [State.hart_modHart_self]))]
    simpa using e
  · simpa using e

/-- An instruction that leaves its result to another unit awaits it. -/
theorem finish_await (s : State) (id : Nat) : Awaits (finish (s.defer [.wait id])) s id := by
  obtain ⟨t, ht, hs⟩ := finish_defer s [.wait id]
  refine ⟨t, ht, hs, ?_⟩
  cases ht
  rw [State.me, State.retire_cx]
  exact State.retire_wait _ _ _ _ _ (by simp [State.defer])

/-! ## The lease (R291) -/

theorem needLease_traps {s : State} (k : Nat → State → Out) (hl : s.leaseRun (s.curGroup s.cx.hart) s.cx.hart = none)
    (hw : s.me.waiting = false) : Traps (needLease s k) s 0x0F 0 (BitVec.ofNat 64 (s.curGroup s.cx.hart % 4)) := by
  have refused : needLease s k = trap 0x0F (w64 (s.curGroup s.cx.hart % 4)) s := by simp [needLease, hl]
  rw [refused]
  exact traps_trap s _ _ hw

theorem needLease_held {s : State} (k : Nat → State → Out) (hl : (s.leaseRun (s.curGroup s.cx.hart) s.cx.hart).isSome) :
    needLease s k = k (s.curGroup s.cx.hart) s := if_pos hl

/-! ## ROWACT (R73, R77, R309) -/

/-- The old row of the slot is closed, unless it holds nothing (R73). -/
def State.reopened (s : State) (g k : Nat) : State :=
  match (s.slot g k).at s.tick with
  | .free | .expired => s
  | _ => s.closeSlot g k
/-- A slot that has expired is closed before it is used again. -/
def State.cleared (s : State) (g k : Nat) : State := match (s.slot g k).at s.tick with | .expired => s.closeSlot g k | _ => s

/-- The vault has accepted the activation of the row at `p` for a slot: it waits to be sensed, with its page pinned, and answers
by the number drawn for it. -/
def State.requested (s : State) (g k : Nat) (d : RegNo) (ea : Word) (p : Place) : State :=
  let b := s.draw.2
  (b.setSlot g k
    { st := .activating, row := p.key, enc := p.enc.isSome, key := p.enc.getD 0, holds := true, so := p.so, born := b.steps,
      part := b.me.part, page := p.key / 65536, want := some (b.tick, b.cx.hart, s.draw.1), va := ea, dest := d.toNat }).pin
    (g / 4) ⟨b.me.part, b.me.t.pspace, p.key / 65536, .row g k⟩

theorem Unmoved.reopened (s : State) (g k : Nat) : Unmoved s (s.reopened g k) := by
  unfold State.reopened
  split
  · exact .refl s
  · exact .refl s
  · exact .closeSlot s g k

theorem Unmoved.cleared (s : State) (g k : Nat) : Unmoved s (s.cleared g k) := by
  unfold State.cleared
  split
  · exact .closeSlot s g k
  · exact .refl s

section
variable {g k : Nat} (d : RegNo) (ea : Word) (p : Place) {r y u w : State} (hy : r.senseDue (g / 4) = y)
  (hu : y.reopened g k = u) (hw : y.earlierWait g k = false) (hr : y.rowHeld g k = false)
include hy hu hw hr

/-- R77: a bank that a slot holds refuses the row. -/
theorem activate_of_held (hb : ∃ q ∈ u.bankSlots (g / 4) (bankOf p.key), q.holdsAt u.tick = true) :
    activate g k d ea p r = trap 0x0B ea u := by
  subst hu
  have busy := List.any_eq_true.2 hb
  simp only [activate, hy, hw, hr, Bool.or_self, Bool.false_eq_true, if_false]
  exact if_pos busy

/-- R73: else the vault accepts it. -/
theorem activate_of_not_held (hc : u.cleared g k = w)
    (hb : ¬ ∃ q ∈ u.bankSlots (g / 4) (bankOf p.key), q.holdsAt u.tick = true) :
    activate g k d ea p r = finish ((w.requested g k d ea p).defer [.wait w.draw.1]) := by
  subst hc hu
  have free := fun h => hb (List.any_eq_true.1 h)
  have cx : ((y.reopened g k).cleared g k).cx = r.cx :=
    (((hy ▸ Unmoved.senseDue r (g / 4)).trans (.reopened y g k)).trans (.cleared _ g k)).cx
  simp only [activate, hy, hw, hr, Bool.or_self, Bool.false_eq_true, if_false]
  refine (if_neg free).trans ?_
  rw [← cx]
  simp only [State.reopened, State.cleared]
  generalize State.closeSlot = close
  rfl

end

theorem State.rowAfter_iff (s : State) (p : Place) :
    s.rowAfter p = true ↔ ∃ e ∈ s.me.sbuf, e.overlaps p.key 8192 = true ∨ (p.so = true ∧ e.so = true) := by
  simp only [State.rowAfter, List.any_eq_true, Bool.or_eq_true, Bool.and_eq_true, And.comm]

theorem State.rowAfter_eq_false_iff (s : State) (p : Place) :
    s.rowAfter p = false ↔ ∀ e ∈ s.me.sbuf, e.overlaps p.key 8192 = false ∧ (p.so = false ∨ e.so = false) := by
  simp only [State.rowAfter, List.any_eq_false, Bool.not_eq_true, Bool.or_eq_false_iff, Bool.and_eq_false_iff, Or.comm]

/-- R309: ROWACT by a hart with the lease, at a row that is placed, whose page has room among the pins and that no push comes
before, goes on to the vault in `r`: with the stores before it performed, if there are any. -/
theorem execRowact_of_place {o : RowAct} {s t r : State} {p : Place}
    (hl : (s.leaseRun (s.curGroup s.cx.hart) s.cx.hart).isSome)
    (hp : rowPlace (s.curGroup s.cx.hart) (s.rd o.a + o.off) s = .ok p t)
    (hroom : s.pinRoom (s.curGroup s.cx.hart / 4) s.me.part s.me.t.pspace [p.key / 65536] = true)
    (hpush : t.pushedBefore s.cx.hart t.steps p.key 8192 p.so = false)
    (hrows : p.so = false ∨ t.rowsBefore s.cx.hart t.steps true = false)
    (hr : (r = t ∧ t.rowAfter p = false) ∨ (t.rowAfter p = true ∧ t.Drains r)) :
    execRowact o s = activate (s.curGroup s.cx.hart) o.k.toNat o.d (s.rd o.a + o.off) p r := by
  have gate : s.pinGate (s.curGroup s.cx.hart / 4) (s.who s.cx.hart) (.ok p t) (fun p => [p.key / 65536]) = true := hroom
  have ready : (t.pushedBefore s.cx.hart t.steps p.key 8192 p.so || (p.so && t.rowsBefore s.cx.hart t.steps true)) = false := by
    rw [hpush, Bool.false_or, Bool.and_eq_false_iff]; exact hrows
  rw [execRowact, needLease_held _ hl]
  simp only [hp, gate, Look.out_ok, ready, Bool.not_true, Bool.false_eq_true, if_false]
  obtain ⟨rfl, noStore⟩ | ⟨store, drains⟩ := hr
  · rw [noStore]; simp
  · rw [store, if_pos rfl]; exact drained_eq t r _ drains.sensed drains.stores drains.lives

/-! ## ROWTAKE and ROWCLOSE (R73, R79, R80, R310) -/

section
variable {s : State} (k : BitVec 2) (hl : (s.leaseRun (s.curGroup s.cx.hart) s.cx.hart).isSome)
include hl

/-- ROWTAKE looks at the slot once the rows that are due have been sensed. -/
theorem execRowtake_of_lease {z : State} {x : RowSlot} (hz : s.senseDue (s.curGroup s.cx.hart / 4) = z)
    (hx : z.slot (s.curGroup s.cx.hart) k.toNat = x) :
    (x.at z.tick = .activating → execRowtake k s = trap 0x09 x.va z) ∧
    (x.at z.tick = .ready ∨ (x.at z.tick = .taken ∧ x.holdsAt z.tick = true) →
      execRowtake k s = finish (z.takeRow (s.curGroup s.cx.hart) k.toNat z.cx.hart)) ∧
    (x.at z.tick = .expired ∨ (x.at z.tick = .taken ∧ x.holdsAt z.tick = false) → execRowtake k s = trap 0x0A x.va z) ∧
    (x.at z.tick = .free → execRowtake k s = trap 0x0A (Config.freeWord z.steps) z) := by
  rw [execRowtake, needLease_held _ hl]
  simp only [hz, hx]
  refine ⟨fun h => ?_, fun h => ?_, fun h => ?_, fun h => ?_⟩
  · simp only [h]
  · obtain h | ⟨h, held⟩ := h
    · simp only [h]
    · simp only [h, held, if_true]
  · obtain h | ⟨h, held⟩ := h
    · simp only [h]
    · simp only [h, held, Bool.false_eq_true, if_false]
  · simp only [h]

/-- ROWCLOSE of a slot that is free does nothing. -/
theorem execRowclose_of_free (hf : (s.slot (s.curGroup s.cx.hart) k.toNat).st = .free) : execRowclose k s = finish s := by
  rw [execRowclose, needLease_held _ hl, if_pos (by rw [hf]; rfl)]

/-- ROWCLOSE closes a slot in use, where its row has not to wait to be sensed. -/
theorem execRowclose_of_used {z : State} (hf : (s.slot (s.curGroup s.cx.hart) k.toNat).st ≠ .free)
    (hz : s.senseDue (s.curGroup s.cx.hart / 4) = z) (hw : z.earlierWait (s.curGroup s.cx.hart) k.toNat = false)
    (hr : z.rowHeld (s.curGroup s.cx.hart) k.toNat = false) :
    execRowclose k s = finish (z.closeSlot (s.curGroup s.cx.hart) k.toNat) := by
  rw [execRowclose, needLease_held _ hl, if_neg (by simpa using hf)]
  simp only [hz, hw, hr, Bool.or_self, Bool.false_eq_true, if_false]

end

/-! ## ROWQ (R311) -/

/-- The two words that ROWQ delivers of a slot at a tick; `told` is the ready tick of a row that is open or to be opened. -/
def RowSlot.readyWord (x : RowSlot) (now told : Nat) : Nat := if x.at now == .free || x.at now == .expired then 0 else told
def RowSlot.rowWord (x : RowSlot) (now : Nat) : Nat :=
  (if x.at now == .free then 0
   else x.row / 8192 % 2 ^ 26 * 2 ^ 32 + b2n x.enc * 2 ^ 16 + (if x.enc then x.key.toNat * 16 else 0)
      + b2n (x.poison != []) * 8) + slotCode (x.at now)

theorem b2n_le (b : Bool) : b2n b ≤ 1 := by cases b <;> decide
theorem slotCode_lt (st : SlotSt) : slotCode st < 8 := by cases st <;> decide

theorem execRowq_eq {s z : State} (d : RegNo) (k : BitVec 2) (hz : s.senseDue (s.curGroup s.cx.hart / 4) = z) :
    ∃ told, execRowq d k s = finish (z.defer [.scalar d.toNat
        (w64 ((z.slot (s.curGroup s.cx.hart) k.toNat).readyWord z.tick told)),
        .scalar 0 (w64 ((z.slot (s.curGroup s.cx.hart) k.toNat).rowWord z.tick))]) ∧
      (z.senseOf (s.curGroup s.cx.hart) k.toNat = none → told = (z.slot (s.curGroup s.cx.hart) k.toNat).ready) := by
  simp only [execRowq, hz]
  exact ⟨_, rfl, fun unsensed => by simp only [unsensed]⟩

section
variable (x : RowSlot) (now : Nat)

theorem RowSlot.readyWord_of_closed (told : Nat) (h : x.at now = .free ∨ x.at now = .expired) : x.readyWord now told = 0 := by
  obtain h | h := h <;> simp [RowSlot.readyWord, h]
theorem RowSlot.readyWord_of_open (told : Nat) (hf : x.at now ≠ .free) (he : x.at now ≠ .expired) :
    x.readyWord now told = told := by simp [RowSlot.readyWord, hf, he]

theorem RowSlot.rowWord_of_free (h : x.at now = .free) : x.rowWord now = 0 := by simp [RowSlot.rowWord, slotCode, h]

/-- The fields of ROWQ's second word: the slot's code in three bits, poison in the next, the key with its flag below bit 32, and
the row above. -/
theorem RowSlot.rowWord_fields (h : x.at now ≠ .free) : ∃ key < 2 ^ 28,
    x.rowWord now = x.row / 8192 % 2 ^ 26 * 2 ^ 32 + key * 16 + b2n (x.poison != []) * 8 + slotCode (x.at now) := by
  have used : (x.at now == .free) = false := by simpa using h
  have key : x.key.toNat < 2 ^ 12 := x.key.isLt
  refine ⟨b2n x.enc * 2 ^ 12 + (if x.enc then x.key.toNat else 0), ?_, ?_⟩
  · have flag := b2n_le x.enc
    split <;> omega
  · simp only [RowSlot.rowWord, used, Bool.false_eq_true, if_false]
    split <;> omega

theorem RowSlot.rowWord_toNat : (w64 (x.rowWord now)).toNat = x.rowWord now := by
  rw [w64, BitVec.toNat_ofNat]
  refine Nat.mod_eq_of_lt ?_
  by_cases h : x.at now = .free
  · rw [x.rowWord_of_free now h]; decide
  · obtain ⟨key, hk, e⟩ := x.rowWord_fields now h
    have := slotCode_lt (x.at now)
    have := b2n_le (x.poison != [])
    omega

theorem RowSlot.rowWord_code : (w64 (x.rowWord now)).toNat % 8 = slotCode (x.at now) := by
  rw [RowSlot.rowWord_toNat]
  by_cases h : x.at now = .free
  · rw [x.rowWord_of_free now h, h]; rfl
  · obtain ⟨key, -, e⟩ := x.rowWord_fields now h
    have := slotCode_lt (x.at now)
    omega

theorem RowSlot.rowWord_row (h : x.at now ≠ .free) :
    (w64 (x.rowWord now)).toNat / 2 ^ 32 % 2 ^ 26 = x.row / 8192 % 2 ^ 26 := by
  rw [RowSlot.rowWord_toNat]
  obtain ⟨key, hk, e⟩ := x.rowWord_fields now h
  have := slotCode_lt (x.at now)
  have := b2n_le (x.poison != [])
  omega

theorem RowSlot.rowWord_poison (h : x.at now ≠ .free) : (w64 (x.rowWord now)).getLsbD 3 = true ↔ x.poison ≠ [] := by
  rw [BitVec.getLsbD, RowSlot.rowWord_toNat, Nat.testBit_eq_decide_div_mod_eq, decide_eq_true_iff]
  obtain ⟨key, -, e⟩ := x.rowWord_fields now h
  have := slotCode_lt (x.at now)
  by_cases hp : x.poison = []
  · have clear : b2n (x.poison != []) = 0 := by simp [hp, b2n]
    exact iff_of_false (by omega) (fun h => h hp)
  · have flagged : b2n (x.poison != []) = 1 := by simp [hp, b2n]
    exact iff_of_true (by omega) hp

end

/-! ## Steps of slots (R73 to R75) -/

section
variable {s : State} (hi : s.ev.i < Config.nGroups) (hj : s.ev.j < 4)
include hi hj

theorem slotStep_eq (k : Nat → Nat → RowSlot → Out) : slotStep s k = k s.ev.i s.ev.j (s.slot s.ev.i s.ev.j) := by
  simp [slotStep, Nat.not_le.2 hi, Nat.not_le.2 hj]

/-- R74: the rows whose ticks have come are sensed. -/
theorem execActivationSense_of_want (hw : (s.slot s.ev.i s.ev.j).want ≠ none) :
    execActivationSense s = .next (s.senseDue (s.ev.i / 4)) := by
  rw [execActivationSense, slotStep_eq hi hj, if_pos (Option.isSome_iff_ne_none.2 hw)]

/-- R73: an activation whose row can be taken is Ready. -/
theorem execRowReady_of_ready (hs : (s.slot s.ev.i s.ev.j).st = .activating)
    (ha : (s.slot s.ev.i s.ev.j).at s.tick = .ready) :
    execRowReady s = .next (s.setSlot s.ev.i s.ev.j { s.slot s.ev.i s.ev.j with st := .ready }) := by
  rw [execRowReady, slotStep_eq hi hj, if_pos (by rw [hs, ha]; rfl)]

/-- R73: a row that has been open for 3,600 ticks releases its bank, and is Expired unless it was taken. -/
theorem execRowExpiry_of_due {x : RowSlot} (hx : s.slot s.ev.i s.ev.j = x) (hh : x.holds = true) (hw : x.want = none)
    (hs : x.st ≠ .free) (ha : x.a + 3600 ≤ s.tick) :
    execRowExpiry s = .next (((s.setSlot s.ev.i s.ev.j
      { x with st := if x.st = .taken then .taken else .expired, holds := false }).closeBank (s.ev.i / 4) (bankOf x.row)
        (x.a + 3600) [x.ending s.ev.i s.ev.j (x.a + 3600)]).settleBank (s.ev.i / 4) (bankOf x.row)) := by
  have due : (x.holds && x.want.isNone && x.st != .free && decide (x.a + 3600 ≤ s.tick)) = true := by simp [hh, hw, hs, ha]
  rw [execRowExpiry, slotStep_eq hi hj]
  simp only [State.expireSlot, hx, due, if_true, beq_iff_eq]

/-- R80: the latch of a row that was taken becomes valid. -/
theorem execLatchValid_of_taken (hs : (s.slot s.ev.i s.ev.j).st = .taken) :
    execLatchValid s = .next (s.setSlot s.ev.i s.ev.j { s.slot s.ev.i s.ev.j with latchOk := true }) := by
  rw [execLatchValid, slotStep_eq hi hj, if_pos (by rw [hs]; rfl)]

end

/-! ## Steps of banks (R74, R76, R81) -/

section
variable {s : State} (hi : s.ev.i < Config.nClusters) (hj : s.ev.j < 256)
include hi hj

theorem bankStep_eq (k : Nat → Nat → VBank → Out) : bankStep s k = k s.ev.i s.ev.j (s.bank s.ev.i s.ev.j) := by
  simp [bankStep, Nat.not_le.2 hi, Nat.not_le.2 hj]

theorem execBankRelease_eq : execBankRelease s = .next (s.settleBank s.ev.i s.ev.j) := bankStep_eq hi hj _
theorem execRefreshBlackoutEnd_eq : execRefreshBlackoutEnd s = .next (s.settleBank s.ev.i s.ev.j) := bankStep_eq hi hj _

/-- R74: 14 ticks after its release a bank is precharged. -/
theorem execPrechargeEnd_of_release {u : State} (hu : s.settleBank s.ev.i s.ev.j = u)
    (ho : (u.bank s.ev.i s.ev.j).everOpened = true) (hc : (u.bank s.ev.i s.ev.j).closing = false)
    (hr : (u.bank s.ev.i s.ev.j).release + 14 ≤ s.tick) :
    execPrechargeEnd s = .next (u.modBank s.ev.i s.ev.j fun z => { z with everOpened := false }) := by
  have tick : u.tick = s.tick := hu ▸ (Unmoved.settleBank s _ _).tick
  rw [execPrechargeEnd, bankStep_eq hi hj]
  simp [hu, ho, hc, tick, hr]

/-- A slot holds the bank of vault `v` at tick `now` with a row that has been sensed. -/
def State.rowOpen (s : State) (v b now : Nat) : Prop := ∃ d ∈ s.bankSlots v b, d.want = none ∧ d.holdsAt now = true

/-- R76: once an interval the refresh falls due; with the bank held, closing or busy it is pending, and else it runs. -/
theorem execRefreshDue_of_due {w : State} (hw : (s.senseDue s.ev.i).settleBank s.ev.i s.ev.j = w) {z : VBank}
    (hz : w.bank s.ev.i s.ev.j = z) (hd : ¬ (z.refreshed = true ∧ s.tick < z.lastRefresh + 3900)) :
    ∃ late, (late = true ↔ w.rowOpen s.ev.i s.ev.j s.tick) ∧
      ((w.rowOpen s.ev.i s.ev.j s.tick ∨ s.tick < w.bankReady s.ev.i s.ev.j ∨ s.tick < z.busyUntil) →
        execRefreshDue s = .next ((w.modBank s.ev.i s.ev.j fun z =>
          { z with refreshed := true, lastRefresh := s.tick, refreshPending := true }).countRefresh s.ev.i late)) ∧
      (¬ (w.rowOpen s.ev.i s.ev.j s.tick ∨ s.tick < w.bankReady s.ev.i s.ev.j ∨ s.tick < z.busyUntil) →
        execRefreshDue s = .next ((w.modBank s.ev.i s.ev.j fun z =>
          { z with refreshed := true, lastRefresh := s.tick, blackoutEnd := s.tick + 160 }).countRefresh s.ev.i late)) := by
  have tick : w.tick = s.tick := hw ▸ ((Unmoved.senseDue s _).trans (.settleBank _ _ _)).tick
  have held : ((w.bankSlots s.ev.i s.ev.j).any fun y => y.want.isNone && y.holdsAt s.tick) = true ↔
      w.rowOpen s.ev.i s.ev.j s.tick := by
    simp only [State.rowOpen, List.any_eq_true, Bool.and_eq_true, Option.isNone_iff_eq_none]
  have due : (z.refreshed && decide (s.tick < z.lastRefresh + 3900)) = false := by
    rw [← Bool.not_eq_true, Bool.and_eq_true, decide_eq_true_eq]; exact hd
  have waits : ((w.bankSlots s.ev.i s.ev.j).any (fun y => y.want.isNone && y.holdsAt s.tick)
      || decide (s.tick < w.bankReady s.ev.i s.ev.j) || decide (s.tick < z.busyUntil)) = true ↔
      (w.rowOpen s.ev.i s.ev.j s.tick ∨ s.tick < w.bankReady s.ev.i s.ev.j ∨ s.tick < z.busyUntil) := by
    rw [Bool.or_eq_true, Bool.or_eq_true, held, decide_eq_true_eq, decide_eq_true_eq, or_assoc]
  refine ⟨_, held, fun wait => ?_, fun go => ?_⟩
  · rw [execRefreshDue, bankStep_eq hi hj]
    simp only [hw, hz, due, waits.2 wait, tick, Bool.false_eq_true, if_true, if_false]
  · rw [execRefreshDue, bankStep_eq hi hj]
    simp only [hw, hz, due, Bool.eq_false_iff.2 (mt waits.1 go), tick, Bool.false_eq_true, if_false]

end

/-- Settles O45: each instruction and each step, at a state in which it is ready, does what its lemma above gives. -/
theorem rowsComplete : Obligations.RowsComplete := by
  unfold Obligations.RowsComplete
  refine ⟨fun o k d s => ?harts, fun s => ?units⟩
  case harts =>
    intro h g v ea z x st
    refine ⟨fun hl hw => ?noLease, fun hl => ?leased, ?query⟩
    case noLease =>
      simp only [List.mem_cons, List.not_mem_nil, or_false, forall_eq_or_imp, forall_eq]
      rw [exec_rowact, exec_rowtake, exec_rowclose, execRowact, execRowtake, execRowclose]
      exact ⟨needLease_traps _ hl hw, needLease_traps _ hl hw, needLease_traps _ hl hw⟩
    case leased =>
      obtain ⟨early, taken, expired, free⟩ := execRowtake_of_lease k hl (z := z) (x := x) rfl rfl
      refine ⟨?act, fun hs => ?_, fun hw hs => ?_, fun hw hs => ?_, fun hw hs => ⟨Config.freeWord z.steps, ?_⟩,
        fun hf => ?_, fun hf hw hr => ?_⟩
      case act =>
        intro p t r hp hroom hpush hrows hr y u held hw hh
        have stores : (r = t ∧ t.rowAfter p = false) ∨ (t.rowAfter p = true ∧ t.Drains r) := by
          rw [State.rowAfter_eq_false_iff, State.rowAfter_iff]; exact hr
        have go : exec (.rowact o) s = activate g o.k.toNat o.d ea p r := execRowact_of_place hl hp hroom hpush hrows stores
        -- Each state is kept by its name alone: what it is does not matter from here on.
        have hy : r.senseDue (g / 4) = y := rfl
        clear_value y
        have hu : y.reopened g o.k.toNat = u := rfl
        clear_value u
        refine ⟨fun hb hwait => ?_, fun hb => ?_⟩
        · rw [go, activate_of_held o.d ea p hy hu hw hh hb]; exact traps_trap _ _ _ hwait
        · intro w
          have hc : u.cleared g o.k.toNat = w := rfl
          clear_value w
          rw [go, activate_of_not_held o.d ea p hy hu hw hh hc hb]; exact finish_await _ _
      · rw [exec_rowtake, taken hs]; exact finish_self _
      · rw [exec_rowtake, early hs]; exact traps_trap _ _ _ hw
      · rw [exec_rowtake, expired hs]; exact traps_trap _ _ _ hw
      · rw [exec_rowtake, free hs]; exact traps_trap _ _ _ hw
      · rw [exec_rowclose, execRowclose_of_free k hl hf]; exact finish_self _
      · rw [exec_rowclose, execRowclose_of_used k hl hf rfl hw hr]; exact finish_self _
    case query =>
      obtain ⟨told, eq, unsensed⟩ := execRowq_eq (s := s) d k rfl
      refine ⟨w64 (x.readyWord z.tick told), w64 (x.rowWord z.tick), ?_, ?_, fun hs => ?_, fun hs => ?_, fun hf he hn => ?_,
        fun hf => ⟨x.rowWord_row _ hf, x.rowWord_poison _ hf⟩⟩
      · rw [exec_rowq, eq]; exact finish_defer _ _
      · rw [x.rowWord_code z.tick]
        simp only [st]
        cases x.at z.tick <;> rfl
      · rw [x.readyWord_of_closed _ _ hs]; rfl
      · rw [x.rowWord_of_free _ hs]; rfl
      · rw [x.readyWord_of_open _ _ hf he, unsensed hn]; rfl
  case units =>
    intro i j x v b y u w z
    refine ⟨fun hi hj => ?slots, fun hi hj => ?banks⟩
    case slots =>
      refine ⟨fun hw => ⟨execActivationSense_of_want hi hj hw, rfl⟩, fun a w hw => ?sense, execRowReady_of_ready hi hj,
        execRowExpiry_of_due hi hj rfl, execLatchValid_of_taken hi hj⟩
      case sense =>
        intro t o
        have latched : t = x.sensedIn o a (o.sensedCells x.row).1 := s.senseAt_slot hw
        rw [latched]
        exact ⟨rfl, rfl, rfl, fun older => o.sensedCells_of_older x.row older, rfl⟩
    case banks =>
      refine ⟨⟨execBankRelease_eq hi hj, (Unmoved.settleBank s i j).mem, (Kept.settleBank s i j).harts,
        fun _ hr => s.settleBank_closing i j hr⟩, execPrechargeEnd_of_release hi hj rfl, fun hd => ?refresh,
        execRefreshBlackoutEnd_eq hi hj⟩
      case refresh =>
        obtain ⟨late, hlate, pending, runs⟩ := execRefreshDue_of_due hi hj rfl rfl hd
        refine ⟨fun wait => ⟨late, hlate, pending wait⟩, fun go => ?_⟩
        have early : late = false := Bool.eq_false_iff.2 fun h => go (.inl (hlate.1 h))
        exact early ▸ runs go

end Sys2Proof.Machine
end

section
/-! Accesses of peers at a scratchpad (spec/06 R123 to R126, spec/02 R43 to R45, spec/17 R319): what the write of a peer's copy
engine does at one core, and what one that crosses into the locations of the next does. -/

namespace Sys2Proof.Machine

/-! ## A write at one core -/

/-- An access that stays within a block of 2^17 locations stays at one core (R12). -/
theorem padCore_add {a k : Nat} (ha : Config.spadKey ≤ a) (hk : a % 2 ^ 17 + k < 2 ^ 17) : padCore (a + k) = padCore a := by
  have block : (a + k - Config.spadKey) / 2 ^ 17 = (a - Config.spadKey) / 2 ^ 17 := by
    simp only [Config.spadKey] at ha ⊢; omega
  simp only [padCore, coreOfBits]; omega

theorem isSpad_add {a k : Nat} (ha : isSpad a = true) (hk : a % 2 ^ 17 + k < 2 ^ 17) : isSpad (a + k) = true := by
  simp only [isSpad, Config.spadKey, Config.sideKey, Bool.and_eq_true, decide_eq_true_eq] at ha ⊢
  omega

/-- Each byte of an access to sound words at one core lies in a sound word (R379). -/
theorem State.eccBad_byte {s : State} {a n k : Nat} (ha : isSpad a = true) (hin : a % 2 ^ 17 + n ≤ 2 ^ 17) (hk : k < n)
    (sound : s.eccBad a n = false) : s.eccBad (a + k) 1 = false := by
  have low : Config.spadKey ≤ a := by
    simp only [isSpad, Bool.and_eq_true, decide_eq_true_eq] at ha; exact ha.1
  have same : coreOfBits (a + k - Config.spadKey) = coreOfBits (a - Config.spadKey) := padCore_add low (by omega)
  simp only [State.eccBad, ha, isSpad_add ha (by omega : a % 2 ^ 17 + k < 2 ^ 17), same, if_true, List.any_eq_false,
    Bool.and_eq_true, decide_eq_true_eq, not_and, Nat.not_le] at sound ⊢
  intro w hw first
  have outside := sound w hw
  omega

/-- Words that are sound stay so as they are stored anew. -/
theorem State.renew_eccBad {s : State} {a n : Nat} (ha : isSpad a = true) (sound : s.eccBad a n = false) :
    (s.renew a n).eccBad a n = false := by
  simp only [State.eccBad, State.renew, ha, if_true, State.core_modCore_self, List.any_eq_false] at sound ⊢
  exact fun w hw => sound w (List.mem_filter.1 hw).1

/-- The state with other cores, another count of corrected words and other waiting accesses of peers. -/
def State.atPads (s : State) (cs : Tab Core) (k : BitVec 32) (ps : List PeerReq) : State :=
  { s with cores := cs, mccorr := k, peerPend := ps }

section
variable (s : State) (cs : Tab Core) (k : BitVec 32) (ps : List PeerReq)

theorem State.atPads_rekey (q : Option (BitVec 512)) (a : Nat) :
    (s.atPads cs k ps).rekey q a = (s.rekey q a).atPads cs k ps := by
  unfold State.rekey
  rw [apply_ite (fun t : State => t.atPads cs k ps)]
  rfl

theorem State.atPads_shadowWrite (a : Nat) : (s.atPads cs k ps).shadowWrite a = (s.shadowWrite a).atPads cs k ps := by
  unfold State.shadowWrite
  rw [apply_ite (fun t : State => t.atPads cs k ps)]
  rfl

theorem State.atPads_writeByte (a : Nat) (v : Byte) :
    (s.atPads cs k ps).writeByte none a v = (s.writeByte none a v).atPads cs k ps := by
  simp only [State.writeByte, State.atPads_rekey, State.atPads_shadowWrite]
  rfl

end

/-- What a write does to memory depends on none of them, and changes none of them. -/
theorem State.atPads_writeBytes (cs : Tab Core) (k : BitVec 32) (ps : List PeerReq) (bs : List Byte) : ∀ (s : State) (a : Nat),
    (s.atPads cs k ps).writeBytes none a bs = (s.writeBytes none a bs).atPads cs k ps := by
  induction bs with
  | nil => exact fun _ _ => rfl
  | cons b bs ih => exact fun s a => by rw [State.writeBytes, State.atPads_writeByte, ih, State.writeBytes]

/-- The state once request `i` of those of peers has given up its place. -/
def State.dropPeer (s : State) (i : Nat) : State := s.atPads s.cores s.mccorr (s.peerPend.eraseIdx i)

/-- It is the turn of request `i` at its banks, where it asks in class 5 (R43 to R45). -/
def State.peerTurn (s : State) (i : Nat) (r : PeerReq) : Bool :=
  s.padTurn (· == .peer i) ((s.ask (padCore r.key) (spadWords (r.key % 2 ^ 17) r.n) r.data.isNone 5).kept r.pad)

/-- A write that meets sound words alone, in its turn: its place is given up, the banks serve it, and it is answered. -/
theorem State.peerServe_of_sound {s : State} {i : Nat} {r : PeerReq} {bs : List Byte} (hd : r.data = some bs)
    (turn : s.peerTurn i r = true) (sound : ∀ k < r.n, ((s.dropPeer i).renew r.key r.n).eccBad (r.key + k) 1 = false) :
    s.peerServe i r = (((s.dropPeer i).padServed r.key r.n).writeBytes none r.key bs).answer .done := by
  have allSound : ((List.range r.n).filter fun k => ((s.dropPeer i).renew r.key r.n).eccBad (r.key + k) 1) = [] :=
    List.filter_eq_nil_iff.2 fun k hk => Bool.eq_false_iff.1 (sound k (List.mem_range.1 hk))
  simp only [State.dropPeer, State.atPads] at allSound
  simp only [State.peerTurn, hd] at turn
  simp only [State.peerServe, hd, turn, allSound, Option.isSome_some, Bool.not_true, Bool.false_eq_true, bne_self_eq_false,
    if_true, if_false]
  rfl

/-- R43 to R45, R319: in its turn a peer's write to sound words at one core leaves its place, is answered, and changes no more of
memory than a write of its bytes does. -/
theorem State.peerServe_write {s : State} {i : Nat} {r : PeerReq} {bs : List Byte} (hd : r.data = some bs)
    (ha : isSpad r.key = true) (hin : r.key % 2 ^ 17 + r.n ≤ 2 ^ 17) (sound : s.eccBad r.key r.n = false)
    (turn : s.peerTurn i r = true) :
    (s.peerServe i r).peerPend = s.peerPend.eraseIdx i ∧ (s.peerServe i r).answers = s.answers ++ [.done] ∧
      (s.peerServe i r).mem = (s.writeBytes none r.key bs).mem := by
  have left : (s.dropPeer i).eccBad r.key r.n = false := sound
  have served : s.peerServe i r = (((s.dropPeer i).padServed r.key r.n).writeBytes none r.key bs).answer .done :=
    State.peerServe_of_sound hd turn fun k hk => State.eccBad_byte ha hin hk (State.renew_eccBad ha left)
  obtain ⟨cs, m, pads⟩ := (s.dropPeer i).padServed_eq r.n ha
  have frame := State.writeBytes_frame bs s none r.key
  have written : s.peerServe i r = ((s.writeBytes none r.key bs).atPads cs m (s.peerPend.eraseIdx i)).answer .done := by
    rw [served, pads, ← State.atPads_writeBytes]
    rfl
  rw [written]
  exact ⟨rfl, congrArg (· ++ [Answer.done]) (congrArg State.answers frame :), rfl⟩

/-! ## A write that crosses into the next core -/

/-- R43 to R45: a waiting access of a peer is served in its turn, or waits on. -/
theorem execRemoteAccess_of_peer {s : State} {r : PeerReq} (hok : s.ev.ok = true) (hw : s.ev.w = 0)
    (hr : s.peerPend[s.ev.i]? = some r) : execRemoteAccess s = .next (s.peerServe s.ev.i r) := by
  simp [execRemoteAccess, hok, hw, hr]

/-- A peer's write of two zero bytes, the one at the last location of core 0 and the other at the first of core 1. -/
def crossingWrite : PeerReq := { key := Config.spadKey + 0x1FFFF, data := some [0, 0], n := 2 }

/-- It waits, the first word of core 1's scratchpad is uncorrectable, and the machine-check queue is at 0x200000. -/
def crossing : State :=
  { State.reset with
    ev := { ok := true }, boot := { full := true, step := 4 }, mcqcfg := 0x200001, peerPend := [crossingWrite],
    cores := [(1, { badWords := [0] })] }

/-- The words that the statement asks about are those of core 0 alone: they are sound. -/
theorem crossing_sound : crossing.eccBad crossingWrite.key crossingWrite.n = false := by decide

theorem crossing_turn : crossing.peerTurn 0 crossingWrite = true := by decide +kernel

/-- R378, R379: the byte in core 1's word is reported, with a record of kind 3 in the machine-check queue. -/
theorem crossing_record : Mem.get (crossing.peerServe 0 crossingWrite).mem 0x200007 = 3 := by decide +kernel

/-- The write alone leaves the queue's place as it was. -/
theorem crossing_writeOnly : Mem.get (crossing.writeBytes none crossingWrite.key [0, 0]).mem 0x200007 = 0 := by decide +kernel

/-- Refutes O50: the clause on a peer's write takes every request, also one whose bytes run from the locations of one core into
those of the next, and asks for sound words at the first core alone. An uncorrectable word at the second is reported, so that
memory differs by a record from what the write alone would leave. (`State.peerAsks` lets no such request in; of one at a single
core the clause holds, by `State.peerServe_write`.) -/
theorem not_storeStepsComplete : ¬ Obligations.StoreStepsComplete := by
  unfold Obligations.StoreStepsComplete
  intro holds
  obtain ⟨-, -, -, -, -, peer, -, -⟩ := holds crossing default
  obtain ⟨t, step, -, write⟩ := (peer crossingWrite rfl rfl rfl).2 crossing_turn
  obtain ⟨-, mem⟩ := write [0, 0] rfl crossing_sound
  have served : exec .remoteAccess crossing = .next (crossing.peerServe 0 crossingWrite) :=
    execRemoteAccess_of_peer rfl rfl rfl
  have ht : t = crossing.peerServe 0 crossingWrite := (Host.Outcome.next.inj (served.symm.trans step)).symm
  have record : (3 : Byte) = 0 := crossing_record.symm.trans ((ht ▸ mem 0x200007).trans crossing_writeOnly)
  exact absurd record (by decide)

end Sys2Proof.Machine
end

section
/-! Scalar arithmetic (spec/09 R192 to R200): how an instruction with one result completes, what the functions of division and of
fields give, and the address of SELF. -/

namespace Sys2Proof.Machine

/-! ## One result of two operands (R179, R180) -/

theorem aluFixed_forwards (f : Word → Word → Word) (o : Alu) (s : State) :
    Forwards (aluFixed f o s) s o.d (f (s.xy o).1 (s.xy o).2) := finish_fixed s o.d _

theorem aluDefer_completes (f : Word → Word → Word) (o : Alu) (s : State) :
    Completes (aluDefer f o s) s [.scalar o.d.toNat (f (s.xy o).1 (s.xy o).2)] := finish_defer s _

/-- An instruction forwards one value only. -/
theorem Forwards.unique {o : Out} {s : State} {d : RegNo} {v w : Word} (hv : Forwards o s d v) (hw : Forwards o s d w) : v = w := by
  obtain ⟨t, rfl, -, rfl⟩ := hv
  obtain ⟨u, h, -, rfl⟩ := hw
  cases h
  rfl

/-! ## Division (R194) -/

theorem divS_zero (x : Word) : divS x 0 = BitVec.allOnes 64 := rfl
theorem divU_zero (x : Word) : divU x 0 = BitVec.allOnes 64 := rfl
theorem remS_zero (x : Word) : remS x 0 = x := rfl
theorem remU_zero (x : Word) : remU x 0 = x := rfl

section
variable {x y : Word} (hy : y ≠ 0)
include hy

theorem divS_eq_sdiv : divS x y = x.sdiv y := by
  rw [divS, if_neg (by simpa using hy)]
  exact BitVec.eq_of_toInt_eq (by rw [BitVec.toInt_sdiv, BitVec.toInt_ofInt])

theorem remS_eq_srem : remS x y = x.srem y := by
  rw [remS, if_neg (by simpa using hy), ← BitVec.toInt_srem, BitVec.ofInt_toInt]

theorem divU_toNat : (divU x y).toNat = x.toNat / y.toNat := by
  rw [divU, if_neg (by simpa using hy), w64, BitVec.toNat_ofNat]
  exact Nat.mod_eq_of_lt (Nat.lt_of_le_of_lt (Nat.div_le_self _ _) x.isLt)

theorem remU_toNat : (remU x y).toNat = x.toNat % y.toNat := by
  rw [remU, if_neg (by simpa using hy), w64, BitVec.toNat_ofNat]
  exact Nat.mod_eq_of_lt (Nat.lt_of_le_of_lt (Nat.mod_le _ _) x.isLt)

/-- Unsigned quotient and remainder make up the dividend. -/
theorem divU_mul_add_remU : x.toNat = (divU x y).toNat * y.toNat + (remU x y).toNat ∧ (remU x y).toNat < y.toNat := by
  have pos : 0 < y.toNat := Nat.pos_of_ne_zero fun h => hy (BitVec.eq_of_toNat_eq h)
  rw [divU_toNat hy, remU_toNat hy]
  exact ⟨(Nat.div_add_mod' _ _).symm, Nat.mod_lt _ pos⟩

/-- The remainder is smaller than the divisor and has the sign of the dividend. -/
theorem remS_bounds : (remS x y).toInt.natAbs < y.toInt.natAbs ∧ (0 ≤ x.toInt → 0 ≤ (remS x y).toInt) ∧
    (x.toInt < 0 → (remS x y).toInt ≤ 0) := by
  have pos : 0 < y.toInt.natAbs := Int.natAbs_pos.2 fun h => hy (BitVec.eq_of_toInt_eq h)
  rw [remS_eq_srem hy, BitVec.toInt_srem, Int.natAbs_tmod]
  refine ⟨Nat.mod_lt _ pos, Int.tmod_nonneg _, fun hx => ?_⟩
  have neg := Int.tmod_nonneg y.toInt (show 0 ≤ -x.toInt by omega)
  rw [Int.neg_tmod] at neg
  omega

/-- Signed quotient and remainder make up the dividend, where the quotient does not overflow. -/
theorem divS_mul_add_remS (h : ¬ (x.toInt = -2 ^ 63 ∧ y.toInt = -1)) :
    x.toInt = (divS x y).toInt * y.toInt + (remS x y).toInt := by
  have fits : x ≠ BitVec.intMin 64 ∨ y ≠ -1#64 := by
    rw [← Decidable.not_and_iff_not_or_not]
    rintro ⟨rfl, rfl⟩
    exact h ⟨rfl, rfl⟩
  rw [divS_eq_sdiv hy, remS_eq_srem hy, BitVec.toInt_sdiv_of_ne_or_ne x y fits, BitVec.toInt_srem]
  exact (Int.tdiv_mul_add_tmod _ _).symm

end

/-- The most negative number by −1 wraps. -/
theorem divS_overflow {x y : Word} (hx : x.toInt = -2 ^ 63) (hy : y.toInt = -1) : divS x y = x ∧ remS x y = 0 := by
  obtain rfl : x = BitVec.intMin 64 := BitVec.eq_of_toInt_eq hx
  obtain rfl : y = -1#64 := BitVec.eq_of_toInt_eq hy
  decide

/-- Settles O5: the four functions of the model give the values, and an instruction that defers one result completes with it. -/
theorem divisionCompletes : Obligations.DivisionCompletes := by
  unfold Obligations.DivisionCompletes
  intro o s x y
  refine ⟨divS x y, remS x y, divU x y, remU x y, aluDefer_completes divS o s, aluDefer_completes remS o s,
    aluDefer_completes divU o s, aluDefer_completes remU o s, fun hy => ?_, divS_overflow, fun hy fits => ?_, divU_mul_add_remU⟩
  · rw [hy]
    exact ⟨divS_zero x, divU_zero x, remS_zero x, remU_zero x⟩
  · exact ⟨divS_mul_add_remS hy fits, remS_bounds hy⟩

/-! ## Fields (R196) -/

theorem w64_getLsbD (n i : Nat) (hi : i < 64) : (w64 n).getLsbD i = n.testBit i := by
  rw [w64, BitVec.getLsbD_ofNat, decide_eq_true hi, Bool.true_and]

theorem zextTo_getLsbD (x y : Word) (i : Nat) :
    (zextTo x y).getLsbD i = (decide (i ≤ y.toNat % 64) && x.getLsbD i) := by
  have hb : y.toNat % 64 < 64 := Nat.mod_lt _ (by decide)
  rw [zextTo, w64, BitVec.getLsbD_ofNat, Nat.testBit_mod_two_pow, BitVec.testBit_toNat, sh]
  by_cases hi : i ≤ y.toNat % 64
  · rw [decide_eq_true (show i < 64 by omega), decide_eq_true (Nat.lt_succ_of_le hi), decide_eq_true hi, Bool.true_and]
  · rw [decide_eq_false (show ¬ i < y.toNat % 64 + 1 by omega), decide_eq_false hi, Bool.false_and, Bool.and_false]

/-- A number whose sign is bit `b`, extended to 64 bits: the bits above `b` are ones. -/
theorem signFilled_testBit {v b i : Nat} (hv : v < 2 ^ (b + 1)) (hb : b < 64) (hi : i < 64) :
    (2 ^ 64 - 2 ^ (b + 1) + v).testBit i = if i ≤ b then v.testBit i else true := by
  have split : 2 ^ 64 - 2 ^ (b + 1) + v = 2 ^ (b + 1) * (2 ^ (63 - b) - 1) + v := by
    rw [Nat.mul_sub_one, ← Nat.pow_add, show b + 1 + (63 - b) = 64 by omega]
  rw [split, Nat.testBit_two_pow_mul_add _ hv, Nat.testBit_two_pow_sub_one]
  by_cases h : i ≤ b
  · simp [h, Nat.lt_succ_of_le h]
  · simp [h, show ¬ i < b + 1 by omega, show i - (b + 1) < 63 - b by omega]

theorem sextTo_getLsbD (x y : Word) {i : Nat} (hi : i < 64) :
    (sextTo x y).getLsbD i = x.getLsbD (min i (y.toNat % 64)) := by
  have hb : y.toNat % 64 < 64 := Nat.mod_lt _ (by decide)
  have kept : ∀ j, (x.toNat % 2 ^ (sh y + 1)).testBit j = (decide (j ≤ y.toNat % 64) && x.getLsbD j) := fun j => by
    rw [Nat.testBit_mod_two_pow, BitVec.testBit_toNat, sh, decide_eq_decide.2 Nat.lt_succ_iff]
  have sign : (x.toNat % 2 ^ (sh y + 1)).testBit (sh y) = x.getLsbD (y.toNat % 64) := (kept _).trans (by simp [sh])
  simp only [sextTo, sign]
  split
  · next neg =>
    rw [w64_getLsbD _ _ hi, signFilled_testBit (Nat.mod_lt _ (Nat.two_pow_pos _)) (by simpa [sh] using hb) hi, kept, sh]
    split
    · next h => simp [h]
    · next h => rw [Nat.min_eq_right (by omega), neg]
  · next pos =>
    rw [w64_getLsbD _ _ hi, kept]
    by_cases h : i ≤ y.toNat % 64
    · simp [h]
    · simp [h, Nat.min_eq_right (Nat.le_of_not_le h), pos]

theorem fieldMask_getLsbD (y : Word) (i : Nat) : (fieldMask y).getLsbD i = decide (i < y.toNat / 64 % 64 + 1) := by
  have short : y.toNat / 64 % 64 < 64 := Nat.mod_lt _ (by decide)
  rw [fieldMask, w64, BitVec.getLsbD_ofNat, Nat.testBit_two_pow_sub_one, ← Bool.decide_and, decide_eq_decide, fld]
  omega

theorem bfx_getLsbD (x y : Word) (i : Nat) :
    (bfx x y).getLsbD i = (decide (i < y.toNat / 64 % 64 + 1) && x.getLsbD (y.toNat % 64 + i)) := by
  rw [bfx, BitVec.getLsbD_and, BitVec.getLsbD_ushiftRight, fieldMask_getLsbD, Bool.and_comm]
  simp [fld]

theorem bfi_getLsbD (d x y : Word) {i : Nat} (hi : i < 64) :
    (bfi d x y).getLsbD i = if y.toNat % 64 ≤ i ∧ i < y.toNat % 64 + (y.toNat / 64 % 64 + 1)
      then x.getLsbD (i - y.toNat % 64) else d.getLsbD i := by
  have place : fld y 0 6 = y.toNat % 64 := by simp [fld]
  simp only [bfi, place, BitVec.getLsbD_or, BitVec.getLsbD_and, BitVec.getLsbD_not, BitVec.getLsbD_shiftLeft, fieldMask_getLsbD, hi,
    decide_true, Bool.true_and]
  generalize y.toNat % 64 = pos
  generalize y.toNat / 64 % 64 + 1 = len
  by_cases below : i < pos
  · simp [below, show ¬ pos ≤ i by omega]
  · by_cases inside : i < pos + len
    · simp [below, inside, show pos ≤ i by omega, show i - pos < len by omega]
    · simp [below, inside, show ¬ i - pos < len by omega]

/-! ## Coordinates (R199, R200) -/

theorem offsetMask_getLsbD (i : Nat) : (0x1FFFF#64).getLsbD i = decide (i < 17) := by
  rw [show 0x1FFFF#64 = BitVec.ofNat 64 (2 ^ 17 - 1) by rfl, BitVec.getLsbD_ofNat, Nat.testBit_two_pow_sub_one, ← Bool.decide_and,
    decide_eq_decide]
  omega

/-- An address with its offset moved by `y`, the offset wrapping in 17 bits (R199). -/
theorem movedOffset_eq (a : Nat) (x y : Word) (h : a % 2 ^ 17 = x.toNat % 2 ^ 17) :
    w64 (a / 2 ^ 17 * 2 ^ 17 + (a % 2 ^ 17 + y.toNat) % 2 ^ 17) = (w64 a &&& ~~~0x1FFFF#64) ||| ((x + y) &&& 0x1FFFF#64) := by
  have sum : (a % 2 ^ 17 + y.toNat) % 2 ^ 17 = (x + y).toNat % 2 ^ 17 := by
    rw [BitVec.toNat_add, h]; omega
  refine BitVec.eq_of_getLsbD_eq fun i hi => ?_
  rw [w64_getLsbD _ _ hi, Nat.mul_comm, Nat.testBit_two_pow_mul_add _ (Nat.mod_lt _ (by decide)), sum, Nat.testBit_mod_two_pow,
    BitVec.testBit_toNat, BitVec.getLsbD_or, BitVec.getLsbD_and, BitVec.getLsbD_and, BitVec.getLsbD_not, offsetMask_getLsbD,
    w64_getLsbD _ _ hi, Nat.testBit_div_two_pow]
  by_cases low : i < 17
  · simp [low]
  · simp [low, hi, show i - 17 + 17 = i by omega]

theorem fld_top (x : Word) : fld x 56 8 = x.toNat / 2 ^ 56 := Nat.mod_eq_of_lt (by have := x.isLt; omega)

theorem crd_absolute {h : Nat} {x y : Word} (space : x.toNat / 2 ^ 56 = 0xA0) (high : x.toNat / 2 ^ 30 % 2 ^ 26 = 0) :
    crd h x y = (x &&& ~~~0x1FFFF#64) ||| ((x + y) &&& 0x1FFFF#64) := by
  have top : fld x 56 8 = 0xA0 := (fld_top x).trans space
  have region : fld x 30 26 = 0 := high
  have moved := movedOffset_eq x.toNat x y rfl
  rw [show w64 x.toNat = x from (BitVec.ofNat_toNat 64 x).trans (BitVec.setWidth_eq x)] at moved
  exact Eq.trans (by simp [crd, top, region]) moved

theorem crd_relative {h : Nat} {x y : Word} (space : x.toNat / 2 ^ 56 = 0xA1) (high : x.toNat / 2 ^ 30 % 2 ^ 26 = 0) :
    crd h x y = ((0xA000000000000000#64 + BitVec.ofNat 64 (resolveRel h x)) &&& ~~~0x1FFFF#64) |||
      ((x + y) &&& 0x1FFFF#64) := by
  have top : fld x 56 8 = 0xA1 := (fld_top x).trans space
  have region : fld x 30 26 = 0 := high
  have offset : (0xA0 * 2 ^ 56 + resolveRel h x) % 2 ^ 17 = x.toNat % 2 ^ 17 := by
    simp only [resolveRel, fld]; omega
  have moved := movedOffset_eq _ x y offset
  rw [show w64 (0xA0 * 2 ^ 56 + resolveRel h x) = 0xA000000000000000#64 + BitVec.ofNat 64 (resolveRel h x) from
    BitVec.ofNat_add _ _] at moved
  exact Eq.trans (by simp [crd, top, region]) moved

theorem crd_other {h : Nat} {x y : Word}
    (other : ¬ ((x.toNat / 2 ^ 56 = 0xA0 ∨ x.toNat / 2 ^ 56 = 0xA1) ∧ x.toNat / 2 ^ 30 % 2 ^ 26 = 0)) :
    crd h x y = x + y := by
  refine if_neg ?_
  rw [fld_top]
  simpa [fld] using other

/-- Settles O3: each function of the model gives its bits, and an instruction with a fixed-latency result forwards it. -/
theorem fieldAndCoordinateOperationsComplete : Obligations.FieldAndCoordinateOperationsComplete := by
  unfold Obligations.FieldAndCoordinateOperationsComplete
  refine ⟨fun o s => ⟨?_, ?_, ?_, ?_⟩, fun o s => ⟨?_, ?_, ?_⟩⟩
  · exact ⟨_, aluFixed_forwards sextTo o s, fun i hi => sextTo_getLsbD _ _ hi⟩
  · exact ⟨_, aluFixed_forwards zextTo o s, zextTo_getLsbD _ _⟩
  · exact ⟨_, aluFixed_forwards bfx o s, bfx_getLsbD _ _⟩
  · exact ⟨_, aluFixed_forwards (bfi (s.rd o.d)) o s, fun i hi => bfi_getLsbD _ _ _ hi⟩
  · rintro ⟨space, high⟩
    exact crd_absolute (h := s.cx.hart) space high ▸ aluFixed_forwards (crd s.cx.hart) o s
  · rintro ⟨space, high⟩
    exact crd_relative (h := s.cx.hart) space high ▸ aluFixed_forwards (crd s.cx.hart) o s
  · intro other
    exact crd_other (h := s.cx.hart) other ▸ aluFixed_forwards (crd s.cx.hart) o s

/-! ## SELF of a hart that no package has -/

theorem execSelf_forwards (d a : RegNo) (v : Word) (s : State) :
    Forwards (execSelf ⟨d, a, some v⟩ s) s d (selfAddr s.cx.hart (s.rd a) v) := finish_fixed s d _

/-- The state after reset, with SELF executed as hart 32768: the first number beyond those of the package's harts. -/
def pastLastHart : State := { State.reset with cx := { hart := Config.nHarts } }

/-- Refutes O2: in the clause on SELF the hart is any number, and that of its core (8192) reaches bit 30 of the address, which
the model leaves there and the statement, by its mask of COORD, does not. -/
theorem not_unaryFixedCompletes : ¬ Obligations.UnaryFixedCompletes := by
  unfold Obligations.UnaryFixedCompletes
  intro holds
  obtain ⟨-, -, -, -, -, -, self⟩ := holds ⟨0, 0⟩ ⟨0, 0⟩ ⟨1, 2, some 0⟩ pastLastHart
  have address : selfAddr pastLastHart.cx.hart (pastLastHart.rd 2) 0 = _ :=
    (execSelf_forwards 1 2 0 pastLastHart).unique self
  exact absurd address (by decide)

end Sys2Proof.Machine
end

section
/-! Control transfer, trap entry and control registers (spec/09 R201 to R217, spec/21 R364, spec/25 R404): what a settled state
keeps, where each transfer goes, what trap entry saves in each case, and what a CSR instruction does or raises. -/

namespace Sys2Proof.Machine

/-! ## What settling a span leaves alone (R179) -/

section
variable {α : Type} (f : Hart → α)

theorem State.modHart_keeps (g : Hart → Hart) (e : ∀ x, f (g x) = f x) (s : State) (h k : Nat) :
    f ((s.modHart h g).hart k) = f (s.hart k) := by
  by_cases i : k = h
  · rw [i, State.hart_modHart_self, e]
  · rw [State.hart_modHart_ne s g i]

variable (e : ∀ (x : Hart) rs v m ss u p a b,
  f { x with regs := rs, v := v, m := m, streams := ss, u := u, span := p, freshA := a, freshB := b } = f x)
include e

/-- Deferred writes meet only the registers, the streams and FFLAGS of their hart. -/
theorem State.land_keeps (s : State) (h k : Nat) (d : Pend) : f ((State.land h s d).hart k) = f (s.hart k) := by
  cases d with
  | vec r v =>
    simp only [State.land, State.setVec]
    split
    · exact State.modHart_keeps f _ (fun x => e x _ _ _ _ _ _ _ _) s h k
    · split <;> rfl
  | wait => rfl
  | _ => exact State.modHart_keeps f _ (fun x => e x _ _ _ _ _ _ _ _) s h k

theorem State.lands_keeps (ds : List Pend) (h k : Nat) : ∀ s : State, f ((ds.foldl (State.land h) s).hart k) = f (s.hart k) := by
  induction ds with
  | nil => exact fun _ => rfl
  | cons d ds ih => exact fun s => (ih _).trans (s.land_keeps f e h k d)

theorem State.settled_keeps (s : State) : f (s.settled.hart s.cx.hart) = f s.me :=
  (State.modHart_keeps f _ (fun x => e x _ _ _ _ _ _ _ _) _ _ _).trans (State.lands_keeps f e _ _ _ s)

end

@[simp] theorem State.settled_pc (s : State) : (s.settled.hart s.cx.hart).pc = s.me.pc :=
  s.settled_keeps Hart.pc fun _ _ _ _ _ _ _ _ _ => rfl
@[simp] theorem State.settled_mode (s : State) : (s.settled.hart s.cx.hart).mode = s.me.mode :=
  s.settled_keeps Hart.mode fun _ _ _ _ _ _ _ _ _ => rfl

/-! ## Transfers (R201 to R204) -/

@[simp] theorem State.settled_target (s : State) (disp : Word) : s.settled.target disp = s.target disp := by
  simp [State.target, State.basePc]
@[simp] theorem State.settled_nextPc (s : State) : s.settled.nextPc = s.nextPc := by simp [State.nextPc]
@[simp] theorem State.setReg_target (s : State) (d : RegNo) (v disp : Word) : (s.setReg d v).target disp = s.target disp := by
  simp [State.target, State.basePc, State.setReg, Hart.setReg]
@[simp] theorem State.setReg_nextPc (s : State) (d : RegNo) (v : Word) : (s.setReg d v).nextPc = s.nextPc := by
  simp [State.nextPc, State.setReg, Hart.setReg]

section
variable {s : State} (idle : s.me.waiting = false)
include idle

/-- A Form J branch goes to its target where its condition holds of the settled state, and on where not. -/
theorem branch_transfers (disp : Word) (cond : State → Bool) {p : Prop} [Decidable p] (h : cond s.settled = decide p) :
    Transfers (branch cond disp s) s.settled (if p then s.target disp else s.nextPc) := by
  rw [Transfers, branch, serial_eq s _ idle, h]
  by_cases hp : p <;> simp [hp, goto, serialDone]

theorem execJmp_transfers (disp : Word) : Transfers (execJmp disp s) s.settled (s.target disp) := by
  rw [execJmp, serial_eq s _ idle, State.settled_target]
  rfl

theorem execCall_transfers (o : Jump) : Transfers (execCall o s) (s.settled.setReg o.d s.nextPc) (s.target o.disp) := by
  rw [execCall, serial_eq s _ idle, State.settled_target, State.settled_nextPc]
  rfl

theorem execLoop_transfers (o : Jump) :
    Transfers (execLoop o s) (s.settled.setReg o.d (s.settled.committed o.d.toNat - 1))
      (if s.settled.committed o.d.toNat - 1 ≠ 0 then s.target o.disp else s.nextPc) := by
  rw [execLoop, serial_eq s _ idle]
  simp only [State.settled_rd, bne_iff_ne]
  split <;> simp [goto, serialDone, Transfers]

theorem execJr_transfers (o : RR) (even : (s.settled.committed o.a.toNat).getLsbD 0 = false) :
    Transfers (execJr o s) (if o.d = 0 then s.settled else s.settled.setReg o.d s.nextPc) (s.settled.committed o.a.toNat) := by
  rw [execJr, serial_eq s _ idle]
  simp only [State.settled_rd, bit, even, State.settled_nextPc, beq_iff_eq]
  rfl

theorem execJr_traps (o : RR) (odd : (s.settled.committed o.a.toNat).getLsbD 0 = true) :
    Traps (execJr o s) s 0x04 0 (s.settled.committed o.a.toNat) := by
  rw [execJr, serial_eq s _ idle]
  simp only [State.settled_rd, bit, odd]
  exact traps_settled s _ _

end

theorem slt_zero (c : Word) : c.slt 0 = decide (c.toInt < 0) := rfl
theorem zero_slt (c : Word) : (0 : Word).slt c = decide (0 < c.toInt) := rfl

/-- Settles O7: each branch by the condition that it tests of the settled state, and CALL, LOOP and JR by their own lemmas. -/
theorem transfersComplete : Obligations.TransfersComplete := by
  unfold Obligations.TransfersComplete
  refine ⟨fun disp s idle => ?_, fun o r s idle => ?_⟩
  · intro u c m taken next
    rw [exec_bz, exec_bnz, exec_bn, exec_bnn, exec_bp, exec_bnp, exec_bbs, exec_bbc, exec_bmany, exec_bmnone, exec_bal]
    have c0 : u.c0 = c := s.settled_rd 0
    exact ⟨branch_transfers (p := c = 0) idle disp _ (by rw [c0]; rfl),
      branch_transfers (p := c ≠ 0) idle disp _ (by rw [c0]; exact decide_not.symm),
      branch_transfers (p := c.toInt < 0) idle disp _ (by rw [c0]; rfl),
      branch_transfers (p := 0 ≤ c.toInt) idle disp _ (by rw [c0, slt_zero, ← decide_not, decide_eq_decide, Int.not_lt]),
      branch_transfers (p := 0 < c.toInt) idle disp _ (by rw [c0]; rfl),
      branch_transfers (p := c.toInt ≤ 0) idle disp _ (by rw [c0, zero_slt, ← decide_not, decide_eq_decide, Int.not_lt]),
      branch_transfers (p := c.getLsbD 0 = true) idle disp _ (by rw [c0, bit, Bool.decide_eq_true]),
      branch_transfers (p := c.getLsbD 0 = false) idle disp _ (by rw [c0, bit, Bool.decide_eq_false]),
      branch_transfers (p := m ≠ 0) idle disp _ decide_not.symm,
      branch_transfers (p := m = 0) idle disp _ rfl, branch_transfers (p := True) idle disp _ rfl⟩
  · exact ⟨execJmp_transfers idle o.disp, execCall_transfers idle o, execLoop_transfers idle o,
      execJr_transfers idle r, execJr_traps idle r⟩

/-! ## Trap entry (R212, R216, R364, R404) -/

theorem causeWord_eq (code len cause : Nat) (b : Bool) : causeWord code len b cause =
    BitVec.ofNat 64 (cause + 256 * (if b = true then 1 else 0) + 512 * (len % 8) + 2 ^ 32 * (code % 2 ^ 16)) := by
  refine congrArg w64 ?_
  cases b <;> simp only [b2n] <;> omega

/-- A trap of cause `cause` goes to the user handler of a hart (R214, R216). -/
def Hart.delegates (x : Hart) (cause : Nat) : Bool :=
  x.mode == .user && x.t.tdeleg.getLsbD cause && x.t.utvec.getLsbD 0 && !x.t.utrap

theorem Hart.delegates_iff (x : Hart) (cause : Nat) : x.delegates cause = true ↔
    x.mode = .user ∧ x.t.tdeleg.getLsbD cause = true ∧ x.t.utvec.getLsbD 0 = true ∧ x.t.utrap = false := by
  simp [Hart.delegates, and_assoc]

/-- A hart whose user handler takes the trap with cause word `w`. -/
def Hart.userTrap (x : Hart) (w addr : Word) : Hart :=
  { x with
    t := { x.t with uepc := x.pc, utcause := w, utaddr := addr, utrap := true }
    pc := x.t.utvec &&& ~~~1#64, span := {}, hold := none, waited := 0, done := [], todo := [] }

/-- A hart whose kernel handler takes it. -/
def Hart.kernelTrap (x : Hart) (w addr : Word) : Hart :=
  { x with
    t := { x.t with tepc := x.pc, tcause := w, taddr := addr, pmode := x.mode, pie := x.t.ie, ie := false, intrap := true }
    mode := .kernel, pc := x.t.tvec &&& ~~~1#64, span := {}, hold := none, waited := 0, done := [], todo := [] }

/-- A monitor hart whose handler takes it. -/
def Hart.monitorTrap (x : Hart) (w addr : Word) : Hart :=
  { x with
    mon := { x.mon with busy := true, rmode := .monitor, pc := x.pc, cause := w, addr := addr }
    pc := x.mon.vec &&& ~~~1#64, span := {}, hold := none, waited := 0, done := [], todo := [] }

/-- The three places that a trap can be taken at, and the double trap (R216, R364, R404). -/
theorem State.trapEnter_eq (s : State) (h len cause code : Nat) (addr : Word) :
    let x := s.hart h; let w := causeWord code len x.h.running cause
    let double := (s.stop h).machineCheck 1 cause h addr x.pc
    s.trapEnter h len cause code addr =
      if x.mode = .monitor then if x.mon.busy = true then double else s.setHart h (x.monitorTrap w addr)
      else if x.delegates cause = true then s.setHart h (x.userTrap w addr)
      else if x.t.intrap = true then double else s.setHart h (x.kernelTrap w addr) := by
  intro x w double
  unfold State.trapEnter
  dsimp only
  split
  · next monitor => exact (if_pos monitor).symm
  · next other => exact (if_neg other).symm

section
variable {s : State} {h cause : Nat} (len code : Nat) (addr : Word)

theorem State.trapEnter_user (delegated : (s.hart h).delegates cause = true) : s.trapEnter h len cause code addr =
    s.setHart h ((s.hart h).userTrap (causeWord code len (s.hart h).h.running cause) addr) := by
  have user : (s.hart h).mode ≠ .monitor := by simp [((s.hart h).delegates_iff cause).1 delegated]
  rw [State.trapEnter_eq, if_neg user, if_pos delegated]

theorem State.trapEnter_kernel (delegated : ¬ (s.hart h).delegates cause = true) (mode : (s.hart h).mode ≠ .monitor)
    (outside : (s.hart h).t.intrap = false) : s.trapEnter h len cause code addr =
    s.setHart h ((s.hart h).kernelTrap (causeWord code len (s.hart h).h.running cause) addr) := by
  rw [State.trapEnter_eq, if_neg mode, if_neg delegated, if_neg (by simp [outside])]

theorem State.trapEnter_monitor (mode : (s.hart h).mode = .monitor) (outside : (s.hart h).mon.busy = false) :
    s.trapEnter h len cause code addr =
      s.setHart h ((s.hart h).monitorTrap (causeWord code len (s.hart h).h.running cause) addr) := by
  rw [State.trapEnter_eq, if_pos mode, if_neg (by simp [outside])]

theorem State.trapEnter_double (inside : ((s.hart h).mode = .monitor ∧ (s.hart h).mon.busy = true) ∨
      ((s.hart h).mode ≠ .monitor ∧ (s.hart h).t.intrap = true ∧ ¬ (s.hart h).delegates cause = true)) :
    s.trapEnter h len cause code addr = (s.stop h).machineCheck 1 cause h addr (s.hart h).pc := by
  rw [State.trapEnter_eq]
  rcases inside with ⟨mode, busy⟩ | ⟨mode, intrap, delegated⟩
  · rw [if_pos mode, if_pos busy]
  · rw [if_neg mode, if_neg delegated, if_pos intrap]

end

/-- Settles O10: each of the four cases of trap entry by its own lemma. -/
theorem trapEntrySaves : Obligations.TrapEntrySaves := by
  unfold Obligations.TrapEntrySaves
  simp only [← Hart.delegates_iff, ← causeWord_eq]
  refine ⟨fun s h len cause code addr => ⟨?_, ?_, ?_⟩, fun s h len cause code addr mode outside => ?_,
    fun s h len cause code addr inside => ?_⟩
  · intro handled
    by_cases delegated : (s.hart h).delegates cause = true
    · rw [State.trapEnter_user len code addr delegated, State.hart_setHart_self]
      exact ⟨rfl, fun k other => State.hart_setHart_ne s _ other, rfl⟩
    · obtain ⟨mode, outside⟩ := handled.resolve_left delegated
      rw [State.trapEnter_kernel len code addr delegated mode outside, State.hart_setHart_self]
      exact ⟨rfl, fun k other => State.hart_setHart_ne s _ other, rfl⟩
  · intro delegated
    rw [State.trapEnter_user len code addr delegated, State.hart_setHart_self]
    exact ⟨((Hart.delegates_iff _ _).1 delegated).1, rfl, rfl⟩
  · intro delegated mode outside
    rw [State.trapEnter_kernel len code addr delegated mode outside, State.hart_setHart_self]
    exact ⟨rfl, rfl, rfl⟩
  · rw [State.trapEnter_monitor len code addr mode outside, State.hart_setHart_self]
    exact ⟨rfl, fun k other => State.hart_setHart_ne s _ other, rfl⟩
  · rw [State.trapEnter_double len code addr inside]
    exact ⟨rfl, (Kept.machineCheck _ _ _ _ _ _).harts⟩

/-! ## Control registers (R205 to R207) -/

section
variable {s : State} {n : Nat} (k : State → Out) (idle : s.me.waiting = false)
include idle

theorem csrGate_of_reserved (reserved : 0xC00 ≤ n) : csrGate n s k = illegal s.settled := by
  rw [csrGate, serial_eq s _ idle, if_pos reserved]

theorem csrGate_of_privileged (valid : n < 0xC00) (above : modeCode s.me.mode < n / 0x400) :
    csrGate n s k = trap Cause.privilege (w64 n) s.settled := by
  rw [csrGate, serial_eq s _ idle, if_neg (Nat.not_le.2 valid), State.settled_me, State.settled_mode, if_pos above]

theorem csrGate_of_open (valid : n < 0xC00) (mode : n / 0x400 ≤ modeCode s.me.mode) : csrGate n s k = k s.settled := by
  rw [csrGate, serial_eq s _ idle, if_neg (Nat.not_le.2 valid), State.settled_me, State.settled_mode,
    if_neg (Nat.not_lt.2 mode)]

end

/-- The write of a CSR changes no pc: issue keeps it. -/
theorem csrSet_pc {x y : Hart} {n : Nat} {v : Word} (h : csrSet x n v = some y) : y.pc = x.pc := by
  unfold csrSet at h
  split at h
  all_goals cases h
  all_goals rfl

/-- Whether a CSR can be written does not depend on the value. -/
theorem csrSet_none {x : Hart} {n : Nat} {v : Word} (w : Word) (h : csrSet x n v = none) : csrSet x n w = none := by
  unfold csrSet at h ⊢
  split at h
  all_goals cases h
  rfl

/-- TICK, COORD, HARTID and MBPEND are read-only (R208). -/
theorem csrSet_readOnly (x : Hart) {n : Nat} (h : n ∈ [0x000, 0x001, 0x002, 0x021]) : csrSet x n 0 = none := by
  simp only [List.mem_cons, List.not_mem_nil, or_false] at h
  rcases h with rfl | rfl | rfl | rfl <;> rfl

section
variable {s : State} {o : CsrOp} {v : Word} (idle : s.me.waiting = false) (valid : o.csr.toNat < 0xC00)
  (mode : o.csr.toNat / 0x400 ≤ modeCode s.me.mode) (value : csrValue s.settled s.cx.hart o.csr.toNat = some v)
include idle valid mode value

theorem execCsrr_transfers : Transfers (execCsrr o s) (s.settled.setReg o.d v) s.nextPc := by
  rw [execCsrr, csrGate_of_open _ idle valid mode, State.settled_cx, value]
  simp [Transfers, serialDone, goto]

theorem csrWriteWith_transfers (k : CsrKind) {x : Hart}
    (set : csrSet s.settled.me o.csr.toNat (csrNew k v (s.settled.committed o.d.toNat)) = some x) :
    Transfers (csrWriteWith k o s) (s.settled.setHart s.cx.hart x) s.nextPc := by
  have pc : (s.settled.setHart s.cx.hart x).nextPc = s.nextPc := by
    simp [State.nextPc, State.me, csrSet_pc set]
  rw [csrWriteWith, csrGate_of_open _ idle valid mode, State.settled_cx, value, State.settled_rd]
  simp only [Option.getD_some, set, serialDone, goto, pc, Transfers]

end

/-- A CSR instruction is past its gate illegal where the CSR cannot be written, and, of CSRR, has no value (R206). -/
theorem exec_csr_gate {f : CsrOp → Instr} (hf : f ∈ [Instr.csrr, .csrw, .csrs, .csrc]) (o : CsrOp) (s : State) :
    ∃ k, exec (f o) s = csrGate o.csr.toNat s k ∧ ((f = .csrr → csrValue s.settled s.cx.hart o.csr.toNat = none) →
      csrSet s.settled.me o.csr.toNat 0 = none → k s.settled = illegal s.settled) := by
  have write : ∀ kind, exec (f o) s = csrWriteWith kind o s → ∃ k, exec (f o) s = csrGate o.csr.toNat s k ∧
      ((f = .csrr → csrValue s.settled s.cx.hart o.csr.toNat = none) →
        csrSet s.settled.me o.csr.toNat 0 = none → k s.settled = illegal s.settled) := fun kind e =>
    ⟨_, e, fun _ unset => by dsimp only; rw [csrSet_none _ unset]⟩
  simp only [List.mem_cons, List.not_mem_nil, or_false] at hf
  rcases hf with rfl | rfl | rfl | rfl
  · exact ⟨_, exec_csrr o s, fun unread _ => by rw [State.settled_cx, unread rfl]⟩
  · exact write .write (exec_csrw o s)
  · exact write .set (exec_csrs o s)
  · exact write .clear (exec_csrc o s)

/-- Settles O13: past the gate a CSR instruction reads, writes or is illegal; before it the number or the mode stops it. -/
theorem csrAccessCompletes : Obligations.CsrAccessCompletes := by
  unfold Obligations.CsrAccessCompletes
  refine ⟨fun o s v x idle => ?_, fun o s idle => ?_⟩
  · intro u n next d valid mode value
    rw [exec_csrr, exec_csrw, exec_csrs, exec_csrc]
    exact ⟨execCsrr_transfers idle valid mode value, csrWriteWith_transfers idle valid mode value .write,
      csrWriteWith_transfers idle valid mode value .set, csrWriteWith_transfers idle valid mode value .clear⟩
  · intro n u f hf
    obtain ⟨k, gate, closed⟩ := exec_csr_gate hf o s
    rw [gate]
    refine ⟨fun reserved => ?_, fun valid above => ?_, fun valid mode unread unset => ?_, fun readOnly writes => ?_⟩
    · rw [csrGate_of_reserved k idle reserved]
      exact traps_settled_illegal s
    · rw [csrGate_of_privileged k idle valid above]
      exact traps_settled s _ _
    · rw [csrGate_of_open k idle valid mode, closed (fun _ => unread) unset]
      exact traps_settled_illegal s
    · have user : n < 0x400 := by
        simp only [List.mem_cons, List.not_mem_nil, or_false] at readOnly
        omega
      rw [csrGate_of_open k idle (by omega) (by omega), closed (fun read => absurd read writes) (csrSet_readOnly _ readOnly)]
      exact traps_settled_illegal s

/-! ## TDELEG (R214) -/

/-- The writable bits of TDELEG are those of the delegable causes of R215. -/
theorem tdelegMask_getLsbD (c : Nat) : tdelegMask.getLsbD c = decide (c ∈ [0x01, 0x02, 0x04, 0x05, 0x09, 0x0A, 0x0B, 0x0C, 0x0D,
    0x0E, 0x0F, 0x10, 0x12, 0x14, 0x15]) := by
  by_cases h : c < 64
  · revert c
    decide
  · rw [BitVec.getLsbD_of_ge _ _ (Nat.le_of_not_lt h)]
    refine (decide_eq_false ?_).symm
    simp only [List.mem_cons, List.not_mem_nil, or_false]
    omega

/-- Settles O15: a write keeps the bits of the mask. -/
theorem delegationRegister : Obligations.DelegationRegister := by
  unfold Obligations.DelegationRegister
  refine ⟨fun s h v => ⟨_, rfl, by simp [csrValue], fun c => ?_⟩, fun h => rfl⟩
  rw [BitVec.getLsbD_and, tdelegMask_getLsbD, Bool.and_comm]

end Sys2Proof.Machine
end

section
/-! WAITPH, PREF and the ring instructions (spec/09 R222, spec/10 R237, R240, R241, spec/02 R48 to R56): what a translation leaves
unwritten, and how each of the instructions ends. -/

namespace Sys2Proof.Machine

/-! ## What a translation leaves unwritten (R93, R98) -/

/-- Memory, the units under keys and the partitions are as they were. -/
structure Unwritten (s t : State) : Prop where
  mem : t.mem = s.mem
  encUnits : t.encUnits = s.encUnits
  parts : t.parts = s.parts

theorem Unwritten.refl (s : State) : Unwritten s s := ⟨rfl, rfl, rfl⟩
theorem Unwritten.trans {s t u : State} (a : Unwritten s t) (b : Unwritten t u) : Unwritten s u :=
  ⟨b.mem.trans a.mem, b.encUnits.trans a.encUnits, b.parts.trans a.parts⟩
theorem Unwritten.foldl {α : Type} {f : State → α → State} (k : ∀ s a, Unwritten s (f s a)) (l : List α) :
    ∀ s, Unwritten s (l.foldl f s) := by
  induction l with
  | nil => exact .refl
  | cons a l ih => exact fun s => (k s a).trans (ih _)

theorem Unwritten.expireSlot (s : State) (g k : Nat) : Unwritten s (s.expireSlot g k) := by
  simp only [State.expireSlot]
  split <;> exact ⟨rfl, rfl, rfl⟩

theorem Unwritten.bankEnd (s : State) (e : BankEnd) : Unwritten s (s.bankEnd e) := by
  simp only [State.bankEnd]
  split <;> exact ⟨rfl, rfl, rfl⟩

theorem Unwritten.settleBank (s : State) (v b : Nat) : Unwritten s (s.settleBank v b) := by
  have expired : Unwritten s (s.expireBank v b) := .foldl (fun s i => by
    split
    · exact .expireSlot s _ _
    · exact .refl s) _ s
  have ended (u : State) : Unwritten u (u.endBank v b) := .foldl .bankEnd _ u
  rw [State.settleBank_eq]
  exact (expired.trans (ended _)).trans ⟨rfl, rfl, rfl⟩

theorem Unwritten.countBad (s : State) (a : Nat) : Unwritten s (s.countBad a) := by
  unfold State.countBad
  split <;> exact ⟨rfl, rfl, rfl⟩

theorem Unwritten.countCorrected (s : State) (a n : Nat) : Unwritten s (s.countCorrected a n) := by
  unfold State.countCorrected
  split <;> exact ⟨rfl, rfl, rfl⟩

theorem Unwritten.touch (s : State) (a n : Nat) : Unwritten s (s.touch a n) := by
  have served : Unwritten s (s.serveBank a) := (Unwritten.settleBank s _ _).trans ⟨rfl, rfl, rfl⟩
  unfold State.touch
  split
  · exact served.trans (.countCorrected _ _ _)
  · exact .refl s

theorem Unwritten.walked (s : State) (w : Who) (va : Word) : Unwritten s (s.walked w va) := by
  unfold State.walked
  split
  · refine .foldl (fun s pa => ?_) _ s
    split
    · exact (Unwritten.countBad s _).trans (.touch _ _ _)
    · exact .touch s _ _
  · exact .refl s

theorem State.walkLook_unwritten {s t : State} {w : Who} {va : Word} {r : Word × Nat × Nat} (h : s.walkLook w va = .ok r t) :
    Unwritten s t := by
  unfold State.walkLook waitBank at h
  dsimp only at h
  repeat' split at h
  all_goals cases h
  exact (Unwritten.walked s w va).trans ⟨rfl, rfl, rfl⟩

/-- A translation writes nothing: it draws, occupies banks and fills the caches. -/
theorem translate_unwritten {s t : State} {w : Who} {va : Word} {r : Word × Nat × Nat} (h : translate w va s = .ok r t) :
    Unwritten s t := by
  have drawn : Unwritten s s.draw.2 := ⟨rfl, rfl, rfl⟩
  unfold translate at h
  dsimp only at h
  split at h
  · exact drawn.trans (State.walkLook_unwritten h)
  · split at h
    · cases h
      exact drawn
    · exact drawn.trans (State.walkLook_unwritten h)

/-! ## PREF (R237) -/

/-- PREF ends as an instruction without a result does, with its translation made where the whole access could be. -/
theorem execPref_finish (o : PrefOp) (s : State) : let h := s.cx.hart; let va := s.rd o.a + o.off
    ∃ v, execPref o s = finish v ∧ Kept s v ∧ Unwritten s v ∧ (classify h va ≠ .g → v = s) ∧
      (classify h va = .g → s.boot.full = true → ∀ e entry level u p x, translate (s.who h) va s = .ok (e, entry, level) u →
        u.physical (s.who h) .load va e (fld e 16 36 * 65536 + va.toNat % leafSize level) 1 = .ok p x → v = u) := by
  have whose : (s.who s.cx.hart).h = s.cx.hart := rfl
  simp only [execPref, whose]
  generalize s.rd o.a + o.off = va
  generalize s.cx.hart = h
  by_cases skipped : (classify h va != .g || !s.boot.full) = true
  · exact ⟨s, if_pos skipped, .refl s, .refl s, fun _ => rfl, fun region full => absurd skipped (by simp [region, full])⟩
  have region : classify h va = .g := by
    cases ne : classify h va != .g with
    | true => exact absurd (by simp [ne]) skipped
    | false => simpa using ne
  simp only [if_neg skipped]
  cases looked : translate (s.who h) va s with
  | ok r t =>
    obtain ⟨e, entry, level⟩ := r
    cases placed : t.physical (s.who h) .load va e (fld e 16 36 * 65536 + va.toNat % leafSize level) 1 with
    | ok p x =>
      obtain rfl := physical_ok _ _ _ _ _ _ _ _ _ placed
      refine ⟨x, by simp [placed], translate_kept _ _ _ _ _ looked, translate_unwritten looked, absurd region, ?_⟩
      intro _ _ e' entry' level' u p' x' hu _
      cases hu
      rfl
    | _ =>
      refine ⟨s, by simp [placed], .refl s, .refl s, absurd region, ?_⟩
      intro _ _ e' entry' level' u p' x' hu hx
      cases hu
      cases placed.symm.trans hx
  | _ => exact ⟨s, rfl, .refl s, .refl s, absurd region, fun _ _ _ _ _ _ _ _ hu => nomatch hu⟩

/-! ## WAITPH (R222) -/

section
variable {o : WaitPh} {s t : State} {bs : List Byte} (read : loadBytes s.cx.hart (s.rd o.a) 8 16 0 s = .ok bs t)
include read

theorem execWaitph_of_awaited (phase : (BitVec.ofNat 64 (ofBytes bs)).getLsbD 63 = o.p) :
    execWaitph o s = finish (t.deferReg o.d (BitVec.ofNat 64 (ofBytes bs))) := by
  rw [execWaitph, read, Look.out_ok]
  exact if_pos (beq_iff_eq.2 phase)

theorem execWaitph_of_other (phase : (BitVec.ofNat 64 (ofBytes bs)).getLsbD 63 ≠ o.p) : execWaitph o s = holdAt .waitph t := by
  rw [execWaitph, read, Look.out_ok]
  exact if_neg (phase ∘ beq_iff_eq.1)

end

/-! ## Rings (R240, R241) -/

theorem finish_deferC0 (s : State) (v : Word) : Completes (finish (s.deferC0 v)) s [.scalar 0 v] := finish_defer s _

/-- Within a scope, an instruction whose hart's earlier stores are ordered goes on. -/
theorem orderedIn_of_drainsIn {sc : Nat} {s t : State} (k : State → Out) (h : State.DrainsIn sc s t) : orderedIn sc s k = k t := by
  obtain ⟨sensed, stores, lives⟩ := h
  have ready : ¬ (sc != 0 && s.rowsBefore s.cx.hart s.steps false) = true := by
    rcases sensed with rfl | rows
    · simp
    · simp [rows]
  rw [orderedIn, if_neg ready, stores]
  simp [lives]

theorem stampsAfter_of_drains {sc : Nat} {locs : List Nat} {s t : State} (k : State → Out)
    (h : if s.me.sbuf.any (fun e => locs.any fun a => e.overlaps a 2) then s.Drains t else State.DrainsIn sc s t) :
    stampsAfter sc locs s k = k t := by
  unfold stampsAfter
  split at h
  · next shares => rw [if_pos shares, drained_eq s t k h.sensed h.stores h.lives]
  · next apart => rw [if_neg apart, orderedIn_of_drainsIn k h]

section
variable {q : RingNo} {n : BitVec 7} {s : State} {r : Ring} (hr : s.ring (s.cx.hart / 64) q.toNat = r)
include hr

theorem execRingadv_of_off (off : RingCfg.mode r.cfg = 0) : execRingadv q n s = finish (s.deferC0 (-2)) := by
  simp [execRingadv, groupOf, hr, off]

theorem execRingpop_of_off (off : RingCfg.mode r.cfg = 0) : execRingpop q n s = finish (s.deferC0 (-2)) := by
  simp [execRingpop, groupOf, hr, off]

variable (on : RingCfg.mode r.cfg ≠ 0)
include on

theorem execRingadv_of_full (full : RingCfg.slots r.cfg < r.count + n.toNat) : execRingadv q n s = finish (s.deferC0 (-1)) := by
  simp [execRingadv, groupOf, hr, on, full, allOnes]

theorem execRingpop_of_short (short : r.count < n.toNat) : execRingpop q n s = finish (s.deferC0 (-1)) := by
  simp [execRingpop, groupOf, hr, on, short, allOnes]

theorem execRingadv_of_room {t : State} (room : r.count + n.toNat ≤ RingCfg.slots r.cfg)
    (after : if s.me.sbuf.any (fun e => (List.range n.toNat).any fun i =>
        e.overlaps (r.stampLoc (s.cx.hart / 64) (r.tail + BitVec.ofNat 16 i)) 2) then s.Drains t else State.DrainsIn 2 s t) :
    execRingadv q n s = finish (((t.stampSlots (s.cx.hart / 64) r n.toNat).setRing (s.cx.hart / 64) q.toNat
      { r with tail := r.tail + n.setWidth 16, seq := r.seq + n.setWidth 16 }).deferC0
        (BitVec.ofNat 64 (r.tail.toNat + r.seq.toNat * 2 ^ 16))) := by
  have stamped := stampsAfter_of_drains (sc := 2)
    (locs := (List.range n.toNat).map fun i => r.stampLoc (s.cx.hart / 64) (r.tail + BitVec.ofNat 16 i)) (s := s) (t := t)
  simp only [List.any_map] at stamped
  simp only [execRingadv, groupOf, hr, beq_iff_eq, if_neg on, if_neg (Nat.not_lt.2 room)]
  exact stamped _ after

theorem execRingpop_of_filled {t : State} (filled : n.toNat ≤ r.count)
    (after : if s.me.sbuf.any (fun e => e.overlaps (r.stampLoc (s.cx.hart / 64) r.head) 2) then s.Drains t
      else State.DrainsIn (s.acquireAfter s.cx.hart 2) s t) :
    execRingpop q n s = finish (((t.wake (r.stampLoc (s.cx.hart / 64) r.head) 2).setRing (s.cx.hart / 64) q.toNat
      { r with head := r.head + n.setWidth 16 }).deferC0
        (BitVec.ofNat 64 (r.head.toNat + t.stamp (s.cx.hart / 64) r (r.slot r.head) * 2 ^ 16))) := by
  have stamped := stampsAfter_of_drains (sc := s.acquireAfter s.cx.hart 2) (locs := [r.stampLoc (s.cx.hart / 64) r.head])
    (s := s) (t := t)
  simp only [List.any_cons, List.any_nil, Bool.or_false] at stamped
  simp only [execRingpop, groupOf, hr, beq_iff_eq, if_neg on, if_neg (Nat.not_lt.2 filled)]
  exact stamped _ after

end

/-- What a configuration word has to be for RINGCFG to install it (R50, R241). -/
def RingCfg.refused (w : Word) : Prop :=
  RingCfg.valid w = false ∨ RingCfg.mode w = 3 ∨ RingCfg.lgslots w = 7 ∨ fld w 16 16 ≠ 0

theorem execRingcfg_of_refused {q : RingNo} {a : RegNo} {s : State} (h : RingCfg.refused (s.rd a)) :
    execRingcfg q a s = finish (s.deferC0 0) := by
  refine if_pos ?_
  simpa [RingCfg.refused, or_assoc] using h

theorem execRingcfg_of_accepted {q : RingNo} {a : RegNo} {s : State} (h : ¬ RingCfg.refused (s.rd a)) :
    execRingcfg q a s = finish ((s.setRing (s.cx.hart / 64) q.toNat
      { cfg := s.rd a, head := 0, tail := 0, seq := (s.rd a).setWidth 16 }).deferC0 1) := by
  refine if_neg ?_
  simpa [RingCfg.refused, or_assoc] using h

/-- Settles O24: each instruction, in each of its cases, ends as its lemma above says, and so completes with its results. -/
theorem pollsAndRingsComplete : Obligations.PollsAndRingsComplete := by
  unfold Obligations.PollsAndRingsComplete
  refine ⟨fun o f s t bs => ⟨fun read => ⟨fun phase => ?_, execWaitph_of_other read⟩, ?_⟩, fun q a n s t => ?_⟩
  · rw [exec_waitph, execWaitph_of_awaited read phase]
    exact finish_defer t _
  · obtain ⟨v, done, kept, unwritten, untouched, made⟩ := execPref_finish f s
    refine ⟨v, ?_, kept.harts, kept.cores, unwritten.mem, unwritten.encUnits, unwritten.parts, untouched, made⟩
    rw [exec_pref, done]
    exact finish_self v
  · intro g w r mode lg count bad
    rw [exec_ringcfg, exec_ringadv, exec_ringpop, exec_ringq]
    refine ⟨fun refused => ?_, fun accepted => ?_, fun off => ⟨?_, ?_⟩, fun on full => ?_, fun on room after => ?_,
      fun on short => ?_, fun on filled after => ?_, finish_deferC0 s _⟩
    · rw [execRingcfg_of_refused refused]
      exact finish_deferC0 s _
    · rw [execRingcfg_of_accepted accepted]
      exact finish_deferC0 _ _
    · rw [execRingadv_of_off rfl off]
      exact finish_deferC0 s _
    · rw [execRingpop_of_off rfl off]
      exact finish_deferC0 s _
    · rw [execRingadv_of_full rfl on full]
      exact finish_deferC0 s _
    · rw [execRingadv_of_room rfl on room after]
      exact finish_deferC0 _ _
    · rw [execRingpop_of_short rfl on short]
      exact finish_deferC0 s _
    · rw [execRingpop_of_filled rfl on filled after]
      exact finish_deferC0 _ _

end Sys2Proof.Machine
end
